-- ==== Sys2Proof/Syntax.lean ====
section
/-!
DEFINITION. The instruction set: one constructor per row of spec/opcode_table.json.

A word's constructor holds the fields of its encoding as the table names them: `h` the hold bit, `p` the
qualifying predicate PQ (R68), then the operand fields with the widths of R123 to R132. An event's or a firmware
command's constructor holds what the event carries: the core `n` (package core number), the context `k`, the
ring cell, or the command's parameters. The opcode table's rows are the part's indivisible steps.
-/

namespace Sys2Proof

/-- The seven engines and the scalar slot (R17), in slot order. -/
inductive Engine where
  | s | l | t | m | a | b | x | k
  deriving DecidableEq, Repr

/-- A context named across the fabric: peer, core within its stack, context (R15, R173). -/
structure CtxRef where
  peer : Nat
  core : Nat
  ctx : Nat
  deriving DecidableEq, Repr

/-- A channel endpoint named across the fabric (R173). -/
structure EndRef where
  who : CtxRef
  ep : Nat
  deriving DecidableEq, Repr

/-- A domain object: the peer that holds it and its index there (R58, R59). -/
structure DomRef where
  peer : Nat
  obj : Nat
  deriving DecidableEq, Repr

/-- A counting network: the package's own (`none`) or a fabric set's, and its number (R293). -/
structure NetRef where
  set : Option Nat
  net : Nat
  deriving DecidableEq, Repr

/-- A ring segment: the level (0 package, 1 rack, 2 row), the ring and the position on it (R280, R375). -/
structure SegRef where
  lvl : Nat
  ring : Nat
  pos : Nat
  deriving DecidableEq, Repr

/-- Why a domain or channel broke (R368, R370, R372, R377): the party that is missing. -/
structure BreakWhy where
  kind : BitVec 4
  party : CtxRef
  deriving DecidableEq, Repr

/-- A cyclic-wait probe (R374): who sent it, whether it arrived as a reader's probe, the endpoint of the receiver
it concerns, its hops and the originator's presentation count when it was sent. -/
structure Probe where
  orig : CtxRef
  reader : Bool
  ep : Nat
  hops : Nat
  stamp : Nat
  deriving DecidableEq, Repr

/-- A ring cell: the header fields of R282 and the payload bytes. `xt` holds header bits 223:128. Beside the header stand the ring of
its level on which the cell travels (R280, R283), and the passes that the station which inserted it has counted (R378). -/
structure RingCell where
  dst : BitVec 12
  src : BitVec 12
  du : BitVec 8
  ty : BitVec 4
  vc : BitVec 2
  dir : BitVec 1
  lvl : BitVec 2
  rfs : BitVec 2
  bc : Bool
  ret : Bool
  len : BitVec 9
  addr : BitVec 45
  tag : BitVec 16
  xt : BitVec 96
  stat : BitVec 32
  payload : List (BitVec 8)
  ring : BitVec 2
  passes : Nat
  deriving DecidableEq, Repr

/-- A cell that comes to its station, and whether the receive buffer there has room for it (R284). -/
structure Arrival where
  cell : RingCell
  room : Bool
  deriving DecidableEq, Repr

/-- The ends of a channel word (R172, R288): the endpoint it comes to and the one it was sent from. -/
structure ChanEnds where
  to_ : EndRef
  by_ : EndRef
  deriving DecidableEq, Repr

/-- A 128-byte line of the pool and what its other user has written there (R271). -/
structure PoolLine where
  line : Nat
  written : List (BitVec 8)
  deriving DecidableEq, Repr

/-- The paging agent's answer for one page and plane of an address space (R356 to R358): for a page read back, its bytes (`none`
where they are what backing storage holds, or where the primer fills the frame); `ok = false` is a refusal. -/
structure PageSupply where
  asn : Nat
  page : Nat
  plane : Nat
  ok : Bool
  content : Option (List (BitVec 8))
  deriving DecidableEq, Repr

/-- Where a command finds bytes in memory (R311): their fabric physical address, and what stands there when it lies
outside this package (log 4). -/
structure Source where
  fpa : Nat
  bytes : List (BitVec 8)
  deriving DecidableEq, Repr

/-- Why the governor cleared a ply bit (R395, region 3). -/
inductive SkipCause where
  | temperature | droop | powercap
  deriving DecidableEq, Repr

/-- Where an uncorrectable stored-data error strikes (R362). -/
inductive ErrSite where
  /-- a line of scratchpad, L1 dirty words, L2 or HBM4: poisoned -/
  | line (structureIdx : BitVec 3) (fpa : Nat)
  /-- 128 bytes of a landing buffer's entry, the lower or the upper half of the row of flight `id` of core `n`: poisoned -/
  | landing (n id : Nat) (fpa : Nat) (hi : Bool)
  /-- a context's register file, queue storage, checkpoints, tables, scale queues or mailboxes: escalation, WHY 3 -/
  | context (structureIdx : BitVec 3) (n k : Nat)
  deriving DecidableEq, Repr

/-- The head of a firmware command: the sending host peer and its sequence number (R309). -/
structure HostCmd where
  peer : BitVec 12
  seq : BitVec 32
  deriving DecidableEq, Repr

/-- One constructor per row of the opcode table. -/
inductive Instr where
  /-- `NOP.s` (R68). The S-slot NOP does nothing and ends any hold of the S slot. -/
  | nopS (h : BitVec 1) (p : BitVec 3)
  /-- `ADD` (R140). Writes sA + sB modulo 2^64 to sD at dispatch. -/
  | add (h : BitVec 1) (p : BitVec 3) (d a b : BitVec 5)
  /-- `SUB` (R140). Writes sA − sB modulo 2^64 to sD. -/
  | sub (h : BitVec 1) (p : BitVec 3) (d a b : BitVec 5)
  /-- `MUL` (R140). Writes the low 64 bits of the product; the result is ready 3 cc after dispatch. -/
  | mul (h : BitVec 1) (p : BitVec 3) (d a b : BitVec 5)
  /-- `MULH` (R140). Writes the high 64 bits of the signed 128-bit product. -/
  | mulh (h : BitVec 1) (p : BitVec 3) (d a b : BitVec 5)
  /-- `MULHU` (R140). Writes the high 64 bits of the unsigned 128-bit product. -/
  | mulhu (h : BitVec 1) (p : BitVec 3) (d a b : BitVec 5)
  /-- `DIV` (R140). Writes the signed quotient rounded toward zero, with defined results for zero and overflow; ready 20 cc after dispatch. -/
  | div (h : BitVec 1) (p : BitVec 3) (d a b : BitVec 5)
  /-- `DIVU` (R140). Writes the unsigned quotient; a zero divisor gives all ones. -/
  | divu (h : BitVec 1) (p : BitVec 3) (d a b : BitVec 5)
  /-- `REM` (R140). Writes the signed remainder, taking the sign of a. -/
  | rem (h : BitVec 1) (p : BitVec 3) (d a b : BitVec 5)
  /-- `AND` (R140). Writes sA AND sB. -/
  | and (h : BitVec 1) (p : BitVec 3) (d a b : BitVec 5)
  /-- `OR` (R140). Writes sA OR sB. -/
  | or (h : BitVec 1) (p : BitVec 3) (d a b : BitVec 5)
  /-- `XOR` (R140). Writes sA XOR sB. -/
  | xor (h : BitVec 1) (p : BitVec 3) (d a b : BitVec 5)
  /-- `ANDN` (R140). Writes sA AND NOT sB. -/
  | andn (h : BitVec 1) (p : BitVec 3) (d a b : BitVec 5)
  /-- `SHL` (R140). Shifts sA left by sB[5:0]. -/
  | shl (h : BitVec 1) (p : BitVec 3) (d a b : BitVec 5)
  /-- `SHR` (R140). Shifts sA right logically by sB[5:0]. -/
  | shr (h : BitVec 1) (p : BitVec 3) (d a b : BitVec 5)
  /-- `SAR` (R140). Shifts sA right arithmetically by sB[5:0]. -/
  | sar (h : BitVec 1) (p : BitVec 3) (d a b : BitVec 5)
  /-- `MIN` (R140). Writes the signed minimum. -/
  | min (h : BitVec 1) (p : BitVec 3) (d a b : BitVec 5)
  /-- `MAX` (R140). Writes the signed maximum. -/
  | max (h : BitVec 1) (p : BitVec 3) (d a b : BitVec 5)
  /-- `MINU` (R140). Writes the unsigned minimum. -/
  | minu (h : BitVec 1) (p : BitVec 3) (d a b : BitVec 5)
  /-- `MAXU` (R140). Writes the unsigned maximum. -/
  | maxu (h : BitVec 1) (p : BitVec 3) (d a b : BitVec 5)
  /-- `CLZ` (R140). Writes the count of leading zero bits of sA. -/
  | clz (h : BitVec 1) (p : BitVec 3) (d a : BitVec 5)
  /-- `POPC` (R140). Writes the count of set bits of sA. -/
  | popc (h : BitVec 1) (p : BitVec 3) (d a : BitVec 5)
  /-- `SEL` (R140). Writes sA when sD is nonzero and sB otherwise. -/
  | sel (h : BitVec 1) (p : BitVec 3) (d a b : BitVec 5)
  /-- `ADDI` (R141). Adds a sign-extended 12-bit immediate. -/
  | addi (h : BitVec 1) (p : BitVec 3) (d a : BitVec 5) (i : BitVec 12)
  /-- `ANDI` (R141). ANDs with a sign-extended 12-bit immediate. -/
  | andi (h : BitVec 1) (p : BitVec 3) (d a : BitVec 5) (i : BitVec 12)
  /-- `ORI` (R141). ORs with a sign-extended 12-bit immediate. -/
  | ori (h : BitVec 1) (p : BitVec 3) (d a : BitVec 5) (i : BitVec 12)
  /-- `XORI` (R141). XORs with a sign-extended 12-bit immediate. -/
  | xori (h : BitVec 1) (p : BitVec 3) (d a : BitVec 5) (i : BitVec 12)
  /-- `SHLI` (R141). Shifts left by an immediate count of 0 to 63. -/
  | shli (h : BitVec 1) (p : BitVec 3) (d a : BitVec 5) (n : BitVec 6)
  /-- `SHRI` (R141). Shifts right logically by an immediate count. -/
  | shri (h : BitVec 1) (p : BitVec 3) (d a : BitVec 5) (n : BitVec 6)
  /-- `SARI` (R141). Shifts right arithmetically by an immediate count. -/
  | sari (h : BitVec 1) (p : BitVec 3) (d a : BitVec 5) (n : BitVec 6)
  /-- `LIM` (R141). Writes a sign-extended 17-bit immediate. -/
  | lim (h : BitVec 1) (p : BitVec 3) (d : BitVec 5) (i : BitVec 17)
  /-- `LIMS` (R141). Shifts sD left 17 places and ORs in an unsigned 17-bit immediate. -/
  | lims (h : BitVec 1) (p : BitVec 3) (d : BitVec 5) (i : BitVec 17)
  /-- `CMP.cc` (R144). Sets a predicate from a comparison of two scalar registers. -/
  | cmp (h : BitVec 1) (p : BitVec 3) (d : BitVec 4) (c : BitVec 3) (a b : BitVec 5)
  /-- `CMPI.cc` (R144). Sets a predicate from a comparison with a 10-bit immediate. -/
  | cmpi (h : BitVec 1) (p : BitVec 3) (d : BitVec 4) (c : BitVec 3) (a : BitVec 5) (i : BitVec 10)
  /-- `PAND` (R145). Writes pA AND pB to pD. -/
  | pand (h : BitVec 1) (p : BitVec 3) (d a b : BitVec 4)
  /-- `POR` (R145). Writes pA OR pB to pD. -/
  | por (h : BitVec 1) (p : BitVec 3) (d a b : BitVec 4)
  /-- `PXOR` (R145). Writes pA XOR pB to pD. -/
  | pxor (h : BitVec 1) (p : BitVec 3) (d a b : BitVec 4)
  /-- `PANDN` (R145). Writes pA AND NOT pB to pD. -/
  | pandn (h : BitVec 1) (p : BitVec 3) (d a b : BitVec 4)
  /-- `PNOT` (R145). Writes NOT pA to pD. -/
  | pnot (h : BitVec 1) (p : BitVec 3) (d a : BitVec 4)
  /-- `BFX` (R142). Extracts a zero-extended bit field. -/
  | bfx (h : BitVec 1) (p : BitVec 3) (d a : BitVec 5) (l n : BitVec 6)
  /-- `BFI` (R142). Inserts a bit field into sD. -/
  | bfi (h : BitVec 1) (p : BitVec 3) (d a : BitVec 5) (l n : BitVec 6)
  /-- `PADR` (R143). Replaces the plane field of an address. -/
  | padr (h : BitVec 1) (p : BitVec 3) (d a : BitVec 5) (q : BitVec 4)
  /-- `PCREL` (R143). Writes the bundle's header address plus imm × 4. -/
  | pcrel (h : BitVec 1) (p : BitVec 3) (d : BitVec 5) (i : BitVec 17)
  /-- `BR` (R146). Transfers to a PC-relative target when its predicate is true, closing open loops. -/
  | br (h : BitVec 1) (p : BitVec 3) (o : BitVec 22)
  /-- `CALL` (R146). Transfers to a PC-relative target and writes the return address to s31. -/
  | call (h : BitVec 1) (p : BitVec 3) (o : BitVec 22)
  /-- `JMPR` (R146). Transfers to the address in sA. -/
  | jmpr (h : BitVec 1) (p : BitVec 3) (a : BitVec 5)
  /-- `LOOP` (R87). Opens a hardware loop level with a trip count from a register and a body of 1 to 64 bundles. -/
  | loop (h : BitVec 1) (p v : BitVec 3) (s : BitVec 5) (l : BitVec 6)
  /-- `LEXIT` (R150). Closes an open loop level and the levels inside it, continuing after its body. -/
  | lexit (h : BitVec 1) (p v : BitVec 3)
  /-- `WSEL` (R75). In a wait bundle, selects four FLG bits on which the bundle's words wait. -/
  | wsel (h : BitVec 1) (p : BitVec 3) (x : BitVec 1) (a b c d : BitVec 5)
  /-- `SIG` (R152). Sets an FLG bit on the own core or on a named remote core. -/
  | sig (h : BitVec 1) (p : BitVec 3) (f : BitVec 6) (a : BitVec 5)
  /-- `SYNCD` (R60). Arrives at the domain of a level and blocks until its phase flips. -/
  | syncd (h : BitVec 1) (p v : BitVec 3)
  /-- `YIELD` (R154). Gives up the core after dispatch; the context stays Ready. -/
  | yield (h : BitVec 1) (p : BitVec 3)
  /-- `RETIRE` (R155). Ends the context once its earlier words complete, and decrements its domains' member counts. -/
  | retire (h : BitVec 1) (p : BitVec 3)
  /-- `FORK` (R156). Activates the lowest Reserved context of the instance at a target with an argument. -/
  | fork (h : BitVec 1) (p : BitVec 3) (a b c : BitVec 5)
  /-- `CSRR` (R157). Reads a CSR into a scalar register at dispatch. -/
  | csrr (h : BitVec 1) (p : BitVec 3) (d : BitVec 5) (n : BitVec 12)
  /-- `CSRW` (R157). Writes the RW fields of a CSR. -/
  | csrw (h : BitVec 1) (p : BitVec 3) (a : BitVec 5) (n : BitVec 12)
  /-- `CSRS` (R157). Sets bits in the RW fields of a CSR. -/
  | csrs (h : BitVec 1) (p : BitVec 3) (a : BitVec 5) (n : BitVec 12)
  /-- `CSRC` (R157). Clears bits in the RW fields of a CSR. -/
  | csrc (h : BitVec 1) (p : BitVec 3) (a : BitVec 5) (n : BitVec 12)
  /-- `TRAP` (R148). Enters the context's handler with cause 1 and a code. -/
  | trap (h : BitVec 1) (p : BitVec 3) (i : BitVec 17)
  /-- `RTE` (R324). Returns from the handler to TRAPPC, restoring the shadow and clearing IH after a fault. -/
  | rte (h : BitVec 1) (p : BitVec 3)
  /-- `BRK` (R148). Enters the handler with cause 2 as a breakpoint. -/
  | brk (h : BitVec 1) (p : BitVec 3) (i : BitVec 17)
  /-- `QCFG` (R168). Sets a vector queue's depth and width and empties it. -/
  | qcfg (h : BitVec 1) (p : BitVec 3) (q : BitVec 5) (d : BitVec 8) (w : BitVec 2)
  /-- `QCFG.keep` (R84). Sets a queue's depth and width, keeping its rows in order. -/
  | qcfgKeep (h : BitVec 1) (p : BitVec 3) (q : BitVec 5) (d : BitVec 8) (w : BitVec 2)
  /-- `QREL` (R84). Sets a queue's depth to 0 and returns its storage to the pool. -/
  | qrel (h : BitVec 1) (p : BitVec 3) (q : BitVec 5)
  /-- `QSTAT` (R79). Reads a queue's state word. -/
  | qstat (h : BitVec 1) (p : BitVec 3) (d q : BitVec 5)
  /-- `ASET` (R169). Sets an address stream's base and clears its use counter. -/
  | aset (h : BitVec 1) (p : BitVec 3) (n : BitVec 4) (a : BitVec 5)
  /-- `ADIM` (R169). Sets one dimension of an address stream: stride, bound and binding. -/
  | adim (h : BitVec 1) (p : BitVec 3) (n : BitVec 4) (d : BitVec 3) (s b : BitVec 5) (k : BitVec 3)
  /-- `AGET` (R169). Reads an index, the next address or the base of a stream. -/
  | aget (h : BitVec 1) (p : BitVec 3) (d : BitVec 5) (n : BitVec 4) (s : BitVec 3)
  /-- `MBXR` (R170). Reads a mailbox. -/
  | mbxr (h : BitVec 1) (p : BitVec 3) (d : BitVec 5) (m : BitVec 3)
  /-- `MBXW` (R170). Writes a mailbox. -/
  | mbxw (h : BitVec 1) (p : BitVec 3) (a : BitVec 5) (m : BitVec 3)
  /-- `PCRT` (R171). Asks the paging agent to create a tenant plane within the set's quota. -/
  | pcrt (h : BitVec 1) (p : BitVec 3) (a b c : BitVec 5) (q : BitVec 4)
  /-- `PDEL` (R171). Asks the paging agent to delete a tenant plane and reclaim its frames. -/
  | pdel (h : BitVec 1) (p : BitVec 3) (a : BitVec 5) (q : BitVec 4)
  /-- `PPRT` (R171). Asks the paging agent to rewrite RD and W of a tenant plane. -/
  | pprt (h : BitVec 1) (p : BitVec 3) (a : BitVec 5) (w r : BitVec 1) (q : BitVec 4)
  /-- `CHBIND` (R173). Binds a channel endpoint to a remote end once its send count is 0. -/
  | chbind (h : BitVec 1) (p c : BitVec 3) (a : BitVec 5)
  /-- `CHRD` (R174). Pops a word from a channel endpoint and acknowledges it, blocking when empty. -/
  | chrd (h : BitVec 1) (p : BitVec 3) (d : BitVec 5) (c : BitVec 3)
  /-- `CHWR` (R174). Sends a word on a channel endpoint, blocking or spilling when full. -/
  | chwr (h : BitVec 1) (p : BitVec 3) (a : BitVec 5) (c : BitVec 3)
  /-- `idle` (R67). An empty bundle dispatches in one cycle, carrying only repeats of held words. -/
  | idle (a b c d e f : BitVec 3) (s t : BitVec 1)
  /-- `NOP.l` (R68). The L-slot NOP does nothing and ends any hold of the L slot. -/
  | nopL (h : BitVec 1) (p : BitVec 3)
  /-- `LDS.sz` (R181). Loads 2^SZ bytes from the scratchpad into a scalar register, 6 cc later. -/
  | lds (h : BitVec 1) (p : BitVec 3) (s : BitVec 1) (d b : BitVec 5) (z : BitVec 2) (o : BitVec 3) (f : BitVec 6)
  /-- `LDG.sz` (R181). Loads a global element into a scalar register on return. -/
  | ldg (h : BitVec 1) (p : BitVec 3) (s : BitVec 1) (d b : BitVec 5) (z : BitVec 2) (o : BitVec 3) (f : BitVec 6)
  /-- `LDV` (R182). Loads one scratchpad row into a queue, pushing 6 cc after issue. -/
  | ldv (h : BitVec 1) (p : BitVec 3) (s : BitVec 1) (d b : BitVec 5) (o : BitVec 3)
  /-- `LDVT.eN` (R183). Loads one column of a swizzled 64-row scratchpad tile into a queue. -/
  | ldvt (h : BitVec 1) (p : BitVec 3) (s : BitVec 1) (d b : BitVec 5) (e : BitVec 2)
  /-- `LGV` (R184). Loads one global row as a landing at the named cycle. -/
  | lgv (h : BitVec 1) (p : BitVec 3) (s : BitVec 1) (d b : BitVec 5) (x : BitVec 8) (o : BitVec 3)
  /-- `PLD` (R185). Loads the same positions of several planes with one translation, as landings. -/
  | pld (h : BitVec 1) (p : BitVec 3) (d : BitVec 5) (n : BitVec 3) (x : BitVec 8) (q : BitVec 2) (m : BitVec 4)
  /-- `TLD` (R186). Loads a tile through a tensor handle, padding at the edges. -/
  | tld (h : BitVec 1) (p : BitVec 3) (d k c : BitVec 5) (t : BitVec 2) (r : BitVec 1) (o : BitVec 3)
  /-- `LDX` (R187). Pops an index row and loads one global row per index. -/
  | ldx (h : BitVec 1) (p : BitVec 3) (s : BitVec 1) (d b i : BitVec 5) (o : BitVec 3)
  /-- `NOP.t` (R68). The T-slot NOP does nothing and ends any hold of the T slot. -/
  | nopT (h : BitVec 1) (p : BitVec 3)
  /-- `STS.sz` (R189). Stores the low bytes of a scalar to the scratchpad. -/
  | sts (h : BitVec 1) (p : BitVec 3) (s : BitVec 1) (d b : BitVec 5) (z : BitVec 2) (o : BitVec 3) (f : BitVec 6)
  /-- `STG.sz` (R189). Stores a scalar to a global element, merging narrow elements at their home. -/
  | stg (h : BitVec 1) (p : BitVec 3) (s : BitVec 1) (d b : BitVec 5) (z : BitVec 2) (o : BitVec 3) (f : BitVec 6)
  /-- `STV` (R191). Pops a row and stores it to the scratchpad. -/
  | stv (h : BitVec 1) (p : BitVec 3) (s : BitVec 1) (d b : BitVec 5) (o : BitVec 3)
  /-- `SGV` (R191). Pops a row and stores it to global memory, optionally under a lane mask. -/
  | sgv (h : BitVec 1) (p : BitVec 3) (s : BitVec 1) (d b : BitVec 5) (e : BitVec 1) (m o : BitVec 3)
  /-- `PST` (R192). Stores one row per plane to the same positions with one translation. -/
  | pst (h : BitVec 1) (p : BitVec 3) (d : BitVec 5) (n : BitVec 3) (q : BitVec 2) (m : BitVec 4)
  /-- `TST` (R192). Stores a tile through a tensor handle, clipping at the edges. -/
  | tst (h : BitVec 1) (p : BitVec 3) (d k c : BitVec 5) (t : BitVec 2) (r : BitVec 1) (o : BitVec 3)
  /-- `STX` (R192). Pops an index row and stores one row per index. -/
  | stx (h : BitVec 1) (p : BitVec 3) (s : BitVec 1) (d b i : BitVec 5) (o : BitVec 3)
  /-- `ATOM.op` (R193). Performs one read-modify-write at a global location and returns the old value. -/
  | atom (h : BitVec 1) (p : BitVec 3) (a : BitVec 4) (d b s : BitVec 5) (o : BitVec 3)
  /-- `REDV.op.t` (R194). Pops a row and combines each element atomically into memory by add or max. -/
  | redv (h : BitVec 1) (p : BitVec 3) (s : BitVec 1) (d b : BitVec 5) (r : BitVec 2) (o : BitVec 3)
  /-- `SIGST` (R190). Performs an 8-byte release store and notifies the engines that watch the word. -/
  | sigst (h : BitVec 1) (p : BitVec 3) (s : BitVec 1) (d b : BitVec 5) (o : BitVec 3) (f : BitVec 6)
  /-- `FENCE.scope` (R196). Holds later T and L words until earlier accesses have performed at the scope. -/
  | fence (h : BitVec 1) (p s : BitVec 3)
  /-- `FENCEX.scope` (R196). Acts as FENCE and orders writes and reads across two engine classes. -/
  | fencex (h : BitVec 1) (p s a b : BitVec 3)
  /-- `DRAIN.scope` (R196). Holds later T words until earlier accesses have performed at the scope. -/
  | drain (h : BitVec 1) (p s : BitVec 3)
  /-- `CPY` (R198). Hands a byte copy between global byte buffers to a copy engine. -/
  | cpy (h : BitVec 1) (p : BitVec 3) (a b c : BitVec 5)
  /-- `COLL.op.type` (R200). Hands a collective on one bucket to the collective engine. -/
  | coll (h : BitVec 1) (p : BitVec 3) (a b c : BitVec 5) (y : BitVec 1) (x : BitVec 3)
  /-- `GATH` (R199). Hands a gather of listed byte ranges to the cluster's gather engine. -/
  | gath (h : BitVec 1) (p : BitVec 3) (a b c : BitVec 5)
  /-- `TAKE` (R202). Draws one number from a counting network into a pending scalar. -/
  | take (h : BitVec 1) (p : BitVec 3) (a : BitVec 5) (n : BitVec 4)
  /-- `ARRW` (R201). Arms an arrival word with a byte target and a flag. -/
  | arrw (h : BitVec 1) (p : BitVec 3) (a b : BitVec 5) (f : BitVec 6)
  /-- `NOP.m` (R68). The M-slot NOP does nothing, ends the M hold and ends a matrix run. -/
  | nopM (h : BitVec 1) (p : BitVec 3)
  /-- `MLW.type` (R213). Loads 64 weight rows from a queue into the shadow weight set. -/
  | mlw (h : BitVec 1) (p : BitVec 3) (q : BitVec 5) (t : BitVec 3)
  /-- `MSWP` (R214). Exchanges the active and shadow weight sets once the latest load is complete. -/
  | mswp (h : BitVec 1) (p : BitVec 3)
  /-- `MMA.type` (R215). Enters one activation row into the array; the output row goes to fl. -/
  | mma (h : BitVec 1) (p : BitVec 3) (q : BitVec 5) (t : BitVec 3)
  /-- `MMAC.type` (R215). Enters one activation row with an accumulator row. -/
  | mmac (h : BitVec 1) (p : BitVec 3) (q c : BitVec 5) (t : BitVec 3)
  /-- `MCHN` (R219). Sets the core's tandem-chain membership after draining the array. -/
  | mchn (h : BitVec 1) (p : BitVec 3) (a : BitVec 5)
  /-- `MDRN` (R216). Waits until every row of the core is pushed and no load or tandem row remains. -/
  | mdrn (h : BitVec 1) (p : BitVec 3)
  /-- `MSTS` (R218). Pops the context's oldest matrix completion record into a scalar. -/
  | msts (h : BitVec 1) (p : BitVec 3) (d : BitVec 5)
  /-- `MZER` (R216). Drains the array and writes code 0 into every weight of both sets. -/
  | mzer (h : BitVec 1) (p : BitVec 3)
  /-- `NOP.a` (R68). The A- or B-slot NOP does nothing and ends that slot's hold. -/
  | nopAb (h : BitVec 1) (p : BitVec 3)
  /-- `VADD.t.w` (R229). Adds lanes with one rounding. -/
  | vadd (h : BitVec 1) (p : BitVec 3) (w : BitVec 2) (t : BitVec 3) (d : BitVec 5) (j : BitVec 1) (a : BitVec 5) (k : BitVec 1) (b : BitVec 5)
  /-- `VSUB.t.w` (R229). Subtracts lanes with one rounding. -/
  | vsub (h : BitVec 1) (p : BitVec 3) (w : BitVec 2) (t : BitVec 3) (d : BitVec 5) (j : BitVec 1) (a : BitVec 5) (k : BitVec 1) (b : BitVec 5)
  /-- `VMUL.t.w` (R229). Multiplies lanes with one rounding. -/
  | vmul (h : BitVec 1) (p : BitVec 3) (w : BitVec 2) (t : BitVec 3) (d : BitVec 5) (j : BitVec 1) (a : BitVec 5) (k : BitVec 1) (b : BitVec 5)
  /-- `VFMA.t.w` (R229). Fused multiply-add into the accumulator popped from the destination queue. -/
  | vfma (h : BitVec 1) (p : BitVec 3) (w : BitVec 2) (t : BitVec 3) (d : BitVec 5) (j : BitVec 1) (a : BitVec 5) (k : BitVec 1) (b : BitVec 5)
  /-- `VFMS.t.w` (R229). Fused z − x·y into the accumulator popped from the destination queue. -/
  | vfms (h : BitVec 1) (p : BitVec 3) (w : BitVec 2) (t : BitVec 3) (d : BitVec 5) (j : BitVec 1) (a : BitVec 5) (k : BitVec 1) (b : BitVec 5)
  /-- `VMIN.t.w` (R230). Returns the lesser operand code in each lane. -/
  | vmin (h : BitVec 1) (p : BitVec 3) (w : BitVec 2) (t : BitVec 3) (d : BitVec 5) (j : BitVec 1) (a : BitVec 5) (k : BitVec 1) (b : BitVec 5)
  /-- `VMAX.t.w` (R230). Returns the greater operand code in each lane. -/
  | vmax (h : BitVec 1) (p : BitVec 3) (w : BitVec 2) (t : BitVec 3) (d : BitVec 5) (j : BitVec 1) (a : BitVec 5) (k : BitVec 1) (b : BitVec 5)
  /-- `VABS.t.w` (R230). Clears the sign of each lane. -/
  | vabs (h : BitVec 1) (p : BitVec 3) (w : BitVec 2) (t : BitVec 3) (d : BitVec 5) (j : BitVec 1) (a : BitVec 5)
  /-- `VNEG.t.w` (R230). Inverts the sign of each lane. -/
  | vneg (h : BitVec 1) (p : BitVec 3) (w : BitVec 2) (t : BitVec 3) (d : BitVec 5) (j : BitVec 1) (a : BitVec 5)
  /-- `VCMP.cc.t.w` (R231). Compares floating lanes and writes a lane mask. -/
  | vcmp (h : BitVec 1) (p : BitVec 3) (w : BitVec 2) (t : BitVec 3) (c : BitVec 2) (m : BitVec 3) (j : BitVec 1) (a : BitVec 5) (k : BitVec 1) (b : BitVec 5)
  /-- `VSEL.t.w` (R232). Selects lanes of a or b by mask m0. -/
  | vsel (h : BitVec 1) (p : BitVec 3) (w : BitVec 2) (t : BitVec 3) (d : BitVec 5) (j : BitVec 1) (a : BitVec 5) (k : BitVec 1) (b : BitVec 5)
  /-- `VIADD.t.w` (R233). Adds integer lanes modulo the lane size. -/
  | viadd (h : BitVec 1) (p : BitVec 3) (w : BitVec 2) (t : BitVec 3) (d : BitVec 5) (j : BitVec 1) (a : BitVec 5) (k : BitVec 1) (b : BitVec 5)
  /-- `VISUB.t.w` (R233). Subtracts integer lanes. -/
  | visub (h : BitVec 1) (p : BitVec 3) (w : BitVec 2) (t : BitVec 3) (d : BitVec 5) (j : BitVec 1) (a : BitVec 5) (k : BitVec 1) (b : BitVec 5)
  /-- `VIMUL.t.w` (R233). Multiplies integer lanes, keeping the low bits. -/
  | vimul (h : BitVec 1) (p : BitVec 3) (w : BitVec 2) (t : BitVec 3) (d : BitVec 5) (j : BitVec 1) (a : BitVec 5) (k : BitVec 1) (b : BitVec 5)
  /-- `VIMAC.t.w` (R233). Integer multiply-accumulate into the destination queue's rows. -/
  | vimac (h : BitVec 1) (p : BitVec 3) (w : BitVec 2) (t : BitVec 3) (d : BitVec 5) (j : BitVec 1) (a : BitVec 5) (k : BitVec 1) (b : BitVec 5)
  /-- `VAND.t.w` (R233). ANDs lanes. -/
  | vand (h : BitVec 1) (p : BitVec 3) (w : BitVec 2) (t : BitVec 3) (d : BitVec 5) (j : BitVec 1) (a : BitVec 5) (k : BitVec 1) (b : BitVec 5)
  /-- `VOR.t.w` (R233). ORs lanes. -/
  | vor (h : BitVec 1) (p : BitVec 3) (w : BitVec 2) (t : BitVec 3) (d : BitVec 5) (j : BitVec 1) (a : BitVec 5) (k : BitVec 1) (b : BitVec 5)
  /-- `VXOR.t.w` (R233). XORs lanes. -/
  | vxor (h : BitVec 1) (p : BitVec 3) (w : BitVec 2) (t : BitVec 3) (d : BitVec 5) (j : BitVec 1) (a : BitVec 5) (k : BitVec 1) (b : BitVec 5)
  /-- `VSHL.t.w` (R233). Shifts lanes left by per-lane counts. -/
  | vshl (h : BitVec 1) (p : BitVec 3) (w : BitVec 2) (t : BitVec 3) (d : BitVec 5) (j : BitVec 1) (a : BitVec 5) (k : BitVec 1) (b : BitVec 5)
  /-- `VSHR.t.w` (R233). Shifts lanes right logically. -/
  | vshr (h : BitVec 1) (p : BitVec 3) (w : BitVec 2) (t : BitVec 3) (d : BitVec 5) (j : BitVec 1) (a : BitVec 5) (k : BitVec 1) (b : BitVec 5)
  /-- `VSAR.t.w` (R233). Shifts lanes right arithmetically. -/
  | vsar (h : BitVec 1) (p : BitVec 3) (w : BitVec 2) (t : BitVec 3) (d : BitVec 5) (j : BitVec 1) (a : BitVec 5) (k : BitVec 1) (b : BitVec 5)
  /-- `VICMP.cc.t.w` (R231). Compares integer lanes and writes a lane mask. -/
  | vicmp (h : BitVec 1) (p : BitVec 3) (w : BitVec 2) (t : BitVec 3) (c : BitVec 2) (m : BitVec 3) (j : BitVec 1) (a : BitVec 5) (k : BitVec 1) (b : BitVec 5)
  /-- `VCVT.dt.st.w` (R234). Converts lanes between a source and a destination type. -/
  | vcvt (h : BitVec 1) (p : BitVec 3) (w : BitVec 2) (t : BitVec 3) (d : BitVec 5) (j : BitVec 1) (a : BitVec 5) (s : BitVec 3) (x y : BitVec 1)
  /-- `VQNT.t.w` (R236). Quantises binary32 lanes under a row or block power-of-two scale. -/
  | vqnt (h : BitVec 1) (p : BitVec 3) (w : BitVec 2) (t : BitVec 3) (d : BitVec 5) (j : BitVec 1) (a : BitVec 5) (k : BitVec 1) (b : BitVec 5)
  /-- `VDQ.t.w` (R237). Dequantises 8-bit elements to binary32 under scales from the row or a scale queue. -/
  | vdq (h : BitVec 1) (p : BitVec 3) (w : BitVec 2) (t : BitVec 3) (d : BitVec 5) (j : BitVec 1) (a : BitVec 5) (k : BitVec 1) (b : BitVec 5)
  /-- `VSCL.w` (R238). Rescales a binary32 row by a per-channel table and a row scale. -/
  | vscl (h : BitVec 1) (p : BitVec 3) (w : BitVec 2) (s : BitVec 3) (d : BitVec 5) (j : BitVec 1) (a : BitVec 5) (q : BitVec 3)
  /-- `VAMAX.t.w` (R235). Pushes the largest finite magnitude of the lanes with NaN and infinity flags. -/
  | vamax (h : BitVec 1) (p : BitVec 3) (w : BitVec 2) (t : BitVec 3) (d : BitVec 5) (j : BitVec 1) (a : BitVec 5)
  /-- `VOSPL.t.w` (R239). Splits outlier channels into a bfloat16 side row. -/
  | vospl (h : BitVec 1) (p : BitVec 3) (w : BitVec 2) (t : BitVec 3) (d : BitVec 5) (j : BitVec 1) (a : BitVec 5) (q : BitVec 3)
  /-- `VADDSUB.t.w` (R241). Adds, subtracts or skips INT8 activations into the accumulator by the sign of b. -/
  | vaddsub (h : BitVec 1) (p : BitVec 3) (w : BitVec 2) (t : BitVec 3) (d : BitVec 5) (j : BitVec 1) (a : BitVec 5) (k : BitVec 1) (b : BitVec 5)
  /-- `VUNPK3.t.w` (R240). Decodes packed ternary bytes into integer lanes of −1, 0 and +1. -/
  | vunpk3 (h : BitVec 1) (p : BitVec 3) (w : BitVec 2) (t : BitVec 3) (d : BitVec 5) (j : BitVec 1) (a : BitVec 5)
  /-- `VMOV.w` (R242). Copies the W bits of a row. -/
  | vmov (h : BitVec 1) (p : BitVec 3) (w : BitVec 2) (d : BitVec 5) (j : BitVec 1) (a : BitVec 5)
  /-- `VBCST.t.w` (R242). Broadcasts lane k to every lane. -/
  | vbcst (h : BitVec 1) (p : BitVec 3) (w : BitVec 2) (t : BitVec 3) (d : BitVec 5) (j : BitVec 1) (a : BitVec 5) (k : BitVec 6)
  /-- `VEXT.t.w` (R242). Extracts lane k into lane 0. -/
  | vext (h : BitVec 1) (p : BitVec 3) (w : BitVec 2) (t : BitVec 3) (d : BitVec 5) (j : BitVec 1) (a : BitVec 5) (k : BitVec 6)
  /-- `VINS.t.w` (R242). Inserts lane 0 of a into lane k of the accumulator row. -/
  | vins (h : BitVec 1) (p : BitVec 3) (w : BitVec 2) (t : BitVec 3) (d : BitVec 5) (j : BitVec 1) (a : BitVec 5) (k : BitVec 6)
  /-- `VPERM.t.w` (R242). Permutes lanes of a by the indices in b. -/
  | vperm (h : BitVec 1) (p : BitVec 3) (w : BitVec 2) (t : BitVec 3) (d : BitVec 5) (j : BitVec 1) (a : BitVec 5) (k : BitVec 1) (b : BitVec 5)
  /-- `VSLD.t.w` (R242). Slides lanes by a signed immediate. -/
  | vsld (h : BitVec 1) (p : BitVec 3) (w : BitVec 2) (t : BitVec 3) (d : BitVec 5) (j : BitVec 1) (a : BitVec 5) (k : BitVec 6)
  /-- `VZIP.t.w` (R243). Interleaves two rows into two pushed rows. -/
  | vzip (h : BitVec 1) (p : BitVec 3) (w : BitVec 2) (t : BitVec 3) (d : BitVec 5) (j : BitVec 1) (a : BitVec 5) (k : BitVec 1) (b : BitVec 5)
  /-- `VUZP.t.w` (R243). De-interleaves two rows into even and odd rows. -/
  | vuzp (h : BitVec 1) (p : BitVec 3) (w : BitVec 2) (t : BitVec 3) (d : BitVec 5) (j : BitVec 1) (a : BitVec 5) (k : BitVec 1) (b : BitVec 5)
  /-- `VRSUM.t.w` (R244). Sums the lanes by a fixed pairwise tree into one binary32. -/
  | vrsum (h : BitVec 1) (p : BitVec 3) (w : BitVec 2) (t : BitVec 3) (d : BitVec 5) (j : BitVec 1) (a : BitVec 5)
  /-- `VRMAX.t.w` (R244). Reduces the lanes to their greatest value. -/
  | vrmax (h : BitVec 1) (p : BitVec 3) (w : BitVec 2) (t : BitVec 3) (d : BitVec 5) (j : BitVec 1) (a : BitVec 5)
  /-- `VRND.t.w` (R230). Rounds each lane to an integral value under FPC.RM. -/
  | vrnd (h : BitVec 1) (p : BitVec 3) (w : BitVec 2) (t : BitVec 3) (d : BitVec 5) (j : BitVec 1) (a : BitVec 5)
  /-- `VDRP.t.w` (R245). Applies dropout using a popped row of rq and a threshold and keep-scale. -/
  | vdrp (h : BitVec 1) (p : BitVec 3) (w : BitVec 2) (t : BitVec 3) (d : BitVec 5) (j : BitVec 1) (a : BitVec 5) (k : BitVec 1) (b : BitVec 5)
  /-- `MAND` (R246). ANDs two lane masks. -/
  | mand (h : BitVec 1) (p d a b : BitVec 3)
  /-- `MOR` (R246). ORs two lane masks. -/
  | mor (h : BitVec 1) (p d a b : BitVec 3)
  /-- `MNOT` (R246). Inverts a lane mask. -/
  | mnot (h : BitVec 1) (p d a : BitVec 3)
  /-- `VIOTA.t.w` (R246). Writes the running count of set mask bits into each lane. -/
  | viota (h : BitVec 1) (p : BitVec 3) (w : BitVec 2) (t : BitVec 3) (d : BitVec 5) (m : BitVec 3)
  /-- `VMSK` (R246). Pops a scale entry and sets the first c bits of a lane mask. -/
  | vmsk (h : BitVec 1) (p d q : BitVec 3)
  /-- `NOP.x` (R68). The X-slot NOP does nothing and ends the X hold. -/
  | nopX (h : BitVec 1) (p : BitVec 3)
  /-- `XEXP2.t.w` (R248). Computes 2^x correctly rounded in each lane. -/
  | xexp2 (h : BitVec 1) (p : BitVec 3) (w : BitVec 2) (t : BitVec 3) (d : BitVec 5) (j : BitVec 1) (a : BitVec 5)
  /-- `XLOG2.t.w` (R248). Computes log2 x in each lane. -/
  | xlog2 (h : BitVec 1) (p : BitVec 3) (w : BitVec 2) (t : BitVec 3) (d : BitVec 5) (j : BitVec 1) (a : BitVec 5)
  /-- `XRCP.t.w` (R248). Computes 1/x in each lane. -/
  | xrcp (h : BitVec 1) (p : BitVec 3) (w : BitVec 2) (t : BitVec 3) (d : BitVec 5) (j : BitVec 1) (a : BitVec 5)
  /-- `XRSQ.t.w` (R248). Computes 1/√x in each lane. -/
  | xrsq (h : BitVec 1) (p : BitVec 3) (w : BitVec 2) (t : BitVec 3) (d : BitVec 5) (j : BitVec 1) (a : BitVec 5)
  /-- `XSQRT.t.w` (R248). Computes √x in each lane. -/
  | xsqrt (h : BitVec 1) (p : BitVec 3) (w : BitVec 2) (t : BitVec 3) (d : BitVec 5) (j : BitVec 1) (a : BitVec 5)
  /-- `XTAB.t.w` (R250). Evaluates a piecewise-linear table slot on each lane. -/
  | xtab (h : BitVec 1) (p : BitVec 3) (w : BitVec 2) (t : BitVec 3) (d : BitVec 5) (j : BitVec 1) (a : BitVec 5) (s : BitVec 2)
  /-- `XTLD.w` (R249). Pops a header row and coefficient rows into a table slot. -/
  | xtld (h : BitVec 1) (p : BitVec 3) (w s : BitVec 2) (j : BitVec 1) (a : BitVec 5)
  /-- `XCVT.dt.st.w` (R234). Converts lanes between types in the X engine. -/
  | xcvt (h : BitVec 1) (p : BitVec 3) (w : BitVec 2) (t : BitVec 3) (d : BitVec 5) (j : BitVec 1) (a : BitVec 5) (s : BitVec 3) (x y : BitVec 1)
  /-- `NOP.k` (R68). The K-slot NOP does nothing and ends the K hold. -/
  | nopK (h : BitVec 1) (p : BitVec 3)
  /-- `KLD` (R203). Pushes consecutive plane elements as a scale entry row at t + 24. -/
  | kld (h : BitVec 1) (p q : BitVec 3) (s : BitVec 1) (b : BitVec 5) (n : BitVec 6)
  /-- `KTAB` (R203). Pushes 64 binary32 table words as a scale entry row. -/
  | ktab (h : BitVec 1) (p q : BitVec 3) (s : BitVec 1) (b : BitVec 5)
  /-- `KSET` (R203). Pushes copies of a scalar value as a scale entry row. -/
  | kset (h : BitVec 1) (p q : BitVec 3) (b : BitVec 5) (n : BitVec 6)
  /-- `KOUT` (R203). Pushes up to 16 outlier lane indices as a scale entry row. -/
  | kout (h : BitVec 1) (p q : BitVec 3) (s : BitVec 1) (b : BitVec 5) (n : BitVec 6)
  /-- `KSKP` (R203). Pushes copies of a handle's pad scale for blocks beyond a tensor edge. -/
  | kskp (h : BitVec 1) (p q : BitVec 3) (b : BitVec 5) (n : BitVec 6)
  /-- `KRNG` (R203). Sets the random seed and RNGPOS 0 at t + 24, discarding filled rq rows. -/
  | krng (h : BitVec 1) (p : BitVec 3) (b : BitVec 5)
  /-- BUNDLE_DISPATCH (R69). The front end dispatches a bundle of the current context, executing its S word and queuing its other words and repeats. -/
  | bundleDispatch (n : Nat)
  /-- BUNDLE_RETIRE (R319). A bundle retires once every word has passed its check point and earlier bundles retired; held stores and commands are handed over. -/
  | bundleRetire (n k : Nat)
  /-- CONTEXT_SWITCH (R55). The front end chooses the next current context when the current bundle blocks or the context retires. -/
  | contextSwitch (n : Nat)
  /-- WAIT_COUNTER_RAISE (R55). A Ready context's wait counter reaching 4096 forces it to be chosen next. -/
  | waitCounterRaise (n : Nat)
  /-- FREEWHEEL_WAKE (R56). A flag, channel, base-die return or Ready event restarts a freewheeling core's clock. -/
  | freewheelWake (n : Nat)
  /-- WAIT_BUNDLE_PRESENT (R75). A blocked wait bundle is presented again on a change of FLG and enters its words whose flags are set. -/
  | waitBundlePresent (n : Nat)
  /-- LANDING_PUSH (R85). A landing row is pushed into its queue exactly at its named cycle. -/
  | landingPush (n id : Nat)
  /-- LANDING_LATE_ARRIVAL (R57). The late data arrives, is pushed and the frozen core clock restarts. -/
  | landingLateArrival (n id : Nat)
  /-- FREEZE_TIMEOUT (R388). A freeze lasting 300,000 cc pushes the row as zero, restarts the clock and raises cause 65. -/
  | freezeTimeout (n : Nat)
  /-- GLOBAL_LOAD_RETURN (R204). Data of a global load, TLD, LDX or TAKE returns and is written or pushed. -/
  | globalLoadReturn (n id : Nat)
  /-- SCALE_PUSH (R86). A K word's entry row is pushed into its scale queue at exactly issue + 24. -/
  | scalePush (n id : Nat)
  /-- TRANSLATION_COMPLETE (R353). A walk or cache lookup returns and the translation checks are made in order for every element. -/
  | translationComplete (n id : Nat)
  /-- PAGING_COMPLETE (R356). The paging agent supplies the frame and the context becomes Ready to redispatch the stopping bundle. -/
  | pagingComplete (r : PageSupply)
  /-- PLANE_AGENT_ANSWER (R359). The paging agent answers a PCRT, PDEL or PPRT, applying it or raising cause 37. -/
  | planeAgentAnswer (n k : Nat)
  /-- FAULT_TAKEN (R323). A fault undoes its bundle and later ones and enters the handler at TRAPVEC. -/
  | faultTaken (n k : Nat)
  /-- ASYNC_TRAP_TAKEN (R325). A pending asynchronous trap is taken once every dispatched bundle has retired. -/
  | asyncTrapTaken (n k : Nat)
  /-- QUEUE_WAIT_LIMIT (R340). A word waiting on an unchanged queue for 2^20 counted cycles raises cause 20. -/
  | queueWaitLimit (n k : Nat) (e : Engine)
  /-- MLW_STARVED (R399). A started weight load waiting 2^20 counted cycles for a row is abandoned and raises cause 68. -/
  | mlwStarved (n : Nat)
  /-- MLW_LOAD_START (R211). An exposed weight load starts once earlier words are issued and earlier rows left the product stage. -/
  | mlwLoadStart (n : Nat)
  /-- MLW_COMPLETE (R213). A weight load completes and M pushes its completion record. -/
  | mlwComplete (n : Nat)
  /-- MATRIX_ROW_PUSH (R207). A matrix output row is pushed into fl when due and room exists, pushing a run's record with its last row. -/
  | matrixRowPush (n : Nat)
  /-- TANDEM_ROW_ARRIVAL (R220). A forwarded activation row reaches the east member's tandem buffer. -/
  | tandemRowArrival (n : Nat) (row : BitVec 1024)
  /-- DOMAIN_ARRIVAL (R60). A SYNCD arrival reaches its domain object and is counted. -/
  | domainArrival (o : DomRef) (who : CtxRef)
  /-- MBR_CHANGE (R61). A FORK increment or RETIRE decrement of MBR reaches a domain object. -/
  | mbrChange (o : DomRef) (inc : Bool) (who : CtxRef)
  /-- DOMAIN_BREAK_NOTICE (R371). A KILL break notice reaches a domain object and marks it broken. -/
  | domainBreakNotice (o : DomRef) (why : BreakWhy)
  /-- CHANNEL_BREAK_NOTICE (R372). A break notice reaches an endpoint bound to a killed context. -/
  | channelBreakNotice (e : EndRef) (why : BreakWhy)
  /-- BROKEN_WAIT (R368). A waiter with LEAVE = 1 meeting a broken object takes cause 66. -/
  | brokenWait (n k : Nat) (status : BitVec 64)
  /-- PROBE_SEND (R374). A context blocked on a channel for 2^20 counted cycles sends a probe to the party it waits on. -/
  | probeSend (n k : Nat)
  /-- PROBE_RECEIVE (R374). A probe is forwarded, dropped or detected as a cyclic wait by its originator. -/
  | probeReceive (dest : CtxRef) (pr : Probe)
  /-- SAVE_COMPLETE (R62). A pre-empted context's state is written to its save area and it becomes Saved. -/
  | saveComplete (n k : Nat)
  /-- SIGST_NOTIFY (R190). A SIGST notification reaches a watching engine once its store has performed. -/
  | sigstNotify (stack addr : Nat)
  /-- COLL_HEAD (R200). A COLL reaches the head of the collective engine's queue and reads its bucket-ready word. -/
  | collHead (stack : Nat)
  /-- COLL_COMPLETE (R200). A collective ends: STAT and DONE are written and the flag set. -/
  | collComplete (stack : Nat)
  /-- COPY_COMMAND_START (R197). A copy or gather engine begins the next command after the previous has read its sources. -/
  | copyCommandStart (stack : Nat) (cls : BitVec 3) (eng : Nat)
  /-- ENGINE_COMMAND_FAIL (R326). A copy or gather access fails after retirement and raises cause 64 with the partial-work value. -/
  | engineCommandFail (who : CtxRef) (value : BitVec 64)
  /-- ARRIVAL_UPDATE (R201). Bytes landed in a region add to the arrival word's count and may complete a round. -/
  | arrivalUpdate (n addr bytes : Nat)
  /-- TAKE_RETURN (R295). A token leaves the last layer and its host returns base + c_i × w + i. -/
  | takeReturn (a : Arrival)
  /-- NETWORK_QUIET (R296). A held network becomes quiet and CNSAVE, CNRESTORE or CNCONFIG proceeds. -/
  | networkQuiet (d : NetRef)
  /-- NETWORK_DRAIN_TIMEOUT (R380). A network not quiet after 1 ms has its tokens returned as failed. -/
  | networkDrainTimeout (d : NetRef)
  /-- READ_REQUEST (R282). A read request cell is taken at its destination unit. -/
  | readRequest (c : RingCell) (room : Bool)
  /-- READ_RESPONSE (R282). A read response cell is taken by its originator. -/
  | readResponse (a : Arrival)
  /-- WRITE (R282). A write cell is taken at its home. -/
  | write (c : RingCell) (room : Bool)
  /-- BYTE_MASKED_WRITE (R282). A byte-masked write cell is taken at its home. -/
  | byteMaskedWrite (c : RingCell) (room : Bool)
  /-- ATOMIC_REQUEST (R282). An atomic or REDV request cell is taken at the home slice. -/
  | atomicRequest (c : RingCell) (room : Bool)
  /-- WRITE_RESPONSE (R282). A response to a write, masked write or atomic is taken by its originator. -/
  | writeResponse (a : Arrival)
  /-- SIGNAL (R152). A signal cell arrives and sets an FLG bit on its core. -/
  | signal (a : Arrival)
  /-- CHANNEL_WORD (R288). A channel word arrives at its bound endpoint's receive queue. -/
  | channelWord (e : ChanEnds) (num : BitVec 5) (word : BitVec 64)
  /-- CHANNEL_ACKNOWLEDGEMENT (R174). An acknowledgement lowers the send count or sends the oldest spilled word. -/
  | channelAcknowledgement (a : Arrival)
  /-- COPY_OR_GATHER_DATA (R282). A copy or gather data cell lands its bytes at the destination. -/
  | copyOrGatherData (a : Arrival)
  /-- COLLECTIVE_CHUNK (R291). A collective chunk cell is received and summed or written per the ring schedule. -/
  | collectiveChunk (a : Arrival)
  /-- BROADCAST_DATA (R287). A broadcast cell is copied by a station, which sets its CPD bit. -/
  | broadcastData (c : RingCell) (pos : Nat) (room : Bool)
  /-- TAKE_TOKEN (R294). A token cell is handled at a balancer, toggling it and passing to the next layer. -/
  | takeToken (a : Arrival)
  /-- COLLECTIVE_STATUS (R292). A status cell is received and its STAT ORed into the member's word. -/
  | collectiveStatus (a : Arrival)
  /-- COLLECTIVE_DROP (R381). A drop cell makes a survivor stop its schedule and salvage its chunks. -/
  | collectiveDrop (a : Arrival)
  /-- BROADCAST_RETURN (R287). A broadcast cell returns to its originator and is removed, recirculated or sent as copies. -/
  | broadcastReturn (c : RingCell) (second : Bool)
  /-- LOADIMG (R311). Writes a program image into byte buffers of an address space. -/
  | loadimg (q : HostCmd) (asn : Nat) (dst : BitVec 64) (src : Source) (n : Nat) (frames : List PageSupply)
  /-- REQUEST_REISSUE (R377). A request without response after 20 µs is reissued on the escape channel. -/
  | requestReissue (tag : BitVec 16)
  /-- DESTINATION_UNREACHABLE (R377). A second 20 µs without response makes the destination unreachable for the access. -/
  | destinationUnreachable (tag : BitVec 16)
  /-- COUNTER_HALVING (R267). Every 2^20 bc the swap engine halves every remap-cache counter. -/
  | counterHalving (stack : Nat)
  /-- SWAP (R268). The swap engine starts exchanging a home page into the fast slot of its group. -/
  | swap (stack group : Nat) (home : BitVec 4)
  /-- SWAP_COMPLETE (R268). A swap finishes, sets RES and CMP and releases held fills. -/
  | swapComplete (stack group : Nat) (ok : Bool)
  /-- PIPELINE_RESULT (R90). A word of fixed latency (A, B, X, LDS, LDV, LDVT, MUL, DIV, a mask write, or a snapshot latch entry after RESUME) writes or pushes its result at its issue cycle plus its latency. -/
  | pipelineResult (n id : Nat)
  /-- RQ_REFILL (R83). The random-bits generator fills one 2048-bit row of rq per cc from Philox until rq holds 8 rows. -/
  | rqRefill (n k : Nat)
  /-- SPILL_SPACE_ALLOCATED (R373). The paging agent completes the allocation of an endpoint's spill space, the spilled word is placed and the blocked writer becomes Ready. -/
  | spillSpaceAllocated (n k ep : Nat)
  /-- SNAPSHOT_COMMIT (R396). Every 60 s the lifetime counts are committed to flash as a new generation. -/
  | snapshotCommit
  /-- RING0_RETRAIN (R315). With no host adapter present, rack ring 0 is retrained once per second. -/
  | ring0Retrain (found : Option Nat)
  /-- PLY_UPDATE (R209). The ply governor rewrites PLY from temperature and droop sensors. -/
  | plyUpdate (n : Nat) (mask : BitVec 4) (why : SkipCause)
  /-- PLY_FAILURE (R389). A ply's array supply check fails, invalidating weight sets and cancelling rows. -/
  | plyFailure (n : Nat) (ply : BitVec 2)
  /-- WEIGHT_PARITY_ERROR (R390). A parity error in a read weight row invalidates its set and cancels later rows. -/
  | weightParityError (n : Nat) (active : Bool)
  /-- UNCORRECTABLE_ERROR (R362). An uncorrectable stored-data error poisons a line or escalates the context. -/
  | uncorrectableError (e : ErrSite)
  /-- BACK_INVALIDATE (R271). A pool device's back-invalidate snoop removes the line from the stack and writes back dirty words; `written`
  is the line as another user of the pool then leaves it, empty where it leaves it as it was. -/
  | backInvalidate (stack : Nat) (l : PoolLine)
  /-- CXL_REQUEST_FAILED (R365). A CXL.mem request unanswered for 50 µs or poisoned is treated as an uncorrectable error. -/
  | cxlRequestFailed (fpa : Nat) (write : Bool)
  /-- CXL_LINK_LOSS (R365). A port reports link loss; later requests fail and the host is notified. -/
  | cxlLinkLoss (stack : Nat) (port : BitVec 1)
  /-- CELL_CRC_FAIL (R375). A cell failing its CRC is sent again from the segment's store. -/
  | cellCrcFail (c : RingCell) (seg : SegRef)
  /-- SEGMENT_TRAINED_UP (R375). A down segment is trained up and the escape route returns to clockwise. -/
  | segmentTrainedUp (seg : SegRef)
  /-- DIRECTION_TIMEOUT (R283). A cell that waited 16 bc for a slot takes the other direction. -/
  | directionTimeout (c : RingCell) (seg : SegRef)
  /-- RETURNED_CELL (R284). A twice-refused cell returns to its inserter, which reinserts it on the escape channel. -/
  | returnedCell (c : RingCell) (seg : SegRef)
  /-- ESCAPE_CELL_REMOVED (R378). An escape cell not taken after 1024 passes is removed and its access treated as unreachable. -/
  | escapeCellRemoved (c : RingCell) (seg : SegRef)
  /-- HOST_STATION_LOST (R379). Loss of a network's host station fails the network. -/
  | hostStationLost (d : NetRef)
  /-- IDENT (R311). Returns the part number code, serial, firmware version, peer base and key hash. -/
  | ident (q : HostCmd)
  /-- ATTEST (R316). Writes a signed attestation report with the host's nonce. -/
  | attest (q : HostCmd) (nonce : List (BitVec 8)) (dst : Nat)
  /-- PSETDESC (R311). Installs a plane set table base and optionally a plane set descriptor. -/
  | psetdesc (q : HostCmd) (asn base index : Nat) (src : Source)
  /-- PTROOT (R311). Installs the level-1 position page table of an address space. -/
  | ptroot (q : HostCmd) (asn root : Nat)
  /-- HANDLE (R360). Writes a tensor handle descriptor after checking it and pinning its extent. -/
  | handle (q : HostCmd) (stack num asn : Nat) (desc : BitVec 512)
  /-- LAUNCH (R50). Places every instance of a program or none, and makes first contexts Ready. -/
  | launch (q : HostCmd) (d0 d1 d2 d3 : BitVec 64)
  /-- KILL (R329). Ends named contexts or a launch, discarding unretired work. -/
  | kill (q : HostCmd) (target : BitVec 64)
  /-- PREEMPT (R62). Stops a context and saves its state, catching in-flight results in the snapshot latches. -/
  | preempt (q : HostCmd) (n k fpa : Nat)
  /-- RESUME (R63). Restores a saved context and replays latched results at their relative cycles. -/
  | resume (q : HostCmd) (n k fpa : Nat)
  /-- MBXWRITE (R312). Writes a context's mailbox and optionally sets a flag afterwards. -/
  | mbxwrite (q : HostCmd) (target value : BitVec 64)
  /-- FLAGSET (R311). Sets FLG bits on a core regardless of flag allocation. -/
  | flagset (q : HostCmd) (n : Nat) (mask : BitVec 64)
  /-- CNCONFIG (R293). Configures a counting network of a fabric domain after draining it. -/
  | cnconfig (q : HostCmd) (dom net base h0 h1 : BitVec 64)
  /-- CNSAVE (R296). Returns a quiet network's state record. -/
  | cnsave (q : HostCmd) (dom net : BitVec 64) (fpa : Nat)
  /-- CNRESTORE (R380). Writes a checked state record into a quiet network. -/
  | cnrestore (q : HostCmd) (dom net : BitVec 64) (src : Source)
  /-- COLLCFG (R290). Defines a collective group's ordered member list. -/
  | collcfg (q : HostCmd) (group p : Nat) (src : Source)
  /-- ARBSET (R311). Sets the ARBW launch value and the swap threshold SWT. -/
  | arbset (q : HostCmd) (arbw swt : BitVec 64)
  /-- CTRSEL (R318). Selects, enables and clears a per-stack event counter. -/
  | ctrsel (q : HostCmd) (stack ctr src : Nat) (en : Bool)
  /-- CTRREAD (R318). Returns the values of per-stack event counters. -/
  | ctrread (q : HostCmd) (stack first count : Nat)
  /-- LIFEREAD (R397). Copies bytes of the latest committed lifetime snapshot. -/
  | liferead (q : HostCmd) (region offset length dst : Nat)
  /-- PLYSTAT (R311). Returns the PLY mask of every core of a stack. -/
  | plystat (q : HostCmd) (stack : Nat)
  /-- POWERCAP (R312). Lowers the package power limit and sets the placement weights. -/
  | powercap (q : HostCmd) (limit wt wd : Nat)
  /-- RESET (R315). Ends every context, clears package objects and reboots the package. -/
  | reset (q : HostCmd)
  /-- POWER_ON (R315). Power-on runs secure boot, self-test and ring training. -/
  | powerOn
  /-- LIFETIME_SAMPLE (R396). Once per second the firmware samples temperatures and voltages into the lifetime bins. -/
  | lifetimeSample (temps volts : List Nat)
  /-- POWER_LOSS (R396). Power loss cuts short any commit, leaving the other copy whole. -/
  | powerLoss
  /-- CORRECTED_ERROR (R362). A stored-data error is corrected, or a parity-protected cache entry is dropped and fetched again, and the lifetime counters count it. -/
  | correctedError (stack : Nat) (site : BitVec 3)
  /-- DROOP_EVENT (R396). A supply droop event occurs on a stack's rail and is counted by depth in the lifetime record and in the dispatcher's droop average. -/
  | droopEvent (stack : Nat) (depth : BitVec 2)
  /-- PORT_RETRAINED (R365). Firmware retrains a CXL port after link loss, and requests to its addresses stop failing at once. -/
  | portRetrained (stack : Nat) (port : BitVec 1)
  deriving DecidableEq, Repr

end Sys2Proof
end

