-- ==== Sys2Proof/WellFormed.lean ====
section
/-!
DEFINITION. Which instructions are well formed: no field holds a value that R330 calls unassigned or that R331 and
R343 to R352 require to be zero. An ill-formed word raises cause 16 whatever its predicate (R330).
-/

namespace Sys2Proof

/-- The CSR numbers of R126. -/
def csrListed (n : Nat) : Bool :=
  [1, 2, 3, 4, 5, 6, 0x11, 0x12, 0x13, 0x14, 0x15, 0x20, 0x21, 0x22, 0x23, 0x24, 0x25, 0x30, 0x31, 0x32, 0x33, 0x40,
   0x41, 0x50, 0x51, 0x52, 0x53, 0x60, 0x61, 0x62, 0x63, 0x64, 0x65, 0x66, 0x67, 0x70, 0x71, 0x72, 0x73, 0x74, 0x75,
   0x76, 0x77].contains n

/-- With AS = 1 the address comes from stream BA[3:0], and BA[4] is zero (R127, R331). -/
def streamOk (as : BitVec 1) (ba : BitVec 5) : Bool := as == 0 || ba.ult 16

/-- B of `VDQ`: `zq`, or a scale queue with PB = 0 (R330). -/
def vdqOk (pb : BitVec 1) (b : BitVec 5) : Bool := b == 30 || (pb == 0 && b.ult 8)

/-- A type code of the table that a bit names, 0 F and 1 I (R122, R131). -/
def typeOk (tab : BitVec 1) (t : BitVec 3) : Bool := if tab = 0 then t != 7 else t.ult 5

/-- Well-formedness of every instruction. -/
def Instr.wf : Instr → Bool
  | .nopS h _ => h == 0
  | .add h _ _ _ _ => h == 0
  | .sub h _ _ _ _ => h == 0
  | .mul h _ _ _ _ => h == 0
  | .mulh h _ _ _ _ => h == 0
  | .mulhu h _ _ _ _ => h == 0
  | .div h _ _ _ _ => h == 0
  | .divu h _ _ _ _ => h == 0
  | .rem h _ _ _ _ => h == 0
  | .and h _ _ _ _ => h == 0
  | .or h _ _ _ _ => h == 0
  | .xor h _ _ _ _ => h == 0
  | .andn h _ _ _ _ => h == 0
  | .shl h _ _ _ _ => h == 0
  | .shr h _ _ _ _ => h == 0
  | .sar h _ _ _ _ => h == 0
  | .min h _ _ _ _ => h == 0
  | .max h _ _ _ _ => h == 0
  | .minu h _ _ _ _ => h == 0
  | .maxu h _ _ _ _ => h == 0
  | .clz h _ _ _ => h == 0
  | .popc h _ _ _ => h == 0
  | .sel h _ _ _ _ => h == 0
  | .addi h _ _ _ _ => h == 0
  | .andi h _ _ _ _ => h == 0
  | .ori h _ _ _ _ => h == 0
  | .xori h _ _ _ _ => h == 0
  | .shli h _ _ _ _ => h == 0
  | .shri h _ _ _ _ => h == 0
  | .sari h _ _ _ _ => h == 0
  | .lim h _ _ _ => h == 0
  | .lims h _ _ _ => h == 0
  | .cmp h _ _ c _ _ => h == 0 && c.ult 6
  | .cmpi h _ _ c _ _ => h == 0 && c.ult 6
  | .pand h _ _ _ _ => h == 0
  | .por h _ _ _ _ => h == 0
  | .pxor h _ _ _ _ => h == 0
  | .pandn h _ _ _ _ => h == 0
  | .pnot h _ _ _ => h == 0
  | .bfx h _ _ _ _ _ => h == 0
  | .bfi h _ _ _ _ _ => h == 0
  | .padr h _ _ _ _ => h == 0
  | .pcrel h _ _ _ => h == 0
  | .br h _ _ => h == 0
  | .call h _ _ => h == 0
  | .jmpr h _ _ => h == 0
  | .loop h _ v _ _ => h == 0 && v.ult 6
  | .lexit h _ v => h == 0 && v.ult 6
  | .wsel h _ _ _ _ _ _ => h == 0
  | .sig h _ _ _ => h == 0
  | .syncd h _ v => h == 0 && v.ult 6
  | .yield h _ => h == 0
  | .retire h _ => h == 0
  | .fork h _ _ _ _ => h == 0
  | .csrr h _ _ n => h == 0 && csrListed n.toNat
  | .csrw h _ _ n => h == 0 && csrListed n.toNat
  | .csrs h _ _ n => h == 0 && csrListed n.toNat
  | .csrc h _ _ n => h == 0 && csrListed n.toNat
  | .trap h _ _ => h == 0
  | .rte h _ => h == 0
  | .brk h _ _ => h == 0
  | .qcfg h _ q _ w => h == 0 && w != 3 && q != 31
  | .qcfgKeep h _ q _ w => h == 0 && w != 3 && q != 31
  | .qrel h _ q => h == 0 && q != 31
  | .qstat h _ _ q => h == 0 && q != 31
  | .aset h _ _ _ => h == 0
  | .adim h _ _ d _ _ k => h == 0 && d.ult 6 && k != 7
  | .aget h _ _ _ _ => h == 0
  | .mbxr h _ _ _ => h == 0
  | .mbxw h _ _ _ => h == 0
  | .pcrt h _ _ _ _ _ => h == 0
  | .pdel h _ _ _ => h == 0
  | .pprt h _ _ _ _ _ => h == 0
  | .chbind h _ _ _ => h == 0
  | .chrd h _ _ _ => h == 0
  | .chwr h _ _ _ => h == 0
  | .idle a b c d e f _ _ => (a != 1 && a != 7) && (b != 1 && b != 7) && (c != 1 && c != 7) && (d != 1 && d != 7) && (e != 1 && e != 7) && (f != 1 && f != 7)
  | .nopL _ _ => true
  | .lds _ _ s _ b _ _ _ => streamOk s b
  | .ldg _ _ s _ b _ _ _ => streamOk s b
  | .ldv _ _ s d b _ => streamOk s b && d != 31
  | .ldvt _ _ s d b e => streamOk s b && d != 31 && e != 3
  | .lgv _ _ s d b _ _ => streamOk s b && d != 31
  | .pld _ _ d _ _ _ _ => d != 31
  | .tld _ _ d _ _ _ _ _ => d != 31
  | .ldx _ _ s d b i _ => streamOk s b && d != 31 && i != 31
  | .nopT _ _ => true
  | .sts _ _ s _ b _ _ _ => streamOk s b
  | .stg _ _ s _ b _ _ _ => streamOk s b
  | .stv _ _ s d b _ => streamOk s b && d != 31
  | .sgv _ _ s d b e m _ => streamOk s b && d != 31 && (e == 1 || m == 0)
  | .pst _ _ d _ _ _ => d != 31
  | .tst _ _ d _ _ _ _ _ => d != 31
  | .stx _ _ s d b i _ => streamOk s b && d != 31 && i != 31
  | .atom _ _ a _ _ _ _ => a.ult 11
  | .redv _ _ s d b r _ => streamOk s b && d != 31 && r != 3
  | .sigst _ _ s _ b _ _ => streamOk s b
  | .fence _ _ s => s != 7
  | .fencex _ _ s a b => s != 7 && a.ult 6 && b.ult 6
  | .drain _ _ s => s != 7
  | .cpy _ _ _ _ _ => true
  | .coll _ _ _ _ _ _ x => x.ult 4
  | .gath _ _ _ _ _ => true
  | .take _ _ _ _ => true
  | .arrw _ _ _ _ _ => true
  | .nopM _ _ => true
  | .mlw _ _ q t => q != 31 && t != 7
  | .mswp _ _ => true
  | .mma _ _ q t => q != 31 && t != 7
  | .mmac _ _ q c t => q != 31 && c != 31 && t != 7
  | .mchn _ _ _ => true
  | .mdrn _ _ => true
  | .msts _ _ _ => true
  | .mzer _ _ => true
  | .nopAb _ _ => true
  | .vadd _ _ w t d _ a _ b => w != 3 && d != 31 && a != 31 && b != 31 && t != 7
  | .vsub _ _ w t d _ a _ b => w != 3 && d != 31 && a != 31 && b != 31 && t != 7
  | .vmul _ _ w t d _ a _ b => w != 3 && d != 31 && a != 31 && b != 31 && t != 7
  | .vfma _ _ w t d _ a _ b => w != 3 && d != 31 && a != 31 && b != 31 && t != 7
  | .vfms _ _ w t d _ a _ b => w != 3 && d != 31 && a != 31 && b != 31 && t != 7
  | .vmin _ _ w t d _ a _ b => w != 3 && d != 31 && a != 31 && b != 31 && t != 7
  | .vmax _ _ w t d _ a _ b => w != 3 && d != 31 && a != 31 && b != 31 && t != 7
  | .vabs _ _ w t d _ a => w != 3 && d != 31 && a != 31 && t != 7
  | .vneg _ _ w t d _ a => w != 3 && d != 31 && a != 31 && t != 7
  | .vcmp _ _ w t _ _ _ a _ b => w != 3 && a != 31 && b != 31 && t != 7
  | .vsel _ _ w t d _ a _ b => w != 3 && d != 31 && a != 31 && b != 31 && t != 7
  | .viadd _ _ w t d _ a _ b => w != 3 && d != 31 && a != 31 && b != 31 && t.ult 5
  | .visub _ _ w t d _ a _ b => w != 3 && d != 31 && a != 31 && b != 31 && t.ult 5
  | .vimul _ _ w t d _ a _ b => w != 3 && d != 31 && a != 31 && b != 31 && t.ult 5
  | .vimac _ _ w t d _ a _ b => w != 3 && d != 31 && a != 31 && b != 31 && t.ult 5
  | .vand _ _ w t d _ a _ b => w != 3 && d != 31 && a != 31 && b != 31 && t.ult 5
  | .vor _ _ w t d _ a _ b => w != 3 && d != 31 && a != 31 && b != 31 && t.ult 5
  | .vxor _ _ w t d _ a _ b => w != 3 && d != 31 && a != 31 && b != 31 && t.ult 5
  | .vshl _ _ w t d _ a _ b => w != 3 && d != 31 && a != 31 && b != 31 && t.ult 5
  | .vshr _ _ w t d _ a _ b => w != 3 && d != 31 && a != 31 && b != 31 && t.ult 5
  | .vsar _ _ w t d _ a _ b => w != 3 && d != 31 && a != 31 && b != 31 && t.ult 5
  | .vicmp _ _ w t _ _ _ a _ b => w != 3 && a != 31 && b != 31 && t.ult 5
  | .vcvt _ _ w t d _ a s x y => w != 3 && d != 31 && a != 31 && typeOk x s && typeOk y t
  | .vqnt _ _ w t d _ a _ b => w != 3 && d != 31 && a != 31 && b != 31 && t != 7 && t != 1 && t != 2
  | .vdq _ _ w t d _ a k b => w != 3 && d != 31 && a != 31 && vdqOk k b && t != 7
  | .vscl _ _ w _ d _ a _ => w != 3 && d != 31 && a != 31
  | .vamax _ _ w t d _ a => w != 3 && d != 31 && a != 31 && t != 7
  | .vospl _ _ w t d _ a _ => w != 3 && d != 31 && a != 31 && t != 7
  | .vaddsub _ _ w t d _ a _ b => w != 3 && d != 31 && a != 31 && b != 31 && t.ult 5
  | .vunpk3 _ _ w t d _ a => w != 3 && d != 31 && a != 31 && t.ult 5
  | .vmov _ _ w d _ a => w != 3 && d != 31 && a != 31
  | .vbcst _ _ w t d _ a _ => w != 3 && d != 31 && a != 31 && t.ult 5
  | .vext _ _ w t d _ a _ => w != 3 && d != 31 && a != 31 && t.ult 5
  | .vins _ _ w t d _ a _ => w != 3 && d != 31 && a != 31 && t.ult 5
  | .vperm _ _ w t d _ a _ b => w != 3 && d != 31 && a != 31 && b != 31 && t.ult 5
  | .vsld _ _ w t d _ a _ => w != 3 && d != 31 && a != 31 && t.ult 5
  | .vzip _ _ w t d _ a _ b => w != 3 && d != 31 && a != 31 && b != 31 && t.ult 5
  | .vuzp _ _ w t d _ a _ b => w != 3 && d != 31 && a != 31 && b != 31 && t.ult 5
  | .vrsum _ _ w t d _ a => w != 3 && d != 31 && a != 31 && t != 7
  | .vrmax _ _ w t d _ a => w != 3 && d != 31 && a != 31 && t != 7
  | .vrnd _ _ w t d _ a => w != 3 && d != 31 && a != 31 && t != 7
  | .vdrp _ _ w t d _ a _ b => w != 3 && d != 31 && a != 31 && b != 31 && t != 7
  | .mand _ _ _ _ _ => true
  | .mor _ _ _ _ _ => true
  | .mnot _ _ _ _ => true
  | .viota _ _ w t d _ => w != 3 && d != 31 && t.ult 5
  | .vmsk _ _ _ _ => true
  | .nopX _ _ => true
  | .xexp2 _ _ w t d _ a => w != 3 && d != 31 && a != 31 && t != 7
  | .xlog2 _ _ w t d _ a => w != 3 && d != 31 && a != 31 && t != 7
  | .xrcp _ _ w t d _ a => w != 3 && d != 31 && a != 31 && t != 7
  | .xrsq _ _ w t d _ a => w != 3 && d != 31 && a != 31 && t != 7
  | .xsqrt _ _ w t d _ a => w != 3 && d != 31 && a != 31 && t != 7
  | .xtab _ _ w t d _ a _ => w != 3 && d != 31 && a != 31 && t != 7
  | .xtld _ _ w _ _ a => w != 3 && a != 31
  | .xcvt _ _ w t d _ a s x y => w != 3 && d != 31 && a != 31 && typeOk x s && typeOk y t
  | .nopK _ _ => true
  | .kld _ _ _ s b _ => streamOk s b
  | .ktab _ _ _ s b => streamOk s b
  | .kset _ _ _ _ _ => true
  | .kout _ _ _ s b _ => streamOk s b
  | .kskp _ _ _ _ _ => true
  | .krng _ _ _ => true
  | .bundleDispatch _ => true
  | .bundleRetire _ _ => true
  | .contextSwitch _ => true
  | .waitCounterRaise _ => true
  | .freewheelWake _ => true
  | .waitBundlePresent _ => true
  | .landingPush _ _ => true
  | .landingLateArrival _ _ => true
  | .freezeTimeout _ => true
  | .globalLoadReturn _ _ => true
  | .scalePush _ _ => true
  | .translationComplete _ _ => true
  | .pagingComplete _ => true
  | .planeAgentAnswer _ _ => true
  | .faultTaken _ _ => true
  | .asyncTrapTaken _ _ => true
  | .queueWaitLimit _ _ _ => true
  | .mlwStarved _ => true
  | .mlwLoadStart _ => true
  | .mlwComplete _ => true
  | .matrixRowPush _ => true
  | .tandemRowArrival _ _ => true
  | .plyUpdate _ _ _ => true
  | .plyFailure _ _ => true
  | .weightParityError _ _ => true
  | .uncorrectableError _ => true
  | .domainArrival _ _ => true
  | .mbrChange _ _ _ => true
  | .domainBreakNotice _ _ => true
  | .channelBreakNotice _ _ => true
  | .brokenWait _ _ _ => true
  | .probeSend _ _ => true
  | .probeReceive _ _ => true
  | .saveComplete _ _ => true
  | .sigstNotify _ _ => true
  | .collHead _ => true
  | .collComplete _ => true
  | .copyCommandStart _ _ _ => true
  | .engineCommandFail _ _ => true
  | .arrivalUpdate _ _ _ => true
  | .takeReturn _ => true
  | .networkQuiet _ => true
  | .networkDrainTimeout _ => true
  | .hostStationLost _ => true
  | .readRequest _ _ => true
  | .readResponse _ => true
  | .write _ _ => true
  | .byteMaskedWrite _ _ => true
  | .atomicRequest _ _ => true
  | .writeResponse _ => true
  | .signal _ => true
  | .channelWord _ _ _ => true
  | .channelAcknowledgement _ => true
  | .copyOrGatherData _ => true
  | .collectiveChunk _ => true
  | .broadcastData _ _ _ => true
  | .broadcastReturn _ _ => true
  | .takeToken _ => true
  | .collectiveStatus _ => true
  | .collectiveDrop _ => true
  | .returnedCell _ _ => true
  | .directionTimeout _ _ => true
  | .cellCrcFail _ _ => true
  | .segmentTrainedUp _ => true
  | .requestReissue _ => true
  | .destinationUnreachable _ => true
  | .escapeCellRemoved _ _ => true
  | .backInvalidate _ _ => true
  | .cxlRequestFailed _ _ => true
  | .cxlLinkLoss _ _ => true
  | .counterHalving _ => true
  | .swap _ _ _ => true
  | .swapComplete _ _ _ => true
  | .ident _ => true
  | .attest _ _ _ => true
  | .loadimg _ _ _ _ _ _ => true
  | .psetdesc _ _ _ _ _ => true
  | .ptroot _ _ _ => true
  | .handle _ _ _ _ _ => true
  | .launch _ _ _ _ _ => true
  | .kill _ _ => true
  | .preempt _ _ _ _ => true
  | .resume _ _ _ _ => true
  | .mbxwrite _ _ _ => true
  | .flagset _ _ _ => true
  | .cnconfig _ _ _ _ _ _ => true
  | .cnsave _ _ _ _ => true
  | .cnrestore _ _ _ _ => true
  | .collcfg _ _ _ _ => true
  | .arbset _ _ _ => true
  | .ctrsel _ _ _ _ _ => true
  | .ctrread _ _ _ _ => true
  | .liferead _ _ _ _ _ => true
  | .plystat _ _ => true
  | .powercap _ _ _ _ => true
  | .reset _ => true
  | .powerOn => true
  | .ring0Retrain _ => true
  | .lifetimeSample _ _ => true
  | .snapshotCommit => true
  | .powerLoss => true
  | .pipelineResult _ _ => true
  | .rqRefill _ _ => true
  | .spillSpaceAllocated _ _ _ => true
  | .correctedError _ _ => true
  | .droopEvent _ _ => true
  | .portRetrained _ _ => true

end Sys2Proof
end

