-- ==== Sys2Proof/Decode.lean ====
section
/-!
DEFINITION. Decoding: a word read under its slot's opcode map (R120, R125, R129 to R132), total on every word,
refusing by name; and the encoder, written from the same format tables. A word's bits do not say its slot: the
header's presence mask does (R66), so `decodeWord` takes the slot, and `decodeTableWord` tries the slots in the
order M, K, X, S, L, T, A/B and then the empty bundle's header (notes/assumptions/5.md).
-/

namespace Sys2Proof

/-- Why a word is refused: cause 16 in every case (R330, R331). -/
inductive Reject where
  /-- a bit that the format shows as zero, or a fixed field, holds another value (R331) -/
  | fixedBits
  /-- an OP without a meaning in the slot (R330) -/
  | unassignedOp
  /-- an FN of the ALU or predicate group without a meaning (R330) -/
  | unassignedFn
  /-- a field holds an unassigned value (R330), or a required zero field does not (R331) -/
  | unassignedField
  deriving DecidableEq, Repr

/-- The opcode maps: A and B share one (R131); `hdr` is the empty bundle's header (R67). -/
inductive SlotMap where
  | s | l | t | m | v | x | k | hdr
  deriving DecidableEq, Repr

/-- The number whose fields, lowest first, have the given widths and values. -/
def pack : List (Nat × Nat) → Nat
  | [] => 0
  | (n, v) :: r => v % 2 ^ n + 2 ^ n * pack r

/-- The fields of a number, lowest first, by their widths. -/
def unpack : List Nat → Nat → List Nat
  | [], _ => []
  | n :: r, w => w % 2 ^ n :: unpack r (w / 2 ^ n)

/-- The fields of `NOP.s` (R68). -/
def rowNopS (w : Nat) : Except Reject Instr :=
  match unpack [22, 3, 1] w with
  | [x0, p', h'] => if x0 = 0 then .ok (.nopS (BitVec.ofNat 1 h') (BitVec.ofNat 3 p')) else .error .fixedBits
  | _ => .error .fixedBits

/-- The fields of `ADD` (R140). -/
def rowAdd (w : Nat) : Except Reject Instr :=
  match unpack [7, 5, 5, 5, 3, 1] w with
  | [x0, b', a', d', p', h'] => if x0 = 0 then .ok (.add (BitVec.ofNat 1 h') (BitVec.ofNat 3 p') (BitVec.ofNat 5 d') (BitVec.ofNat 5 a') (BitVec.ofNat 5 b')) else .error .fixedBits
  | _ => .error .fixedBits

/-- The fields of `SUB` (R140). -/
def rowSub (w : Nat) : Except Reject Instr :=
  match unpack [7, 5, 5, 5, 3, 1] w with
  | [x0, b', a', d', p', h'] => if x0 = 1 then .ok (.sub (BitVec.ofNat 1 h') (BitVec.ofNat 3 p') (BitVec.ofNat 5 d') (BitVec.ofNat 5 a') (BitVec.ofNat 5 b')) else .error .fixedBits
  | _ => .error .fixedBits

/-- The fields of `MUL` (R140). -/
def rowMul (w : Nat) : Except Reject Instr :=
  match unpack [7, 5, 5, 5, 3, 1] w with
  | [x0, b', a', d', p', h'] => if x0 = 2 then .ok (.mul (BitVec.ofNat 1 h') (BitVec.ofNat 3 p') (BitVec.ofNat 5 d') (BitVec.ofNat 5 a') (BitVec.ofNat 5 b')) else .error .fixedBits
  | _ => .error .fixedBits

/-- The fields of `MULH` (R140). -/
def rowMulh (w : Nat) : Except Reject Instr :=
  match unpack [7, 5, 5, 5, 3, 1] w with
  | [x0, b', a', d', p', h'] => if x0 = 3 then .ok (.mulh (BitVec.ofNat 1 h') (BitVec.ofNat 3 p') (BitVec.ofNat 5 d') (BitVec.ofNat 5 a') (BitVec.ofNat 5 b')) else .error .fixedBits
  | _ => .error .fixedBits

/-- The fields of `MULHU` (R140). -/
def rowMulhu (w : Nat) : Except Reject Instr :=
  match unpack [7, 5, 5, 5, 3, 1] w with
  | [x0, b', a', d', p', h'] => if x0 = 4 then .ok (.mulhu (BitVec.ofNat 1 h') (BitVec.ofNat 3 p') (BitVec.ofNat 5 d') (BitVec.ofNat 5 a') (BitVec.ofNat 5 b')) else .error .fixedBits
  | _ => .error .fixedBits

/-- The fields of `DIV` (R140). -/
def rowDiv (w : Nat) : Except Reject Instr :=
  match unpack [7, 5, 5, 5, 3, 1] w with
  | [x0, b', a', d', p', h'] => if x0 = 5 then .ok (.div (BitVec.ofNat 1 h') (BitVec.ofNat 3 p') (BitVec.ofNat 5 d') (BitVec.ofNat 5 a') (BitVec.ofNat 5 b')) else .error .fixedBits
  | _ => .error .fixedBits

/-- The fields of `DIVU` (R140). -/
def rowDivu (w : Nat) : Except Reject Instr :=
  match unpack [7, 5, 5, 5, 3, 1] w with
  | [x0, b', a', d', p', h'] => if x0 = 6 then .ok (.divu (BitVec.ofNat 1 h') (BitVec.ofNat 3 p') (BitVec.ofNat 5 d') (BitVec.ofNat 5 a') (BitVec.ofNat 5 b')) else .error .fixedBits
  | _ => .error .fixedBits

/-- The fields of `REM` (R140). -/
def rowRem (w : Nat) : Except Reject Instr :=
  match unpack [7, 5, 5, 5, 3, 1] w with
  | [x0, b', a', d', p', h'] => if x0 = 7 then .ok (.rem (BitVec.ofNat 1 h') (BitVec.ofNat 3 p') (BitVec.ofNat 5 d') (BitVec.ofNat 5 a') (BitVec.ofNat 5 b')) else .error .fixedBits
  | _ => .error .fixedBits

/-- The fields of `AND` (R140). -/
def rowAnd (w : Nat) : Except Reject Instr :=
  match unpack [7, 5, 5, 5, 3, 1] w with
  | [x0, b', a', d', p', h'] => if x0 = 8 then .ok (.and (BitVec.ofNat 1 h') (BitVec.ofNat 3 p') (BitVec.ofNat 5 d') (BitVec.ofNat 5 a') (BitVec.ofNat 5 b')) else .error .fixedBits
  | _ => .error .fixedBits

/-- The fields of `OR` (R140). -/
def rowOr (w : Nat) : Except Reject Instr :=
  match unpack [7, 5, 5, 5, 3, 1] w with
  | [x0, b', a', d', p', h'] => if x0 = 9 then .ok (.or (BitVec.ofNat 1 h') (BitVec.ofNat 3 p') (BitVec.ofNat 5 d') (BitVec.ofNat 5 a') (BitVec.ofNat 5 b')) else .error .fixedBits
  | _ => .error .fixedBits

/-- The fields of `XOR` (R140). -/
def rowXor (w : Nat) : Except Reject Instr :=
  match unpack [7, 5, 5, 5, 3, 1] w with
  | [x0, b', a', d', p', h'] => if x0 = 10 then .ok (.xor (BitVec.ofNat 1 h') (BitVec.ofNat 3 p') (BitVec.ofNat 5 d') (BitVec.ofNat 5 a') (BitVec.ofNat 5 b')) else .error .fixedBits
  | _ => .error .fixedBits

/-- The fields of `ANDN` (R140). -/
def rowAndn (w : Nat) : Except Reject Instr :=
  match unpack [7, 5, 5, 5, 3, 1] w with
  | [x0, b', a', d', p', h'] => if x0 = 11 then .ok (.andn (BitVec.ofNat 1 h') (BitVec.ofNat 3 p') (BitVec.ofNat 5 d') (BitVec.ofNat 5 a') (BitVec.ofNat 5 b')) else .error .fixedBits
  | _ => .error .fixedBits

/-- The fields of `SHL` (R140). -/
def rowShl (w : Nat) : Except Reject Instr :=
  match unpack [7, 5, 5, 5, 3, 1] w with
  | [x0, b', a', d', p', h'] => if x0 = 12 then .ok (.shl (BitVec.ofNat 1 h') (BitVec.ofNat 3 p') (BitVec.ofNat 5 d') (BitVec.ofNat 5 a') (BitVec.ofNat 5 b')) else .error .fixedBits
  | _ => .error .fixedBits

/-- The fields of `SHR` (R140). -/
def rowShr (w : Nat) : Except Reject Instr :=
  match unpack [7, 5, 5, 5, 3, 1] w with
  | [x0, b', a', d', p', h'] => if x0 = 13 then .ok (.shr (BitVec.ofNat 1 h') (BitVec.ofNat 3 p') (BitVec.ofNat 5 d') (BitVec.ofNat 5 a') (BitVec.ofNat 5 b')) else .error .fixedBits
  | _ => .error .fixedBits

/-- The fields of `SAR` (R140). -/
def rowSar (w : Nat) : Except Reject Instr :=
  match unpack [7, 5, 5, 5, 3, 1] w with
  | [x0, b', a', d', p', h'] => if x0 = 14 then .ok (.sar (BitVec.ofNat 1 h') (BitVec.ofNat 3 p') (BitVec.ofNat 5 d') (BitVec.ofNat 5 a') (BitVec.ofNat 5 b')) else .error .fixedBits
  | _ => .error .fixedBits

/-- The fields of `MIN` (R140). -/
def rowMin (w : Nat) : Except Reject Instr :=
  match unpack [7, 5, 5, 5, 3, 1] w with
  | [x0, b', a', d', p', h'] => if x0 = 15 then .ok (.min (BitVec.ofNat 1 h') (BitVec.ofNat 3 p') (BitVec.ofNat 5 d') (BitVec.ofNat 5 a') (BitVec.ofNat 5 b')) else .error .fixedBits
  | _ => .error .fixedBits

/-- The fields of `MAX` (R140). -/
def rowMax (w : Nat) : Except Reject Instr :=
  match unpack [7, 5, 5, 5, 3, 1] w with
  | [x0, b', a', d', p', h'] => if x0 = 16 then .ok (.max (BitVec.ofNat 1 h') (BitVec.ofNat 3 p') (BitVec.ofNat 5 d') (BitVec.ofNat 5 a') (BitVec.ofNat 5 b')) else .error .fixedBits
  | _ => .error .fixedBits

/-- The fields of `MINU` (R140). -/
def rowMinu (w : Nat) : Except Reject Instr :=
  match unpack [7, 5, 5, 5, 3, 1] w with
  | [x0, b', a', d', p', h'] => if x0 = 17 then .ok (.minu (BitVec.ofNat 1 h') (BitVec.ofNat 3 p') (BitVec.ofNat 5 d') (BitVec.ofNat 5 a') (BitVec.ofNat 5 b')) else .error .fixedBits
  | _ => .error .fixedBits

/-- The fields of `MAXU` (R140). -/
def rowMaxu (w : Nat) : Except Reject Instr :=
  match unpack [7, 5, 5, 5, 3, 1] w with
  | [x0, b', a', d', p', h'] => if x0 = 18 then .ok (.maxu (BitVec.ofNat 1 h') (BitVec.ofNat 3 p') (BitVec.ofNat 5 d') (BitVec.ofNat 5 a') (BitVec.ofNat 5 b')) else .error .fixedBits
  | _ => .error .fixedBits

/-- The fields of `CLZ` (R140). -/
def rowClz (w : Nat) : Except Reject Instr :=
  match unpack [12, 5, 5, 3, 1] w with
  | [x0, a', d', p', h'] => if x0 = 19 then .ok (.clz (BitVec.ofNat 1 h') (BitVec.ofNat 3 p') (BitVec.ofNat 5 d') (BitVec.ofNat 5 a')) else .error .fixedBits
  | _ => .error .fixedBits

/-- The fields of `POPC` (R140). -/
def rowPopc (w : Nat) : Except Reject Instr :=
  match unpack [12, 5, 5, 3, 1] w with
  | [x0, a', d', p', h'] => if x0 = 20 then .ok (.popc (BitVec.ofNat 1 h') (BitVec.ofNat 3 p') (BitVec.ofNat 5 d') (BitVec.ofNat 5 a')) else .error .fixedBits
  | _ => .error .fixedBits

/-- The fields of `SEL` (R140). -/
def rowSel (w : Nat) : Except Reject Instr :=
  match unpack [7, 5, 5, 5, 3, 1] w with
  | [x0, b', a', d', p', h'] => if x0 = 21 then .ok (.sel (BitVec.ofNat 1 h') (BitVec.ofNat 3 p') (BitVec.ofNat 5 d') (BitVec.ofNat 5 a') (BitVec.ofNat 5 b')) else .error .fixedBits
  | _ => .error .fixedBits

/-- The fields of `ADDI` (R141). -/
def rowAddi (w : Nat) : Except Reject Instr :=
  match unpack [12, 5, 5, 3, 1] w with
  | [i', a', d', p', h'] => .ok (.addi (BitVec.ofNat 1 h') (BitVec.ofNat 3 p') (BitVec.ofNat 5 d') (BitVec.ofNat 5 a') (BitVec.ofNat 12 i'))
  | _ => .error .fixedBits

/-- The fields of `ANDI` (R141). -/
def rowAndi (w : Nat) : Except Reject Instr :=
  match unpack [12, 5, 5, 3, 1] w with
  | [i', a', d', p', h'] => .ok (.andi (BitVec.ofNat 1 h') (BitVec.ofNat 3 p') (BitVec.ofNat 5 d') (BitVec.ofNat 5 a') (BitVec.ofNat 12 i'))
  | _ => .error .fixedBits

/-- The fields of `ORI` (R141). -/
def rowOri (w : Nat) : Except Reject Instr :=
  match unpack [12, 5, 5, 3, 1] w with
  | [i', a', d', p', h'] => .ok (.ori (BitVec.ofNat 1 h') (BitVec.ofNat 3 p') (BitVec.ofNat 5 d') (BitVec.ofNat 5 a') (BitVec.ofNat 12 i'))
  | _ => .error .fixedBits

/-- The fields of `XORI` (R141). -/
def rowXori (w : Nat) : Except Reject Instr :=
  match unpack [12, 5, 5, 3, 1] w with
  | [i', a', d', p', h'] => .ok (.xori (BitVec.ofNat 1 h') (BitVec.ofNat 3 p') (BitVec.ofNat 5 d') (BitVec.ofNat 5 a') (BitVec.ofNat 12 i'))
  | _ => .error .fixedBits

/-- The fields of `SHLI` (R141). -/
def rowShli (w : Nat) : Except Reject Instr :=
  match unpack [6, 6, 5, 5, 3, 1] w with
  | [n', x0, a', d', p', h'] => if x0 = 0 then .ok (.shli (BitVec.ofNat 1 h') (BitVec.ofNat 3 p') (BitVec.ofNat 5 d') (BitVec.ofNat 5 a') (BitVec.ofNat 6 n')) else .error .fixedBits
  | _ => .error .fixedBits

/-- The fields of `SHRI` (R141). -/
def rowShri (w : Nat) : Except Reject Instr :=
  match unpack [6, 6, 5, 5, 3, 1] w with
  | [n', x0, a', d', p', h'] => if x0 = 0 then .ok (.shri (BitVec.ofNat 1 h') (BitVec.ofNat 3 p') (BitVec.ofNat 5 d') (BitVec.ofNat 5 a') (BitVec.ofNat 6 n')) else .error .fixedBits
  | _ => .error .fixedBits

/-- The fields of `SARI` (R141). -/
def rowSari (w : Nat) : Except Reject Instr :=
  match unpack [6, 6, 5, 5, 3, 1] w with
  | [n', x0, a', d', p', h'] => if x0 = 0 then .ok (.sari (BitVec.ofNat 1 h') (BitVec.ofNat 3 p') (BitVec.ofNat 5 d') (BitVec.ofNat 5 a') (BitVec.ofNat 6 n')) else .error .fixedBits
  | _ => .error .fixedBits

/-- The fields of `LIM` (R141). -/
def rowLim (w : Nat) : Except Reject Instr :=
  match unpack [17, 5, 3, 1] w with
  | [i', d', p', h'] => .ok (.lim (BitVec.ofNat 1 h') (BitVec.ofNat 3 p') (BitVec.ofNat 5 d') (BitVec.ofNat 17 i'))
  | _ => .error .fixedBits

/-- The fields of `LIMS` (R141). -/
def rowLims (w : Nat) : Except Reject Instr :=
  match unpack [17, 5, 3, 1] w with
  | [i', d', p', h'] => .ok (.lims (BitVec.ofNat 1 h') (BitVec.ofNat 3 p') (BitVec.ofNat 5 d') (BitVec.ofNat 17 i'))
  | _ => .error .fixedBits

/-- The fields of `CMP.cc` (R144). -/
def rowCmp (w : Nat) : Except Reject Instr :=
  match unpack [5, 5, 5, 3, 4, 3, 1] w with
  | [x0, b', a', c', d', p', h'] => if x0 = 0 then .ok (.cmp (BitVec.ofNat 1 h') (BitVec.ofNat 3 p') (BitVec.ofNat 4 d') (BitVec.ofNat 3 c') (BitVec.ofNat 5 a') (BitVec.ofNat 5 b')) else .error .fixedBits
  | _ => .error .fixedBits

/-- The fields of `CMPI.cc` (R144). -/
def rowCmpi (w : Nat) : Except Reject Instr :=
  match unpack [10, 5, 3, 4, 3, 1] w with
  | [i', a', c', d', p', h'] => .ok (.cmpi (BitVec.ofNat 1 h') (BitVec.ofNat 3 p') (BitVec.ofNat 4 d') (BitVec.ofNat 3 c') (BitVec.ofNat 5 a') (BitVec.ofNat 10 i'))
  | _ => .error .fixedBits

/-- The fields of `PAND` (R145). -/
def rowPand (w : Nat) : Except Reject Instr :=
  match unpack [7, 4, 1, 4, 1, 4, 1, 3, 1] w with
  | [x0, b', x1, a', x2, d', x3, p', h'] => if x0 = 0 ∧ x1 = 0 ∧ x2 = 0 ∧ x3 = 0 then .ok (.pand (BitVec.ofNat 1 h') (BitVec.ofNat 3 p') (BitVec.ofNat 4 d') (BitVec.ofNat 4 a') (BitVec.ofNat 4 b')) else .error .fixedBits
  | _ => .error .fixedBits

/-- The fields of `POR` (R145). -/
def rowPor (w : Nat) : Except Reject Instr :=
  match unpack [7, 4, 1, 4, 1, 4, 1, 3, 1] w with
  | [x0, b', x1, a', x2, d', x3, p', h'] => if x0 = 1 ∧ x1 = 0 ∧ x2 = 0 ∧ x3 = 0 then .ok (.por (BitVec.ofNat 1 h') (BitVec.ofNat 3 p') (BitVec.ofNat 4 d') (BitVec.ofNat 4 a') (BitVec.ofNat 4 b')) else .error .fixedBits
  | _ => .error .fixedBits

/-- The fields of `PXOR` (R145). -/
def rowPxor (w : Nat) : Except Reject Instr :=
  match unpack [7, 4, 1, 4, 1, 4, 1, 3, 1] w with
  | [x0, b', x1, a', x2, d', x3, p', h'] => if x0 = 2 ∧ x1 = 0 ∧ x2 = 0 ∧ x3 = 0 then .ok (.pxor (BitVec.ofNat 1 h') (BitVec.ofNat 3 p') (BitVec.ofNat 4 d') (BitVec.ofNat 4 a') (BitVec.ofNat 4 b')) else .error .fixedBits
  | _ => .error .fixedBits

/-- The fields of `PANDN` (R145). -/
def rowPandn (w : Nat) : Except Reject Instr :=
  match unpack [7, 4, 1, 4, 1, 4, 1, 3, 1] w with
  | [x0, b', x1, a', x2, d', x3, p', h'] => if x0 = 3 ∧ x1 = 0 ∧ x2 = 0 ∧ x3 = 0 then .ok (.pandn (BitVec.ofNat 1 h') (BitVec.ofNat 3 p') (BitVec.ofNat 4 d') (BitVec.ofNat 4 a') (BitVec.ofNat 4 b')) else .error .fixedBits
  | _ => .error .fixedBits

/-- The fields of `PNOT` (R145). -/
def rowPnot (w : Nat) : Except Reject Instr :=
  match unpack [12, 4, 1, 4, 1, 3, 1] w with
  | [x0, a', x1, d', x2, p', h'] => if x0 = 4 ∧ x1 = 0 ∧ x2 = 0 then .ok (.pnot (BitVec.ofNat 1 h') (BitVec.ofNat 3 p') (BitVec.ofNat 4 d') (BitVec.ofNat 4 a')) else .error .fixedBits
  | _ => .error .fixedBits

/-- The fields of `BFX` (R142). -/
def rowBfx (w : Nat) : Except Reject Instr :=
  match unpack [6, 6, 5, 5, 3, 1] w with
  | [n', l', a', d', p', h'] => .ok (.bfx (BitVec.ofNat 1 h') (BitVec.ofNat 3 p') (BitVec.ofNat 5 d') (BitVec.ofNat 5 a') (BitVec.ofNat 6 l') (BitVec.ofNat 6 n'))
  | _ => .error .fixedBits

/-- The fields of `BFI` (R142). -/
def rowBfi (w : Nat) : Except Reject Instr :=
  match unpack [6, 6, 5, 5, 3, 1] w with
  | [n', l', a', d', p', h'] => .ok (.bfi (BitVec.ofNat 1 h') (BitVec.ofNat 3 p') (BitVec.ofNat 5 d') (BitVec.ofNat 5 a') (BitVec.ofNat 6 l') (BitVec.ofNat 6 n'))
  | _ => .error .fixedBits

/-- The fields of `PADR` (R143). -/
def rowPadr (w : Nat) : Except Reject Instr :=
  match unpack [4, 8, 5, 5, 3, 1] w with
  | [q', x0, a', d', p', h'] => if x0 = 0 then .ok (.padr (BitVec.ofNat 1 h') (BitVec.ofNat 3 p') (BitVec.ofNat 5 d') (BitVec.ofNat 5 a') (BitVec.ofNat 4 q')) else .error .fixedBits
  | _ => .error .fixedBits

/-- The fields of `PCREL` (R143). -/
def rowPcrel (w : Nat) : Except Reject Instr :=
  match unpack [17, 5, 3, 1] w with
  | [i', d', p', h'] => .ok (.pcrel (BitVec.ofNat 1 h') (BitVec.ofNat 3 p') (BitVec.ofNat 5 d') (BitVec.ofNat 17 i'))
  | _ => .error .fixedBits

/-- The fields of `BR` (R146). -/
def rowBr (w : Nat) : Except Reject Instr :=
  match unpack [22, 3, 1] w with
  | [o', p', h'] => .ok (.br (BitVec.ofNat 1 h') (BitVec.ofNat 3 p') (BitVec.ofNat 22 o'))
  | _ => .error .fixedBits

/-- The fields of `CALL` (R146). -/
def rowCall (w : Nat) : Except Reject Instr :=
  match unpack [22, 3, 1] w with
  | [o', p', h'] => .ok (.call (BitVec.ofNat 1 h') (BitVec.ofNat 3 p') (BitVec.ofNat 22 o'))
  | _ => .error .fixedBits

/-- The fields of `JMPR` (R146). -/
def rowJmpr (w : Nat) : Except Reject Instr :=
  match unpack [12, 5, 5, 3, 1] w with
  | [x0, a', x1, p', h'] => if x0 = 0 ∧ x1 = 0 then .ok (.jmpr (BitVec.ofNat 1 h') (BitVec.ofNat 3 p') (BitVec.ofNat 5 a')) else .error .fixedBits
  | _ => .error .fixedBits

/-- The fields of `LOOP` (R87). -/
def rowLoop (w : Nat) : Except Reject Instr :=
  match unpack [8, 6, 5, 3, 3, 1] w with
  | [x0, l', s', v', p', h'] => if x0 = 0 then .ok (.loop (BitVec.ofNat 1 h') (BitVec.ofNat 3 p') (BitVec.ofNat 3 v') (BitVec.ofNat 5 s') (BitVec.ofNat 6 l')) else .error .fixedBits
  | _ => .error .fixedBits

/-- The fields of `LEXIT` (R150). -/
def rowLexit (w : Nat) : Except Reject Instr :=
  match unpack [19, 3, 3, 1] w with
  | [x0, v', p', h'] => if x0 = 0 then .ok (.lexit (BitVec.ofNat 1 h') (BitVec.ofNat 3 p') (BitVec.ofNat 3 v')) else .error .fixedBits
  | _ => .error .fixedBits

/-- The fields of `WSEL` (R75). -/
def rowWsel (w : Nat) : Except Reject Instr :=
  match unpack [1, 5, 5, 5, 5, 1, 3, 1] w with
  | [x0, d', c', b', a', x', p', h'] => if x0 = 0 then .ok (.wsel (BitVec.ofNat 1 h') (BitVec.ofNat 3 p') (BitVec.ofNat 1 x') (BitVec.ofNat 5 a') (BitVec.ofNat 5 b') (BitVec.ofNat 5 c') (BitVec.ofNat 5 d')) else .error .fixedBits
  | _ => .error .fixedBits

/-- The fields of `SIG` (R152). -/
def rowSig (w : Nat) : Except Reject Instr :=
  match unpack [11, 5, 6, 3, 1] w with
  | [x0, a', f', p', h'] => if x0 = 0 then .ok (.sig (BitVec.ofNat 1 h') (BitVec.ofNat 3 p') (BitVec.ofNat 6 f') (BitVec.ofNat 5 a')) else .error .fixedBits
  | _ => .error .fixedBits

/-- The fields of `SYNCD` (R60). -/
def rowSyncd (w : Nat) : Except Reject Instr :=
  match unpack [19, 3, 3, 1] w with
  | [x0, v', p', h'] => if x0 = 0 then .ok (.syncd (BitVec.ofNat 1 h') (BitVec.ofNat 3 p') (BitVec.ofNat 3 v')) else .error .fixedBits
  | _ => .error .fixedBits

/-- The fields of `YIELD` (R154). -/
def rowYield (w : Nat) : Except Reject Instr :=
  match unpack [22, 3, 1] w with
  | [x0, p', h'] => if x0 = 0 then .ok (.yield (BitVec.ofNat 1 h') (BitVec.ofNat 3 p')) else .error .fixedBits
  | _ => .error .fixedBits

/-- The fields of `RETIRE` (R155). -/
def rowRetire (w : Nat) : Except Reject Instr :=
  match unpack [22, 3, 1] w with
  | [x0, p', h'] => if x0 = 0 then .ok (.retire (BitVec.ofNat 1 h') (BitVec.ofNat 3 p')) else .error .fixedBits
  | _ => .error .fixedBits

/-- The fields of `FORK` (R156). -/
def rowFork (w : Nat) : Except Reject Instr :=
  match unpack [7, 5, 5, 5, 3, 1] w with
  | [x0, c', b', a', p', h'] => if x0 = 0 then .ok (.fork (BitVec.ofNat 1 h') (BitVec.ofNat 3 p') (BitVec.ofNat 5 a') (BitVec.ofNat 5 b') (BitVec.ofNat 5 c')) else .error .fixedBits
  | _ => .error .fixedBits

/-- The fields of `CSRR` (R157). -/
def rowCsrr (w : Nat) : Except Reject Instr :=
  match unpack [12, 5, 5, 3, 1] w with
  | [n', x0, d', p', h'] => if x0 = 0 then .ok (.csrr (BitVec.ofNat 1 h') (BitVec.ofNat 3 p') (BitVec.ofNat 5 d') (BitVec.ofNat 12 n')) else .error .fixedBits
  | _ => .error .fixedBits

/-- The fields of `CSRW` (R157). -/
def rowCsrw (w : Nat) : Except Reject Instr :=
  match unpack [12, 5, 5, 3, 1] w with
  | [n', a', x0, p', h'] => if x0 = 0 then .ok (.csrw (BitVec.ofNat 1 h') (BitVec.ofNat 3 p') (BitVec.ofNat 5 a') (BitVec.ofNat 12 n')) else .error .fixedBits
  | _ => .error .fixedBits

/-- The fields of `CSRS` (R157). -/
def rowCsrs (w : Nat) : Except Reject Instr :=
  match unpack [12, 5, 5, 3, 1] w with
  | [n', a', x0, p', h'] => if x0 = 0 then .ok (.csrs (BitVec.ofNat 1 h') (BitVec.ofNat 3 p') (BitVec.ofNat 5 a') (BitVec.ofNat 12 n')) else .error .fixedBits
  | _ => .error .fixedBits

/-- The fields of `CSRC` (R157). -/
def rowCsrc (w : Nat) : Except Reject Instr :=
  match unpack [12, 5, 5, 3, 1] w with
  | [n', a', x0, p', h'] => if x0 = 0 then .ok (.csrc (BitVec.ofNat 1 h') (BitVec.ofNat 3 p') (BitVec.ofNat 5 a') (BitVec.ofNat 12 n')) else .error .fixedBits
  | _ => .error .fixedBits

/-- The fields of `TRAP` (R148). -/
def rowTrap (w : Nat) : Except Reject Instr :=
  match unpack [17, 5, 3, 1] w with
  | [i', x0, p', h'] => if x0 = 0 then .ok (.trap (BitVec.ofNat 1 h') (BitVec.ofNat 3 p') (BitVec.ofNat 17 i')) else .error .fixedBits
  | _ => .error .fixedBits

/-- The fields of `RTE` (R324). -/
def rowRte (w : Nat) : Except Reject Instr :=
  match unpack [22, 3, 1] w with
  | [x0, p', h'] => if x0 = 0 then .ok (.rte (BitVec.ofNat 1 h') (BitVec.ofNat 3 p')) else .error .fixedBits
  | _ => .error .fixedBits

/-- The fields of `BRK` (R148). -/
def rowBrk (w : Nat) : Except Reject Instr :=
  match unpack [17, 5, 3, 1] w with
  | [i', x0, p', h'] => if x0 = 0 then .ok (.brk (BitVec.ofNat 1 h') (BitVec.ofNat 3 p') (BitVec.ofNat 17 i')) else .error .fixedBits
  | _ => .error .fixedBits

/-- The fields of `QCFG` (R168). -/
def rowQcfg (w : Nat) : Except Reject Instr :=
  match unpack [7, 2, 8, 5, 3, 1] w with
  | [x0, w', d', q', p', h'] => if x0 = 0 then .ok (.qcfg (BitVec.ofNat 1 h') (BitVec.ofNat 3 p') (BitVec.ofNat 5 q') (BitVec.ofNat 8 d') (BitVec.ofNat 2 w')) else .error .fixedBits
  | _ => .error .fixedBits

/-- The fields of `QCFG.keep` (R84). -/
def rowQcfgKeep (w : Nat) : Except Reject Instr :=
  match unpack [7, 2, 8, 5, 3, 1] w with
  | [x0, w', d', q', p', h'] => if x0 = 64 then .ok (.qcfgKeep (BitVec.ofNat 1 h') (BitVec.ofNat 3 p') (BitVec.ofNat 5 q') (BitVec.ofNat 8 d') (BitVec.ofNat 2 w')) else .error .fixedBits
  | _ => .error .fixedBits

/-- The fields of `QREL` (R84). -/
def rowQrel (w : Nat) : Except Reject Instr :=
  match unpack [17, 5, 3, 1] w with
  | [x0, q', p', h'] => if x0 = 0 then .ok (.qrel (BitVec.ofNat 1 h') (BitVec.ofNat 3 p') (BitVec.ofNat 5 q')) else .error .fixedBits
  | _ => .error .fixedBits

/-- The fields of `QSTAT` (R79). -/
def rowQstat (w : Nat) : Except Reject Instr :=
  match unpack [12, 5, 5, 3, 1] w with
  | [x0, q', d', p', h'] => if x0 = 0 then .ok (.qstat (BitVec.ofNat 1 h') (BitVec.ofNat 3 p') (BitVec.ofNat 5 d') (BitVec.ofNat 5 q')) else .error .fixedBits
  | _ => .error .fixedBits

/-- The fields of `ASET` (R169). -/
def rowAset (w : Nat) : Except Reject Instr :=
  match unpack [13, 5, 4, 3, 1] w with
  | [x0, a', n', p', h'] => if x0 = 0 then .ok (.aset (BitVec.ofNat 1 h') (BitVec.ofNat 3 p') (BitVec.ofNat 4 n') (BitVec.ofNat 5 a')) else .error .fixedBits
  | _ => .error .fixedBits

/-- The fields of `ADIM` (R169). -/
def rowAdim (w : Nat) : Except Reject Instr :=
  match unpack [2, 3, 5, 5, 3, 4, 3, 1] w with
  | [x0, k', b', s', d', n', p', h'] => if x0 = 0 then .ok (.adim (BitVec.ofNat 1 h') (BitVec.ofNat 3 p') (BitVec.ofNat 4 n') (BitVec.ofNat 3 d') (BitVec.ofNat 5 s') (BitVec.ofNat 5 b') (BitVec.ofNat 3 k')) else .error .fixedBits
  | _ => .error .fixedBits

/-- The fields of `AGET` (R169). -/
def rowAget (w : Nat) : Except Reject Instr :=
  match unpack [10, 3, 4, 5, 3, 1] w with
  | [x0, s', n', d', p', h'] => if x0 = 0 then .ok (.aget (BitVec.ofNat 1 h') (BitVec.ofNat 3 p') (BitVec.ofNat 5 d') (BitVec.ofNat 4 n') (BitVec.ofNat 3 s')) else .error .fixedBits
  | _ => .error .fixedBits

/-- The fields of `MBXR` (R170). -/
def rowMbxr (w : Nat) : Except Reject Instr :=
  match unpack [14, 3, 5, 3, 1] w with
  | [x0, m', d', p', h'] => if x0 = 0 then .ok (.mbxr (BitVec.ofNat 1 h') (BitVec.ofNat 3 p') (BitVec.ofNat 5 d') (BitVec.ofNat 3 m')) else .error .fixedBits
  | _ => .error .fixedBits

/-- The fields of `MBXW` (R170). -/
def rowMbxw (w : Nat) : Except Reject Instr :=
  match unpack [14, 3, 5, 3, 1] w with
  | [x0, m', a', p', h'] => if x0 = 0 then .ok (.mbxw (BitVec.ofNat 1 h') (BitVec.ofNat 3 p') (BitVec.ofNat 5 a') (BitVec.ofNat 3 m')) else .error .fixedBits
  | _ => .error .fixedBits

/-- The fields of `PCRT` (R171). -/
def rowPcrt (w : Nat) : Except Reject Instr :=
  match unpack [4, 3, 5, 5, 5, 3, 1] w with
  | [q', x0, c', b', a', p', h'] => if x0 = 0 then .ok (.pcrt (BitVec.ofNat 1 h') (BitVec.ofNat 3 p') (BitVec.ofNat 5 a') (BitVec.ofNat 5 b') (BitVec.ofNat 5 c') (BitVec.ofNat 4 q')) else .error .fixedBits
  | _ => .error .fixedBits

/-- The fields of `PDEL` (R171). -/
def rowPdel (w : Nat) : Except Reject Instr :=
  match unpack [4, 13, 5, 3, 1] w with
  | [q', x0, a', p', h'] => if x0 = 0 then .ok (.pdel (BitVec.ofNat 1 h') (BitVec.ofNat 3 p') (BitVec.ofNat 5 a') (BitVec.ofNat 4 q')) else .error .fixedBits
  | _ => .error .fixedBits

/-- The fields of `PPRT` (R171). -/
def rowPprt (w : Nat) : Except Reject Instr :=
  match unpack [4, 1, 1, 11, 5, 3, 1] w with
  | [q', r', w', x0, a', p', h'] => if x0 = 0 then .ok (.pprt (BitVec.ofNat 1 h') (BitVec.ofNat 3 p') (BitVec.ofNat 5 a') (BitVec.ofNat 1 w') (BitVec.ofNat 1 r') (BitVec.ofNat 4 q')) else .error .fixedBits
  | _ => .error .fixedBits

/-- The fields of `CHBIND` (R173). -/
def rowChbind (w : Nat) : Except Reject Instr :=
  match unpack [14, 5, 3, 3, 1] w with
  | [x0, a', c', p', h'] => if x0 = 0 then .ok (.chbind (BitVec.ofNat 1 h') (BitVec.ofNat 3 p') (BitVec.ofNat 3 c') (BitVec.ofNat 5 a')) else .error .fixedBits
  | _ => .error .fixedBits

/-- The fields of `CHRD` (R174). -/
def rowChrd (w : Nat) : Except Reject Instr :=
  match unpack [14, 3, 5, 3, 1] w with
  | [x0, c', d', p', h'] => if x0 = 0 then .ok (.chrd (BitVec.ofNat 1 h') (BitVec.ofNat 3 p') (BitVec.ofNat 5 d') (BitVec.ofNat 3 c')) else .error .fixedBits
  | _ => .error .fixedBits

/-- The fields of `CHWR` (R174). -/
def rowChwr (w : Nat) : Except Reject Instr :=
  match unpack [14, 3, 5, 3, 1] w with
  | [x0, c', a', p', h'] => if x0 = 0 then .ok (.chwr (BitVec.ofNat 1 h') (BitVec.ofNat 3 p') (BitVec.ofNat 5 a') (BitVec.ofNat 3 c')) else .error .fixedBits
  | _ => .error .fixedBits

/-- The fields of `NOP.l` (R68). -/
def rowNopL (w : Nat) : Except Reject Instr :=
  match unpack [22, 3, 1] w with
  | [x0, p', h'] => if x0 = 0 then .ok (.nopL (BitVec.ofNat 1 h') (BitVec.ofNat 3 p')) else .error .fixedBits
  | _ => .error .fixedBits

/-- The fields of `LDS.sz` (R181). -/
def rowLds (w : Nat) : Except Reject Instr :=
  match unpack [6, 3, 2, 5, 5, 1, 3, 1] w with
  | [f', o', z', b', d', s', p', h'] => .ok (.lds (BitVec.ofNat 1 h') (BitVec.ofNat 3 p') (BitVec.ofNat 1 s') (BitVec.ofNat 5 d') (BitVec.ofNat 5 b') (BitVec.ofNat 2 z') (BitVec.ofNat 3 o') (BitVec.ofNat 6 f'))
  | _ => .error .fixedBits

/-- The fields of `LDG.sz` (R181). -/
def rowLdg (w : Nat) : Except Reject Instr :=
  match unpack [6, 3, 2, 5, 5, 1, 3, 1] w with
  | [f', o', z', b', d', s', p', h'] => .ok (.ldg (BitVec.ofNat 1 h') (BitVec.ofNat 3 p') (BitVec.ofNat 1 s') (BitVec.ofNat 5 d') (BitVec.ofNat 5 b') (BitVec.ofNat 2 z') (BitVec.ofNat 3 o') (BitVec.ofNat 6 f'))
  | _ => .error .fixedBits

/-- The fields of `LDV` (R182). -/
def rowLdv (w : Nat) : Except Reject Instr :=
  match unpack [3, 8, 5, 5, 1, 3, 1] w with
  | [o', x0, b', d', s', p', h'] => if x0 = 0 then .ok (.ldv (BitVec.ofNat 1 h') (BitVec.ofNat 3 p') (BitVec.ofNat 1 s') (BitVec.ofNat 5 d') (BitVec.ofNat 5 b') (BitVec.ofNat 3 o')) else .error .fixedBits
  | _ => .error .fixedBits

/-- The fields of `LDVT.eN` (R183). -/
def rowLdvt (w : Nat) : Except Reject Instr :=
  match unpack [9, 2, 5, 5, 1, 3, 1] w with
  | [x0, e', b', d', s', p', h'] => if x0 = 0 then .ok (.ldvt (BitVec.ofNat 1 h') (BitVec.ofNat 3 p') (BitVec.ofNat 1 s') (BitVec.ofNat 5 d') (BitVec.ofNat 5 b') (BitVec.ofNat 2 e')) else .error .fixedBits
  | _ => .error .fixedBits

/-- The fields of `LGV` (R184). -/
def rowLgv (w : Nat) : Except Reject Instr :=
  match unpack [3, 8, 5, 5, 1, 3, 1] w with
  | [o', x', b', d', s', p', h'] => .ok (.lgv (BitVec.ofNat 1 h') (BitVec.ofNat 3 p') (BitVec.ofNat 1 s') (BitVec.ofNat 5 d') (BitVec.ofNat 5 b') (BitVec.ofNat 8 x') (BitVec.ofNat 3 o'))
  | _ => .error .fixedBits

/-- The fields of `PLD` (R185). -/
def rowPld (w : Nat) : Except Reject Instr :=
  match unpack [4, 2, 8, 3, 5, 3, 1] w with
  | [m', q', x', n', d', p', h'] => .ok (.pld (BitVec.ofNat 1 h') (BitVec.ofNat 3 p') (BitVec.ofNat 5 d') (BitVec.ofNat 3 n') (BitVec.ofNat 8 x') (BitVec.ofNat 2 q') (BitVec.ofNat 4 m'))
  | _ => .error .fixedBits

/-- The fields of `TLD` (R186). -/
def rowTld (w : Nat) : Except Reject Instr :=
  match unpack [3, 1, 1, 2, 5, 5, 5, 3, 1] w with
  | [o', x0, r', t', c', k', d', p', h'] => if x0 = 0 then .ok (.tld (BitVec.ofNat 1 h') (BitVec.ofNat 3 p') (BitVec.ofNat 5 d') (BitVec.ofNat 5 k') (BitVec.ofNat 5 c') (BitVec.ofNat 2 t') (BitVec.ofNat 1 r') (BitVec.ofNat 3 o')) else .error .fixedBits
  | _ => .error .fixedBits

/-- The fields of `LDX` (R187). -/
def rowLdx (w : Nat) : Except Reject Instr :=
  match unpack [3, 3, 5, 5, 5, 1, 3, 1] w with
  | [o', x0, i', b', d', s', p', h'] => if x0 = 0 then .ok (.ldx (BitVec.ofNat 1 h') (BitVec.ofNat 3 p') (BitVec.ofNat 1 s') (BitVec.ofNat 5 d') (BitVec.ofNat 5 b') (BitVec.ofNat 5 i') (BitVec.ofNat 3 o')) else .error .fixedBits
  | _ => .error .fixedBits

/-- The fields of `NOP.t` (R68). -/
def rowNopT (w : Nat) : Except Reject Instr :=
  match unpack [22, 3, 1] w with
  | [x0, p', h'] => if x0 = 0 then .ok (.nopT (BitVec.ofNat 1 h') (BitVec.ofNat 3 p')) else .error .fixedBits
  | _ => .error .fixedBits

/-- The fields of `STS.sz` (R189). -/
def rowSts (w : Nat) : Except Reject Instr :=
  match unpack [6, 3, 2, 5, 5, 1, 3, 1] w with
  | [f', o', z', b', d', s', p', h'] => .ok (.sts (BitVec.ofNat 1 h') (BitVec.ofNat 3 p') (BitVec.ofNat 1 s') (BitVec.ofNat 5 d') (BitVec.ofNat 5 b') (BitVec.ofNat 2 z') (BitVec.ofNat 3 o') (BitVec.ofNat 6 f'))
  | _ => .error .fixedBits

/-- The fields of `STG.sz` (R189). -/
def rowStg (w : Nat) : Except Reject Instr :=
  match unpack [6, 3, 2, 5, 5, 1, 3, 1] w with
  | [f', o', z', b', d', s', p', h'] => .ok (.stg (BitVec.ofNat 1 h') (BitVec.ofNat 3 p') (BitVec.ofNat 1 s') (BitVec.ofNat 5 d') (BitVec.ofNat 5 b') (BitVec.ofNat 2 z') (BitVec.ofNat 3 o') (BitVec.ofNat 6 f'))
  | _ => .error .fixedBits

/-- The fields of `STV` (R191). -/
def rowStv (w : Nat) : Except Reject Instr :=
  match unpack [3, 8, 5, 5, 1, 3, 1] w with
  | [o', x0, b', d', s', p', h'] => if x0 = 0 then .ok (.stv (BitVec.ofNat 1 h') (BitVec.ofNat 3 p') (BitVec.ofNat 1 s') (BitVec.ofNat 5 d') (BitVec.ofNat 5 b') (BitVec.ofNat 3 o')) else .error .fixedBits
  | _ => .error .fixedBits

/-- The fields of `SGV` (R191). -/
def rowSgv (w : Nat) : Except Reject Instr :=
  match unpack [3, 4, 3, 1, 5, 5, 1, 3, 1] w with
  | [o', x0, m', e', b', d', s', p', h'] => if x0 = 0 then .ok (.sgv (BitVec.ofNat 1 h') (BitVec.ofNat 3 p') (BitVec.ofNat 1 s') (BitVec.ofNat 5 d') (BitVec.ofNat 5 b') (BitVec.ofNat 1 e') (BitVec.ofNat 3 m') (BitVec.ofNat 3 o')) else .error .fixedBits
  | _ => .error .fixedBits

/-- The fields of `PST` (R192). -/
def rowPst (w : Nat) : Except Reject Instr :=
  match unpack [4, 2, 8, 3, 5, 3, 1] w with
  | [m', q', x0, n', d', p', h'] => if x0 = 0 then .ok (.pst (BitVec.ofNat 1 h') (BitVec.ofNat 3 p') (BitVec.ofNat 5 d') (BitVec.ofNat 3 n') (BitVec.ofNat 2 q') (BitVec.ofNat 4 m')) else .error .fixedBits
  | _ => .error .fixedBits

/-- The fields of `TST` (R192). -/
def rowTst (w : Nat) : Except Reject Instr :=
  match unpack [3, 1, 1, 2, 5, 5, 5, 3, 1] w with
  | [o', x0, r', t', c', k', d', p', h'] => if x0 = 0 then .ok (.tst (BitVec.ofNat 1 h') (BitVec.ofNat 3 p') (BitVec.ofNat 5 d') (BitVec.ofNat 5 k') (BitVec.ofNat 5 c') (BitVec.ofNat 2 t') (BitVec.ofNat 1 r') (BitVec.ofNat 3 o')) else .error .fixedBits
  | _ => .error .fixedBits

/-- The fields of `STX` (R192). -/
def rowStx (w : Nat) : Except Reject Instr :=
  match unpack [3, 3, 5, 5, 5, 1, 3, 1] w with
  | [o', x0, i', b', d', s', p', h'] => if x0 = 0 then .ok (.stx (BitVec.ofNat 1 h') (BitVec.ofNat 3 p') (BitVec.ofNat 1 s') (BitVec.ofNat 5 d') (BitVec.ofNat 5 b') (BitVec.ofNat 5 i') (BitVec.ofNat 3 o')) else .error .fixedBits
  | _ => .error .fixedBits

/-- The fields of `ATOM.op` (R193). -/
def rowAtom (w : Nat) : Except Reject Instr :=
  match unpack [3, 5, 5, 5, 4, 3, 1] w with
  | [o', s', b', d', a', p', h'] => .ok (.atom (BitVec.ofNat 1 h') (BitVec.ofNat 3 p') (BitVec.ofNat 4 a') (BitVec.ofNat 5 d') (BitVec.ofNat 5 b') (BitVec.ofNat 5 s') (BitVec.ofNat 3 o'))
  | _ => .error .fixedBits

/-- The fields of `REDV.op.t` (R194). -/
def rowRedv (w : Nat) : Except Reject Instr :=
  match unpack [3, 6, 2, 5, 5, 1, 3, 1] w with
  | [o', x0, r', b', d', s', p', h'] => if x0 = 0 then .ok (.redv (BitVec.ofNat 1 h') (BitVec.ofNat 3 p') (BitVec.ofNat 1 s') (BitVec.ofNat 5 d') (BitVec.ofNat 5 b') (BitVec.ofNat 2 r') (BitVec.ofNat 3 o')) else .error .fixedBits
  | _ => .error .fixedBits

/-- The fields of `SIGST` (R190). -/
def rowSigst (w : Nat) : Except Reject Instr :=
  match unpack [6, 3, 2, 5, 5, 1, 3, 1] w with
  | [f', o', x0, b', d', s', p', h'] => if x0 = 3 then .ok (.sigst (BitVec.ofNat 1 h') (BitVec.ofNat 3 p') (BitVec.ofNat 1 s') (BitVec.ofNat 5 d') (BitVec.ofNat 5 b') (BitVec.ofNat 3 o') (BitVec.ofNat 6 f')) else .error .fixedBits
  | _ => .error .fixedBits

/-- The fields of `FENCE.scope` (R196). -/
def rowFence (w : Nat) : Except Reject Instr :=
  match unpack [19, 3, 3, 1] w with
  | [x0, s', p', h'] => if x0 = 0 then .ok (.fence (BitVec.ofNat 1 h') (BitVec.ofNat 3 p') (BitVec.ofNat 3 s')) else .error .fixedBits
  | _ => .error .fixedBits

/-- The fields of `FENCEX.scope` (R196). -/
def rowFencex (w : Nat) : Except Reject Instr :=
  match unpack [13, 3, 3, 3, 3, 1] w with
  | [x0, b', a', s', p', h'] => if x0 = 0 then .ok (.fencex (BitVec.ofNat 1 h') (BitVec.ofNat 3 p') (BitVec.ofNat 3 s') (BitVec.ofNat 3 a') (BitVec.ofNat 3 b')) else .error .fixedBits
  | _ => .error .fixedBits

/-- The fields of `DRAIN.scope` (R196). -/
def rowDrain (w : Nat) : Except Reject Instr :=
  match unpack [19, 3, 3, 1] w with
  | [x0, s', p', h'] => if x0 = 0 then .ok (.drain (BitVec.ofNat 1 h') (BitVec.ofNat 3 p') (BitVec.ofNat 3 s')) else .error .fixedBits
  | _ => .error .fixedBits

/-- The fields of `CPY` (R198). -/
def rowCpy (w : Nat) : Except Reject Instr :=
  match unpack [7, 5, 5, 5, 3, 1] w with
  | [x0, c', b', a', p', h'] => if x0 = 0 then .ok (.cpy (BitVec.ofNat 1 h') (BitVec.ofNat 3 p') (BitVec.ofNat 5 a') (BitVec.ofNat 5 b') (BitVec.ofNat 5 c')) else .error .fixedBits
  | _ => .error .fixedBits

/-- The fields of `COLL.op.type` (R200). -/
def rowColl (w : Nat) : Except Reject Instr :=
  match unpack [3, 1, 3, 5, 5, 5, 3, 1] w with
  | [x', y', x0, c', b', a', p', h'] => if x0 = 0 then .ok (.coll (BitVec.ofNat 1 h') (BitVec.ofNat 3 p') (BitVec.ofNat 5 a') (BitVec.ofNat 5 b') (BitVec.ofNat 5 c') (BitVec.ofNat 1 y') (BitVec.ofNat 3 x')) else .error .fixedBits
  | _ => .error .fixedBits

/-- The fields of `GATH` (R199). -/
def rowGath (w : Nat) : Except Reject Instr :=
  match unpack [7, 5, 5, 5, 3, 1] w with
  | [x0, c', b', a', p', h'] => if x0 = 0 then .ok (.gath (BitVec.ofNat 1 h') (BitVec.ofNat 3 p') (BitVec.ofNat 5 a') (BitVec.ofNat 5 b') (BitVec.ofNat 5 c')) else .error .fixedBits
  | _ => .error .fixedBits

/-- The fields of `TAKE` (R202). -/
def rowTake (w : Nat) : Except Reject Instr :=
  match unpack [4, 13, 5, 3, 1] w with
  | [n', x0, a', p', h'] => if x0 = 0 then .ok (.take (BitVec.ofNat 1 h') (BitVec.ofNat 3 p') (BitVec.ofNat 5 a') (BitVec.ofNat 4 n')) else .error .fixedBits
  | _ => .error .fixedBits

/-- The fields of `ARRW` (R201). -/
def rowArrw (w : Nat) : Except Reject Instr :=
  match unpack [6, 6, 5, 5, 3, 1] w with
  | [f', x0, b', a', p', h'] => if x0 = 0 then .ok (.arrw (BitVec.ofNat 1 h') (BitVec.ofNat 3 p') (BitVec.ofNat 5 a') (BitVec.ofNat 5 b') (BitVec.ofNat 6 f')) else .error .fixedBits
  | _ => .error .fixedBits

/-- The fields of `NOP.m` (R68). -/
def rowNopM (w : Nat) : Except Reject Instr :=
  match unpack [22, 3, 1] w with
  | [x0, p', h'] => if x0 = 0 then .ok (.nopM (BitVec.ofNat 1 h') (BitVec.ofNat 3 p')) else .error .fixedBits
  | _ => .error .fixedBits

/-- The fields of `MLW.type` (R213). -/
def rowMlw (w : Nat) : Except Reject Instr :=
  match unpack [9, 3, 5, 5, 3, 1] w with
  | [x0, t', x1, q', p', h'] => if x0 = 0 ∧ x1 = 0 then .ok (.mlw (BitVec.ofNat 1 h') (BitVec.ofNat 3 p') (BitVec.ofNat 5 q') (BitVec.ofNat 3 t')) else .error .fixedBits
  | _ => .error .fixedBits

/-- The fields of `MSWP` (R214). -/
def rowMswp (w : Nat) : Except Reject Instr :=
  match unpack [22, 3, 1] w with
  | [x0, p', h'] => if x0 = 0 then .ok (.mswp (BitVec.ofNat 1 h') (BitVec.ofNat 3 p')) else .error .fixedBits
  | _ => .error .fixedBits

/-- The fields of `MMA.type` (R215). -/
def rowMma (w : Nat) : Except Reject Instr :=
  match unpack [9, 3, 5, 5, 3, 1] w with
  | [x0, t', x1, q', p', h'] => if x0 = 0 ∧ x1 = 0 then .ok (.mma (BitVec.ofNat 1 h') (BitVec.ofNat 3 p') (BitVec.ofNat 5 q') (BitVec.ofNat 3 t')) else .error .fixedBits
  | _ => .error .fixedBits

/-- The fields of `MMAC.type` (R215). -/
def rowMmac (w : Nat) : Except Reject Instr :=
  match unpack [9, 3, 5, 5, 3, 1] w with
  | [x0, t', c', q', p', h'] => if x0 = 0 then .ok (.mmac (BitVec.ofNat 1 h') (BitVec.ofNat 3 p') (BitVec.ofNat 5 q') (BitVec.ofNat 5 c') (BitVec.ofNat 3 t')) else .error .fixedBits
  | _ => .error .fixedBits

/-- The fields of `MCHN` (R219). -/
def rowMchn (w : Nat) : Except Reject Instr :=
  match unpack [12, 5, 5, 3, 1] w with
  | [x0, a', x1, p', h'] => if x0 = 0 ∧ x1 = 0 then .ok (.mchn (BitVec.ofNat 1 h') (BitVec.ofNat 3 p') (BitVec.ofNat 5 a')) else .error .fixedBits
  | _ => .error .fixedBits

/-- The fields of `MDRN` (R216). -/
def rowMdrn (w : Nat) : Except Reject Instr :=
  match unpack [22, 3, 1] w with
  | [x0, p', h'] => if x0 = 0 then .ok (.mdrn (BitVec.ofNat 1 h') (BitVec.ofNat 3 p')) else .error .fixedBits
  | _ => .error .fixedBits

/-- The fields of `MSTS` (R218). -/
def rowMsts (w : Nat) : Except Reject Instr :=
  match unpack [17, 5, 3, 1] w with
  | [x0, d', p', h'] => if x0 = 0 then .ok (.msts (BitVec.ofNat 1 h') (BitVec.ofNat 3 p') (BitVec.ofNat 5 d')) else .error .fixedBits
  | _ => .error .fixedBits

/-- The fields of `MZER` (R216). -/
def rowMzer (w : Nat) : Except Reject Instr :=
  match unpack [22, 3, 1] w with
  | [x0, p', h'] => if x0 = 0 then .ok (.mzer (BitVec.ofNat 1 h') (BitVec.ofNat 3 p')) else .error .fixedBits
  | _ => .error .fixedBits

/-- The fields of `NOP.a` (R68). -/
def rowNopAb (w : Nat) : Except Reject Instr :=
  match unpack [22, 3, 1] w with
  | [x0, p', h'] => if x0 = 0 then .ok (.nopAb (BitVec.ofNat 1 h') (BitVec.ofNat 3 p')) else .error .fixedBits
  | _ => .error .fixedBits

/-- The fields of `VADD.t.w` (R229). -/
def rowVadd (w : Nat) : Except Reject Instr :=
  match unpack [5, 1, 5, 1, 5, 3, 2, 3, 1] w with
  | [b', k', a', j', d', t', w', p', h'] => .ok (.vadd (BitVec.ofNat 1 h') (BitVec.ofNat 3 p') (BitVec.ofNat 2 w') (BitVec.ofNat 3 t') (BitVec.ofNat 5 d') (BitVec.ofNat 1 j') (BitVec.ofNat 5 a') (BitVec.ofNat 1 k') (BitVec.ofNat 5 b'))
  | _ => .error .fixedBits

/-- The fields of `VSUB.t.w` (R229). -/
def rowVsub (w : Nat) : Except Reject Instr :=
  match unpack [5, 1, 5, 1, 5, 3, 2, 3, 1] w with
  | [b', k', a', j', d', t', w', p', h'] => .ok (.vsub (BitVec.ofNat 1 h') (BitVec.ofNat 3 p') (BitVec.ofNat 2 w') (BitVec.ofNat 3 t') (BitVec.ofNat 5 d') (BitVec.ofNat 1 j') (BitVec.ofNat 5 a') (BitVec.ofNat 1 k') (BitVec.ofNat 5 b'))
  | _ => .error .fixedBits

/-- The fields of `VMUL.t.w` (R229). -/
def rowVmul (w : Nat) : Except Reject Instr :=
  match unpack [5, 1, 5, 1, 5, 3, 2, 3, 1] w with
  | [b', k', a', j', d', t', w', p', h'] => .ok (.vmul (BitVec.ofNat 1 h') (BitVec.ofNat 3 p') (BitVec.ofNat 2 w') (BitVec.ofNat 3 t') (BitVec.ofNat 5 d') (BitVec.ofNat 1 j') (BitVec.ofNat 5 a') (BitVec.ofNat 1 k') (BitVec.ofNat 5 b'))
  | _ => .error .fixedBits

/-- The fields of `VFMA.t.w` (R229). -/
def rowVfma (w : Nat) : Except Reject Instr :=
  match unpack [5, 1, 5, 1, 5, 3, 2, 3, 1] w with
  | [b', k', a', j', d', t', w', p', h'] => .ok (.vfma (BitVec.ofNat 1 h') (BitVec.ofNat 3 p') (BitVec.ofNat 2 w') (BitVec.ofNat 3 t') (BitVec.ofNat 5 d') (BitVec.ofNat 1 j') (BitVec.ofNat 5 a') (BitVec.ofNat 1 k') (BitVec.ofNat 5 b'))
  | _ => .error .fixedBits

/-- The fields of `VFMS.t.w` (R229). -/
def rowVfms (w : Nat) : Except Reject Instr :=
  match unpack [5, 1, 5, 1, 5, 3, 2, 3, 1] w with
  | [b', k', a', j', d', t', w', p', h'] => .ok (.vfms (BitVec.ofNat 1 h') (BitVec.ofNat 3 p') (BitVec.ofNat 2 w') (BitVec.ofNat 3 t') (BitVec.ofNat 5 d') (BitVec.ofNat 1 j') (BitVec.ofNat 5 a') (BitVec.ofNat 1 k') (BitVec.ofNat 5 b'))
  | _ => .error .fixedBits

/-- The fields of `VMIN.t.w` (R230). -/
def rowVmin (w : Nat) : Except Reject Instr :=
  match unpack [5, 1, 5, 1, 5, 3, 2, 3, 1] w with
  | [b', k', a', j', d', t', w', p', h'] => .ok (.vmin (BitVec.ofNat 1 h') (BitVec.ofNat 3 p') (BitVec.ofNat 2 w') (BitVec.ofNat 3 t') (BitVec.ofNat 5 d') (BitVec.ofNat 1 j') (BitVec.ofNat 5 a') (BitVec.ofNat 1 k') (BitVec.ofNat 5 b'))
  | _ => .error .fixedBits

/-- The fields of `VMAX.t.w` (R230). -/
def rowVmax (w : Nat) : Except Reject Instr :=
  match unpack [5, 1, 5, 1, 5, 3, 2, 3, 1] w with
  | [b', k', a', j', d', t', w', p', h'] => .ok (.vmax (BitVec.ofNat 1 h') (BitVec.ofNat 3 p') (BitVec.ofNat 2 w') (BitVec.ofNat 3 t') (BitVec.ofNat 5 d') (BitVec.ofNat 1 j') (BitVec.ofNat 5 a') (BitVec.ofNat 1 k') (BitVec.ofNat 5 b'))
  | _ => .error .fixedBits

/-- The fields of `VABS.t.w` (R230). -/
def rowVabs (w : Nat) : Except Reject Instr :=
  match unpack [6, 5, 1, 5, 3, 2, 3, 1] w with
  | [x0, a', j', d', t', w', p', h'] => if x0 = 0 then .ok (.vabs (BitVec.ofNat 1 h') (BitVec.ofNat 3 p') (BitVec.ofNat 2 w') (BitVec.ofNat 3 t') (BitVec.ofNat 5 d') (BitVec.ofNat 1 j') (BitVec.ofNat 5 a')) else .error .fixedBits
  | _ => .error .fixedBits

/-- The fields of `VNEG.t.w` (R230). -/
def rowVneg (w : Nat) : Except Reject Instr :=
  match unpack [6, 5, 1, 5, 3, 2, 3, 1] w with
  | [x0, a', j', d', t', w', p', h'] => if x0 = 0 then .ok (.vneg (BitVec.ofNat 1 h') (BitVec.ofNat 3 p') (BitVec.ofNat 2 w') (BitVec.ofNat 3 t') (BitVec.ofNat 5 d') (BitVec.ofNat 1 j') (BitVec.ofNat 5 a')) else .error .fixedBits
  | _ => .error .fixedBits

/-- The fields of `VCMP.cc.t.w` (R231). -/
def rowVcmp (w : Nat) : Except Reject Instr :=
  match unpack [5, 1, 5, 1, 3, 2, 3, 2, 3, 1] w with
  | [b', k', a', j', m', c', t', w', p', h'] => .ok (.vcmp (BitVec.ofNat 1 h') (BitVec.ofNat 3 p') (BitVec.ofNat 2 w') (BitVec.ofNat 3 t') (BitVec.ofNat 2 c') (BitVec.ofNat 3 m') (BitVec.ofNat 1 j') (BitVec.ofNat 5 a') (BitVec.ofNat 1 k') (BitVec.ofNat 5 b'))
  | _ => .error .fixedBits

/-- The fields of `VSEL.t.w` (R232). -/
def rowVsel (w : Nat) : Except Reject Instr :=
  match unpack [5, 1, 5, 1, 5, 3, 2, 3, 1] w with
  | [b', k', a', j', d', t', w', p', h'] => .ok (.vsel (BitVec.ofNat 1 h') (BitVec.ofNat 3 p') (BitVec.ofNat 2 w') (BitVec.ofNat 3 t') (BitVec.ofNat 5 d') (BitVec.ofNat 1 j') (BitVec.ofNat 5 a') (BitVec.ofNat 1 k') (BitVec.ofNat 5 b'))
  | _ => .error .fixedBits

/-- The fields of `VIADD.t.w` (R233). -/
def rowViadd (w : Nat) : Except Reject Instr :=
  match unpack [5, 1, 5, 1, 5, 3, 2, 3, 1] w with
  | [b', k', a', j', d', t', w', p', h'] => .ok (.viadd (BitVec.ofNat 1 h') (BitVec.ofNat 3 p') (BitVec.ofNat 2 w') (BitVec.ofNat 3 t') (BitVec.ofNat 5 d') (BitVec.ofNat 1 j') (BitVec.ofNat 5 a') (BitVec.ofNat 1 k') (BitVec.ofNat 5 b'))
  | _ => .error .fixedBits

/-- The fields of `VISUB.t.w` (R233). -/
def rowVisub (w : Nat) : Except Reject Instr :=
  match unpack [5, 1, 5, 1, 5, 3, 2, 3, 1] w with
  | [b', k', a', j', d', t', w', p', h'] => .ok (.visub (BitVec.ofNat 1 h') (BitVec.ofNat 3 p') (BitVec.ofNat 2 w') (BitVec.ofNat 3 t') (BitVec.ofNat 5 d') (BitVec.ofNat 1 j') (BitVec.ofNat 5 a') (BitVec.ofNat 1 k') (BitVec.ofNat 5 b'))
  | _ => .error .fixedBits

/-- The fields of `VIMUL.t.w` (R233). -/
def rowVimul (w : Nat) : Except Reject Instr :=
  match unpack [5, 1, 5, 1, 5, 3, 2, 3, 1] w with
  | [b', k', a', j', d', t', w', p', h'] => .ok (.vimul (BitVec.ofNat 1 h') (BitVec.ofNat 3 p') (BitVec.ofNat 2 w') (BitVec.ofNat 3 t') (BitVec.ofNat 5 d') (BitVec.ofNat 1 j') (BitVec.ofNat 5 a') (BitVec.ofNat 1 k') (BitVec.ofNat 5 b'))
  | _ => .error .fixedBits

/-- The fields of `VIMAC.t.w` (R233). -/
def rowVimac (w : Nat) : Except Reject Instr :=
  match unpack [5, 1, 5, 1, 5, 3, 2, 3, 1] w with
  | [b', k', a', j', d', t', w', p', h'] => .ok (.vimac (BitVec.ofNat 1 h') (BitVec.ofNat 3 p') (BitVec.ofNat 2 w') (BitVec.ofNat 3 t') (BitVec.ofNat 5 d') (BitVec.ofNat 1 j') (BitVec.ofNat 5 a') (BitVec.ofNat 1 k') (BitVec.ofNat 5 b'))
  | _ => .error .fixedBits

/-- The fields of `VAND.t.w` (R233). -/
def rowVand (w : Nat) : Except Reject Instr :=
  match unpack [5, 1, 5, 1, 5, 3, 2, 3, 1] w with
  | [b', k', a', j', d', t', w', p', h'] => .ok (.vand (BitVec.ofNat 1 h') (BitVec.ofNat 3 p') (BitVec.ofNat 2 w') (BitVec.ofNat 3 t') (BitVec.ofNat 5 d') (BitVec.ofNat 1 j') (BitVec.ofNat 5 a') (BitVec.ofNat 1 k') (BitVec.ofNat 5 b'))
  | _ => .error .fixedBits

/-- The fields of `VOR.t.w` (R233). -/
def rowVor (w : Nat) : Except Reject Instr :=
  match unpack [5, 1, 5, 1, 5, 3, 2, 3, 1] w with
  | [b', k', a', j', d', t', w', p', h'] => .ok (.vor (BitVec.ofNat 1 h') (BitVec.ofNat 3 p') (BitVec.ofNat 2 w') (BitVec.ofNat 3 t') (BitVec.ofNat 5 d') (BitVec.ofNat 1 j') (BitVec.ofNat 5 a') (BitVec.ofNat 1 k') (BitVec.ofNat 5 b'))
  | _ => .error .fixedBits

/-- The fields of `VXOR.t.w` (R233). -/
def rowVxor (w : Nat) : Except Reject Instr :=
  match unpack [5, 1, 5, 1, 5, 3, 2, 3, 1] w with
  | [b', k', a', j', d', t', w', p', h'] => .ok (.vxor (BitVec.ofNat 1 h') (BitVec.ofNat 3 p') (BitVec.ofNat 2 w') (BitVec.ofNat 3 t') (BitVec.ofNat 5 d') (BitVec.ofNat 1 j') (BitVec.ofNat 5 a') (BitVec.ofNat 1 k') (BitVec.ofNat 5 b'))
  | _ => .error .fixedBits

/-- The fields of `VSHL.t.w` (R233). -/
def rowVshl (w : Nat) : Except Reject Instr :=
  match unpack [5, 1, 5, 1, 5, 3, 2, 3, 1] w with
  | [b', k', a', j', d', t', w', p', h'] => .ok (.vshl (BitVec.ofNat 1 h') (BitVec.ofNat 3 p') (BitVec.ofNat 2 w') (BitVec.ofNat 3 t') (BitVec.ofNat 5 d') (BitVec.ofNat 1 j') (BitVec.ofNat 5 a') (BitVec.ofNat 1 k') (BitVec.ofNat 5 b'))
  | _ => .error .fixedBits

/-- The fields of `VSHR.t.w` (R233). -/
def rowVshr (w : Nat) : Except Reject Instr :=
  match unpack [5, 1, 5, 1, 5, 3, 2, 3, 1] w with
  | [b', k', a', j', d', t', w', p', h'] => .ok (.vshr (BitVec.ofNat 1 h') (BitVec.ofNat 3 p') (BitVec.ofNat 2 w') (BitVec.ofNat 3 t') (BitVec.ofNat 5 d') (BitVec.ofNat 1 j') (BitVec.ofNat 5 a') (BitVec.ofNat 1 k') (BitVec.ofNat 5 b'))
  | _ => .error .fixedBits

/-- The fields of `VSAR.t.w` (R233). -/
def rowVsar (w : Nat) : Except Reject Instr :=
  match unpack [5, 1, 5, 1, 5, 3, 2, 3, 1] w with
  | [b', k', a', j', d', t', w', p', h'] => .ok (.vsar (BitVec.ofNat 1 h') (BitVec.ofNat 3 p') (BitVec.ofNat 2 w') (BitVec.ofNat 3 t') (BitVec.ofNat 5 d') (BitVec.ofNat 1 j') (BitVec.ofNat 5 a') (BitVec.ofNat 1 k') (BitVec.ofNat 5 b'))
  | _ => .error .fixedBits

/-- The fields of `VICMP.cc.t.w` (R231). -/
def rowVicmp (w : Nat) : Except Reject Instr :=
  match unpack [5, 1, 5, 1, 3, 2, 3, 2, 3, 1] w with
  | [b', k', a', j', m', c', t', w', p', h'] => .ok (.vicmp (BitVec.ofNat 1 h') (BitVec.ofNat 3 p') (BitVec.ofNat 2 w') (BitVec.ofNat 3 t') (BitVec.ofNat 2 c') (BitVec.ofNat 3 m') (BitVec.ofNat 1 j') (BitVec.ofNat 5 a') (BitVec.ofNat 1 k') (BitVec.ofNat 5 b'))
  | _ => .error .fixedBits

/-- The fields of `VCVT.dt.st.w` (R234). -/
def rowVcvt (w : Nat) : Except Reject Instr :=
  match unpack [1, 1, 1, 3, 5, 1, 5, 3, 2, 3, 1] w with
  | [x0, y', x', s', a', j', d', t', w', p', h'] => if x0 = 0 then .ok (.vcvt (BitVec.ofNat 1 h') (BitVec.ofNat 3 p') (BitVec.ofNat 2 w') (BitVec.ofNat 3 t') (BitVec.ofNat 5 d') (BitVec.ofNat 1 j') (BitVec.ofNat 5 a') (BitVec.ofNat 3 s') (BitVec.ofNat 1 x') (BitVec.ofNat 1 y')) else .error .fixedBits
  | _ => .error .fixedBits

/-- The fields of `VQNT.t.w` (R236). -/
def rowVqnt (w : Nat) : Except Reject Instr :=
  match unpack [5, 1, 5, 1, 5, 3, 2, 3, 1] w with
  | [b', k', a', j', d', t', w', p', h'] => .ok (.vqnt (BitVec.ofNat 1 h') (BitVec.ofNat 3 p') (BitVec.ofNat 2 w') (BitVec.ofNat 3 t') (BitVec.ofNat 5 d') (BitVec.ofNat 1 j') (BitVec.ofNat 5 a') (BitVec.ofNat 1 k') (BitVec.ofNat 5 b'))
  | _ => .error .fixedBits

/-- The fields of `VDQ.t.w` (R237). -/
def rowVdq (w : Nat) : Except Reject Instr :=
  match unpack [5, 1, 5, 1, 5, 3, 2, 3, 1] w with
  | [b', k', a', j', d', t', w', p', h'] => .ok (.vdq (BitVec.ofNat 1 h') (BitVec.ofNat 3 p') (BitVec.ofNat 2 w') (BitVec.ofNat 3 t') (BitVec.ofNat 5 d') (BitVec.ofNat 1 j') (BitVec.ofNat 5 a') (BitVec.ofNat 1 k') (BitVec.ofNat 5 b'))
  | _ => .error .fixedBits

/-- The fields of `VSCL.w` (R238). -/
def rowVscl (w : Nat) : Except Reject Instr :=
  match unpack [3, 3, 5, 1, 5, 3, 2, 3, 1] w with
  | [q', x0, a', j', d', s', w', p', h'] => if x0 = 0 then .ok (.vscl (BitVec.ofNat 1 h') (BitVec.ofNat 3 p') (BitVec.ofNat 2 w') (BitVec.ofNat 3 s') (BitVec.ofNat 5 d') (BitVec.ofNat 1 j') (BitVec.ofNat 5 a') (BitVec.ofNat 3 q')) else .error .fixedBits
  | _ => .error .fixedBits

/-- The fields of `VAMAX.t.w` (R235). -/
def rowVamax (w : Nat) : Except Reject Instr :=
  match unpack [6, 5, 1, 5, 3, 2, 3, 1] w with
  | [x0, a', j', d', t', w', p', h'] => if x0 = 0 then .ok (.vamax (BitVec.ofNat 1 h') (BitVec.ofNat 3 p') (BitVec.ofNat 2 w') (BitVec.ofNat 3 t') (BitVec.ofNat 5 d') (BitVec.ofNat 1 j') (BitVec.ofNat 5 a')) else .error .fixedBits
  | _ => .error .fixedBits

/-- The fields of `VOSPL.t.w` (R239). -/
def rowVospl (w : Nat) : Except Reject Instr :=
  match unpack [3, 3, 5, 1, 5, 3, 2, 3, 1] w with
  | [q', x0, a', j', d', t', w', p', h'] => if x0 = 0 then .ok (.vospl (BitVec.ofNat 1 h') (BitVec.ofNat 3 p') (BitVec.ofNat 2 w') (BitVec.ofNat 3 t') (BitVec.ofNat 5 d') (BitVec.ofNat 1 j') (BitVec.ofNat 5 a') (BitVec.ofNat 3 q')) else .error .fixedBits
  | _ => .error .fixedBits

/-- The fields of `VADDSUB.t.w` (R241). -/
def rowVaddsub (w : Nat) : Except Reject Instr :=
  match unpack [5, 1, 5, 1, 5, 3, 2, 3, 1] w with
  | [b', k', a', j', d', t', w', p', h'] => .ok (.vaddsub (BitVec.ofNat 1 h') (BitVec.ofNat 3 p') (BitVec.ofNat 2 w') (BitVec.ofNat 3 t') (BitVec.ofNat 5 d') (BitVec.ofNat 1 j') (BitVec.ofNat 5 a') (BitVec.ofNat 1 k') (BitVec.ofNat 5 b'))
  | _ => .error .fixedBits

/-- The fields of `VUNPK3.t.w` (R240). -/
def rowVunpk3 (w : Nat) : Except Reject Instr :=
  match unpack [6, 5, 1, 5, 3, 2, 3, 1] w with
  | [x0, a', j', d', t', w', p', h'] => if x0 = 0 then .ok (.vunpk3 (BitVec.ofNat 1 h') (BitVec.ofNat 3 p') (BitVec.ofNat 2 w') (BitVec.ofNat 3 t') (BitVec.ofNat 5 d') (BitVec.ofNat 1 j') (BitVec.ofNat 5 a')) else .error .fixedBits
  | _ => .error .fixedBits

/-- The fields of `VMOV.w` (R242). -/
def rowVmov (w : Nat) : Except Reject Instr :=
  match unpack [6, 5, 1, 5, 3, 2, 3, 1] w with
  | [x0, a', j', d', x1, w', p', h'] => if x0 = 0 ∧ x1 = 0 then .ok (.vmov (BitVec.ofNat 1 h') (BitVec.ofNat 3 p') (BitVec.ofNat 2 w') (BitVec.ofNat 5 d') (BitVec.ofNat 1 j') (BitVec.ofNat 5 a')) else .error .fixedBits
  | _ => .error .fixedBits

/-- The fields of `VBCST.t.w` (R242). -/
def rowVbcst (w : Nat) : Except Reject Instr :=
  match unpack [6, 5, 1, 5, 3, 2, 3, 1] w with
  | [k', a', j', d', t', w', p', h'] => .ok (.vbcst (BitVec.ofNat 1 h') (BitVec.ofNat 3 p') (BitVec.ofNat 2 w') (BitVec.ofNat 3 t') (BitVec.ofNat 5 d') (BitVec.ofNat 1 j') (BitVec.ofNat 5 a') (BitVec.ofNat 6 k'))
  | _ => .error .fixedBits

/-- The fields of `VEXT.t.w` (R242). -/
def rowVext (w : Nat) : Except Reject Instr :=
  match unpack [6, 5, 1, 5, 3, 2, 3, 1] w with
  | [k', a', j', d', t', w', p', h'] => .ok (.vext (BitVec.ofNat 1 h') (BitVec.ofNat 3 p') (BitVec.ofNat 2 w') (BitVec.ofNat 3 t') (BitVec.ofNat 5 d') (BitVec.ofNat 1 j') (BitVec.ofNat 5 a') (BitVec.ofNat 6 k'))
  | _ => .error .fixedBits

/-- The fields of `VINS.t.w` (R242). -/
def rowVins (w : Nat) : Except Reject Instr :=
  match unpack [6, 5, 1, 5, 3, 2, 3, 1] w with
  | [k', a', j', d', t', w', p', h'] => .ok (.vins (BitVec.ofNat 1 h') (BitVec.ofNat 3 p') (BitVec.ofNat 2 w') (BitVec.ofNat 3 t') (BitVec.ofNat 5 d') (BitVec.ofNat 1 j') (BitVec.ofNat 5 a') (BitVec.ofNat 6 k'))
  | _ => .error .fixedBits

/-- The fields of `VPERM.t.w` (R242). -/
def rowVperm (w : Nat) : Except Reject Instr :=
  match unpack [5, 1, 5, 1, 5, 3, 2, 3, 1] w with
  | [b', k', a', j', d', t', w', p', h'] => .ok (.vperm (BitVec.ofNat 1 h') (BitVec.ofNat 3 p') (BitVec.ofNat 2 w') (BitVec.ofNat 3 t') (BitVec.ofNat 5 d') (BitVec.ofNat 1 j') (BitVec.ofNat 5 a') (BitVec.ofNat 1 k') (BitVec.ofNat 5 b'))
  | _ => .error .fixedBits

/-- The fields of `VSLD.t.w` (R242). -/
def rowVsld (w : Nat) : Except Reject Instr :=
  match unpack [6, 5, 1, 5, 3, 2, 3, 1] w with
  | [k', a', j', d', t', w', p', h'] => .ok (.vsld (BitVec.ofNat 1 h') (BitVec.ofNat 3 p') (BitVec.ofNat 2 w') (BitVec.ofNat 3 t') (BitVec.ofNat 5 d') (BitVec.ofNat 1 j') (BitVec.ofNat 5 a') (BitVec.ofNat 6 k'))
  | _ => .error .fixedBits

/-- The fields of `VZIP.t.w` (R243). -/
def rowVzip (w : Nat) : Except Reject Instr :=
  match unpack [5, 1, 5, 1, 5, 3, 2, 3, 1] w with
  | [b', k', a', j', d', t', w', p', h'] => .ok (.vzip (BitVec.ofNat 1 h') (BitVec.ofNat 3 p') (BitVec.ofNat 2 w') (BitVec.ofNat 3 t') (BitVec.ofNat 5 d') (BitVec.ofNat 1 j') (BitVec.ofNat 5 a') (BitVec.ofNat 1 k') (BitVec.ofNat 5 b'))
  | _ => .error .fixedBits

/-- The fields of `VUZP.t.w` (R243). -/
def rowVuzp (w : Nat) : Except Reject Instr :=
  match unpack [5, 1, 5, 1, 5, 3, 2, 3, 1] w with
  | [b', k', a', j', d', t', w', p', h'] => .ok (.vuzp (BitVec.ofNat 1 h') (BitVec.ofNat 3 p') (BitVec.ofNat 2 w') (BitVec.ofNat 3 t') (BitVec.ofNat 5 d') (BitVec.ofNat 1 j') (BitVec.ofNat 5 a') (BitVec.ofNat 1 k') (BitVec.ofNat 5 b'))
  | _ => .error .fixedBits

/-- The fields of `VRSUM.t.w` (R244). -/
def rowVrsum (w : Nat) : Except Reject Instr :=
  match unpack [6, 5, 1, 5, 3, 2, 3, 1] w with
  | [x0, a', j', d', t', w', p', h'] => if x0 = 0 then .ok (.vrsum (BitVec.ofNat 1 h') (BitVec.ofNat 3 p') (BitVec.ofNat 2 w') (BitVec.ofNat 3 t') (BitVec.ofNat 5 d') (BitVec.ofNat 1 j') (BitVec.ofNat 5 a')) else .error .fixedBits
  | _ => .error .fixedBits

/-- The fields of `VRMAX.t.w` (R244). -/
def rowVrmax (w : Nat) : Except Reject Instr :=
  match unpack [6, 5, 1, 5, 3, 2, 3, 1] w with
  | [x0, a', j', d', t', w', p', h'] => if x0 = 0 then .ok (.vrmax (BitVec.ofNat 1 h') (BitVec.ofNat 3 p') (BitVec.ofNat 2 w') (BitVec.ofNat 3 t') (BitVec.ofNat 5 d') (BitVec.ofNat 1 j') (BitVec.ofNat 5 a')) else .error .fixedBits
  | _ => .error .fixedBits

/-- The fields of `VRND.t.w` (R230). -/
def rowVrnd (w : Nat) : Except Reject Instr :=
  match unpack [6, 5, 1, 5, 3, 2, 3, 1] w with
  | [x0, a', j', d', t', w', p', h'] => if x0 = 0 then .ok (.vrnd (BitVec.ofNat 1 h') (BitVec.ofNat 3 p') (BitVec.ofNat 2 w') (BitVec.ofNat 3 t') (BitVec.ofNat 5 d') (BitVec.ofNat 1 j') (BitVec.ofNat 5 a')) else .error .fixedBits
  | _ => .error .fixedBits

/-- The fields of `VDRP.t.w` (R245). -/
def rowVdrp (w : Nat) : Except Reject Instr :=
  match unpack [5, 1, 5, 1, 5, 3, 2, 3, 1] w with
  | [b', k', a', j', d', t', w', p', h'] => .ok (.vdrp (BitVec.ofNat 1 h') (BitVec.ofNat 3 p') (BitVec.ofNat 2 w') (BitVec.ofNat 3 t') (BitVec.ofNat 5 d') (BitVec.ofNat 1 j') (BitVec.ofNat 5 a') (BitVec.ofNat 1 k') (BitVec.ofNat 5 b'))
  | _ => .error .fixedBits

/-- The fields of `MAND` (R246). -/
def rowMand (w : Nat) : Except Reject Instr :=
  match unpack [3, 3, 3, 3, 3, 7, 3, 1] w with
  | [b', x0, a', x1, d', x2, p', h'] => if x0 = 0 ∧ x1 = 0 ∧ x2 = 0 then .ok (.mand (BitVec.ofNat 1 h') (BitVec.ofNat 3 p') (BitVec.ofNat 3 d') (BitVec.ofNat 3 a') (BitVec.ofNat 3 b')) else .error .fixedBits
  | _ => .error .fixedBits

/-- The fields of `MOR` (R246). -/
def rowMor (w : Nat) : Except Reject Instr :=
  match unpack [3, 3, 3, 3, 3, 7, 3, 1] w with
  | [b', x0, a', x1, d', x2, p', h'] => if x0 = 0 ∧ x1 = 0 ∧ x2 = 0 then .ok (.mor (BitVec.ofNat 1 h') (BitVec.ofNat 3 p') (BitVec.ofNat 3 d') (BitVec.ofNat 3 a') (BitVec.ofNat 3 b')) else .error .fixedBits
  | _ => .error .fixedBits

/-- The fields of `MNOT` (R246). -/
def rowMnot (w : Nat) : Except Reject Instr :=
  match unpack [6, 3, 3, 3, 7, 3, 1] w with
  | [x0, a', x1, d', x2, p', h'] => if x0 = 0 ∧ x1 = 0 ∧ x2 = 0 then .ok (.mnot (BitVec.ofNat 1 h') (BitVec.ofNat 3 p') (BitVec.ofNat 3 d') (BitVec.ofNat 3 a')) else .error .fixedBits
  | _ => .error .fixedBits

/-- The fields of `VIOTA.t.w` (R246). -/
def rowViota (w : Nat) : Except Reject Instr :=
  match unpack [3, 9, 5, 3, 2, 3, 1] w with
  | [m', x0, d', t', w', p', h'] => if x0 = 0 then .ok (.viota (BitVec.ofNat 1 h') (BitVec.ofNat 3 p') (BitVec.ofNat 2 w') (BitVec.ofNat 3 t') (BitVec.ofNat 5 d') (BitVec.ofNat 3 m')) else .error .fixedBits
  | _ => .error .fixedBits

/-- The fields of `VMSK` (R246). -/
def rowVmsk (w : Nat) : Except Reject Instr :=
  match unpack [3, 9, 3, 7, 3, 1] w with
  | [q', x0, d', x1, p', h'] => if x0 = 0 ∧ x1 = 0 then .ok (.vmsk (BitVec.ofNat 1 h') (BitVec.ofNat 3 p') (BitVec.ofNat 3 d') (BitVec.ofNat 3 q')) else .error .fixedBits
  | _ => .error .fixedBits

/-- The fields of `NOP.x` (R68). -/
def rowNopX (w : Nat) : Except Reject Instr :=
  match unpack [22, 3, 1] w with
  | [x0, p', h'] => if x0 = 0 then .ok (.nopX (BitVec.ofNat 1 h') (BitVec.ofNat 3 p')) else .error .fixedBits
  | _ => .error .fixedBits

/-- The fields of `XEXP2.t.w` (R248). -/
def rowXexp2 (w : Nat) : Except Reject Instr :=
  match unpack [6, 5, 1, 5, 3, 2, 3, 1] w with
  | [x0, a', j', d', t', w', p', h'] => if x0 = 0 then .ok (.xexp2 (BitVec.ofNat 1 h') (BitVec.ofNat 3 p') (BitVec.ofNat 2 w') (BitVec.ofNat 3 t') (BitVec.ofNat 5 d') (BitVec.ofNat 1 j') (BitVec.ofNat 5 a')) else .error .fixedBits
  | _ => .error .fixedBits

/-- The fields of `XLOG2.t.w` (R248). -/
def rowXlog2 (w : Nat) : Except Reject Instr :=
  match unpack [6, 5, 1, 5, 3, 2, 3, 1] w with
  | [x0, a', j', d', t', w', p', h'] => if x0 = 0 then .ok (.xlog2 (BitVec.ofNat 1 h') (BitVec.ofNat 3 p') (BitVec.ofNat 2 w') (BitVec.ofNat 3 t') (BitVec.ofNat 5 d') (BitVec.ofNat 1 j') (BitVec.ofNat 5 a')) else .error .fixedBits
  | _ => .error .fixedBits

/-- The fields of `XRCP.t.w` (R248). -/
def rowXrcp (w : Nat) : Except Reject Instr :=
  match unpack [6, 5, 1, 5, 3, 2, 3, 1] w with
  | [x0, a', j', d', t', w', p', h'] => if x0 = 0 then .ok (.xrcp (BitVec.ofNat 1 h') (BitVec.ofNat 3 p') (BitVec.ofNat 2 w') (BitVec.ofNat 3 t') (BitVec.ofNat 5 d') (BitVec.ofNat 1 j') (BitVec.ofNat 5 a')) else .error .fixedBits
  | _ => .error .fixedBits

/-- The fields of `XRSQ.t.w` (R248). -/
def rowXrsq (w : Nat) : Except Reject Instr :=
  match unpack [6, 5, 1, 5, 3, 2, 3, 1] w with
  | [x0, a', j', d', t', w', p', h'] => if x0 = 0 then .ok (.xrsq (BitVec.ofNat 1 h') (BitVec.ofNat 3 p') (BitVec.ofNat 2 w') (BitVec.ofNat 3 t') (BitVec.ofNat 5 d') (BitVec.ofNat 1 j') (BitVec.ofNat 5 a')) else .error .fixedBits
  | _ => .error .fixedBits

/-- The fields of `XSQRT.t.w` (R248). -/
def rowXsqrt (w : Nat) : Except Reject Instr :=
  match unpack [6, 5, 1, 5, 3, 2, 3, 1] w with
  | [x0, a', j', d', t', w', p', h'] => if x0 = 0 then .ok (.xsqrt (BitVec.ofNat 1 h') (BitVec.ofNat 3 p') (BitVec.ofNat 2 w') (BitVec.ofNat 3 t') (BitVec.ofNat 5 d') (BitVec.ofNat 1 j') (BitVec.ofNat 5 a')) else .error .fixedBits
  | _ => .error .fixedBits

/-- The fields of `XTAB.t.w` (R250). -/
def rowXtab (w : Nat) : Except Reject Instr :=
  match unpack [2, 4, 5, 1, 5, 3, 2, 3, 1] w with
  | [s', x0, a', j', d', t', w', p', h'] => if x0 = 0 then .ok (.xtab (BitVec.ofNat 1 h') (BitVec.ofNat 3 p') (BitVec.ofNat 2 w') (BitVec.ofNat 3 t') (BitVec.ofNat 5 d') (BitVec.ofNat 1 j') (BitVec.ofNat 5 a') (BitVec.ofNat 2 s')) else .error .fixedBits
  | _ => .error .fixedBits

/-- The fields of `XTLD.w` (R249). -/
def rowXtld (w : Nat) : Except Reject Instr :=
  match unpack [6, 5, 1, 2, 6, 2, 3, 1] w with
  | [x0, a', j', s', x1, w', p', h'] => if x0 = 0 ∧ x1 = 0 then .ok (.xtld (BitVec.ofNat 1 h') (BitVec.ofNat 3 p') (BitVec.ofNat 2 w') (BitVec.ofNat 2 s') (BitVec.ofNat 1 j') (BitVec.ofNat 5 a')) else .error .fixedBits
  | _ => .error .fixedBits

/-- The fields of `XCVT.dt.st.w` (R234). -/
def rowXcvt (w : Nat) : Except Reject Instr :=
  match unpack [1, 1, 1, 3, 5, 1, 5, 3, 2, 3, 1] w with
  | [x0, y', x', s', a', j', d', t', w', p', h'] => if x0 = 0 then .ok (.xcvt (BitVec.ofNat 1 h') (BitVec.ofNat 3 p') (BitVec.ofNat 2 w') (BitVec.ofNat 3 t') (BitVec.ofNat 5 d') (BitVec.ofNat 1 j') (BitVec.ofNat 5 a') (BitVec.ofNat 3 s') (BitVec.ofNat 1 x') (BitVec.ofNat 1 y')) else .error .fixedBits
  | _ => .error .fixedBits

/-- The fields of `NOP.k` (R68). -/
def rowNopK (w : Nat) : Except Reject Instr :=
  match unpack [22, 3, 1] w with
  | [x0, p', h'] => if x0 = 0 then .ok (.nopK (BitVec.ofNat 1 h') (BitVec.ofNat 3 p')) else .error .fixedBits
  | _ => .error .fixedBits

/-- The fields of `KLD` (R203). -/
def rowKld (w : Nat) : Except Reject Instr :=
  match unpack [7, 6, 5, 1, 3, 3, 1] w with
  | [x0, n', b', s', q', p', h'] => if x0 = 0 then .ok (.kld (BitVec.ofNat 1 h') (BitVec.ofNat 3 p') (BitVec.ofNat 3 q') (BitVec.ofNat 1 s') (BitVec.ofNat 5 b') (BitVec.ofNat 6 n')) else .error .fixedBits
  | _ => .error .fixedBits

/-- The fields of `KTAB` (R203). -/
def rowKtab (w : Nat) : Except Reject Instr :=
  match unpack [13, 5, 1, 3, 3, 1] w with
  | [x0, b', s', q', p', h'] => if x0 = 8064 then .ok (.ktab (BitVec.ofNat 1 h') (BitVec.ofNat 3 p') (BitVec.ofNat 3 q') (BitVec.ofNat 1 s') (BitVec.ofNat 5 b')) else .error .fixedBits
  | _ => .error .fixedBits

/-- The fields of `KSET` (R203). -/
def rowKset (w : Nat) : Except Reject Instr :=
  match unpack [7, 6, 5, 1, 3, 3, 1] w with
  | [x0, n', b', x1, q', p', h'] => if x0 = 0 ∧ x1 = 0 then .ok (.kset (BitVec.ofNat 1 h') (BitVec.ofNat 3 p') (BitVec.ofNat 3 q') (BitVec.ofNat 5 b') (BitVec.ofNat 6 n')) else .error .fixedBits
  | _ => .error .fixedBits

/-- The fields of `KOUT` (R203). -/
def rowKout (w : Nat) : Except Reject Instr :=
  match unpack [7, 6, 5, 1, 3, 3, 1] w with
  | [x0, n', b', s', q', p', h'] => if x0 = 0 then .ok (.kout (BitVec.ofNat 1 h') (BitVec.ofNat 3 p') (BitVec.ofNat 3 q') (BitVec.ofNat 1 s') (BitVec.ofNat 5 b') (BitVec.ofNat 6 n')) else .error .fixedBits
  | _ => .error .fixedBits

/-- The fields of `KSKP` (R203). -/
def rowKskp (w : Nat) : Except Reject Instr :=
  match unpack [7, 6, 5, 1, 3, 3, 1] w with
  | [x0, n', b', x1, q', p', h'] => if x0 = 0 ∧ x1 = 0 then .ok (.kskp (BitVec.ofNat 1 h') (BitVec.ofNat 3 p') (BitVec.ofNat 3 q') (BitVec.ofNat 5 b') (BitVec.ofNat 6 n')) else .error .fixedBits
  | _ => .error .fixedBits

/-- The fields of `KRNG` (R203). -/
def rowKrng (w : Nat) : Except Reject Instr :=
  match unpack [13, 5, 4, 3, 1] w with
  | [x0, b', x1, p', h'] => if x0 = 0 ∧ x1 = 0 then .ok (.krng (BitVec.ofNat 1 h') (BitVec.ofNat 3 p') (BitVec.ofNat 5 b')) else .error .fixedBits
  | _ => .error .fixedBits

/-- The opcode map of slot S (R125): the word read by its OP (R120), unassigned codes refused (R330). -/
def decodeS (w : Nat) : Except Reject Instr :=
  match w / 67108864 % 64 with
  | 0 => rowNopS w
  | 1 =>
    match w % 128 with
    | 0 => rowAdd w
    | 1 => rowSub w
    | 2 => rowMul w
    | 3 => rowMulh w
    | 4 => rowMulhu w
    | 5 => rowDiv w
    | 6 => rowDivu w
    | 7 => rowRem w
    | 8 => rowAnd w
    | 9 => rowOr w
    | 10 => rowXor w
    | 11 => rowAndn w
    | 12 => rowShl w
    | 13 => rowShr w
    | 14 => rowSar w
    | 15 => rowMin w
    | 16 => rowMax w
    | 17 => rowMinu w
    | 18 => rowMaxu w
    | 19 => rowClz w
    | 20 => rowPopc w
    | 21 => rowSel w
    | _ => .error .unassignedFn
  | 2 => rowAddi w
  | 3 => rowAndi w
  | 4 => rowOri w
  | 5 => rowXori w
  | 6 => rowShli w
  | 7 => rowShri w
  | 8 => rowSari w
  | 9 => rowLim w
  | 10 => rowLims w
  | 11 => rowCmp w
  | 12 => rowCmpi w
  | 13 =>
    match w % 128 with
    | 0 => rowPand w
    | 1 => rowPor w
    | 2 => rowPxor w
    | 3 => rowPandn w
    | 4 => rowPnot w
    | _ => .error .unassignedFn
  | 14 => rowBfx w
  | 15 => rowBfi w
  | 16 => rowPadr w
  | 17 => rowPcrel w
  | 18 => rowBr w
  | 19 => rowCall w
  | 20 => rowJmpr w
  | 21 => rowLoop w
  | 22 => rowLexit w
  | 23 => rowWsel w
  | 24 => rowSig w
  | 25 => rowSyncd w
  | 26 => rowYield w
  | 27 => rowRetire w
  | 28 => rowFork w
  | 29 => rowCsrr w
  | 30 => rowCsrw w
  | 31 => rowCsrs w
  | 32 => rowCsrc w
  | 33 => rowTrap w
  | 34 => rowRte w
  | 35 => rowBrk w
  | 36 => if w / 64 % 2 = 1 then rowQcfgKeep w else rowQcfg w
  | 37 => rowQrel w
  | 38 => rowQstat w
  | 39 => rowAset w
  | 40 => rowAdim w
  | 41 => rowAget w
  | 42 => rowMbxr w
  | 43 => rowMbxw w
  | 44 => rowPcrt w
  | 45 => rowPdel w
  | 46 => rowPprt w
  | 47 => rowChbind w
  | 48 => rowChrd w
  | 49 => rowChwr w
  | _ => .error .unassignedOp

/-- The opcode map of slot L (R129): the word read by its OP (R120), unassigned codes refused (R330). -/
def decodeL (w : Nat) : Except Reject Instr :=
  match w / 67108864 % 64 with
  | 0 => rowNopL w
  | 1 => rowLds w
  | 2 => rowLdg w
  | 3 => rowLdv w
  | 4 => rowLdvt w
  | 5 => rowLgv w
  | 6 => rowPld w
  | 7 => rowTld w
  | 8 => rowLdx w
  | _ => .error .unassignedOp

/-- The opcode map of slot T (R129): the word read by its OP (R120), unassigned codes refused (R330). -/
def decodeT (w : Nat) : Except Reject Instr :=
  match w / 67108864 % 64 with
  | 0 => rowNopT w
  | 1 => rowSts w
  | 2 => rowStg w
  | 3 => rowStv w
  | 4 => rowSgv w
  | 5 => rowPst w
  | 6 => rowTst w
  | 7 => rowStx w
  | 8 => rowAtom w
  | 9 => rowRedv w
  | 10 => rowSigst w
  | 11 => rowFence w
  | 12 => rowFencex w
  | 13 => rowDrain w
  | 14 => rowCpy w
  | 15 => rowColl w
  | 16 => rowGath w
  | 17 => rowTake w
  | 18 => rowArrw w
  | _ => .error .unassignedOp

/-- The opcode map of slot M (R130): the word read by its OP (R120), unassigned codes refused (R330). -/
def decodeM (w : Nat) : Except Reject Instr :=
  match w / 67108864 % 64 with
  | 0 => rowNopM w
  | 1 => rowMlw w
  | 2 => rowMswp w
  | 3 => rowMma w
  | 4 => rowMmac w
  | 5 => rowMchn w
  | 6 => rowMdrn w
  | 7 => rowMsts w
  | 8 => rowMzer w
  | _ => .error .unassignedOp

/-- The opcode map of slots A and B (R131): the word read by its OP (R120), unassigned codes refused (R330). -/
def decodeV (w : Nat) : Except Reject Instr :=
  match w / 67108864 % 64 with
  | 0 => rowNopAb w
  | 1 => rowVadd w
  | 2 => rowVsub w
  | 3 => rowVmul w
  | 4 => rowVfma w
  | 5 => rowVfms w
  | 6 => rowVmin w
  | 7 => rowVmax w
  | 8 => rowVabs w
  | 9 => rowVneg w
  | 10 => rowVcmp w
  | 11 => rowVsel w
  | 12 => rowViadd w
  | 13 => rowVisub w
  | 14 => rowVimul w
  | 15 => rowVimac w
  | 16 => rowVand w
  | 17 => rowVor w
  | 18 => rowVxor w
  | 19 => rowVshl w
  | 20 => rowVshr w
  | 21 => rowVsar w
  | 22 => rowVicmp w
  | 23 => rowVcvt w
  | 24 => rowVqnt w
  | 25 => rowVdq w
  | 26 => rowVscl w
  | 27 => rowVamax w
  | 28 => rowVospl w
  | 29 => rowVaddsub w
  | 30 => rowVunpk3 w
  | 31 => rowVmov w
  | 32 => rowVbcst w
  | 33 => rowVext w
  | 34 => rowVins w
  | 35 => rowVperm w
  | 36 => rowVsld w
  | 37 => rowVzip w
  | 38 => rowVuzp w
  | 39 => rowVrsum w
  | 40 => rowVrmax w
  | 41 => rowVrnd w
  | 42 => rowVdrp w
  | 43 => rowMand w
  | 44 => rowMor w
  | 45 => rowMnot w
  | 46 => rowViota w
  | 47 => rowVmsk w
  | _ => .error .unassignedOp

/-- The opcode map of slot X (R131): the word read by its OP (R120), unassigned codes refused (R330). -/
def decodeX (w : Nat) : Except Reject Instr :=
  match w / 67108864 % 64 with
  | 0 => rowNopX w
  | 1 => rowXexp2 w
  | 2 => rowXlog2 w
  | 3 => rowXrcp w
  | 4 => rowXrsq w
  | 5 => rowXsqrt w
  | 6 => rowXtab w
  | 7 => rowXtld w
  | 8 => rowXcvt w
  | _ => .error .unassignedOp

/-- The opcode map of slot K (R132): the word read by its OP (R120), unassigned codes refused (R330). -/
def decodeK (w : Nat) : Except Reject Instr :=
  match w / 67108864 % 64 with
  | 0 => rowNopK w
  | 1 => rowKld w
  | 2 => rowKtab w
  | 3 => rowKset w
  | 4 => rowKout w
  | 5 => rowKskp w
  | 6 => rowKrng w
  | _ => .error .unassignedOp

/-- The empty bundle's header (R66, R67): PM, FIL and WT zero, bits 31:30 zero. -/
def decodeHdr (w : Nat) : Except Reject Instr :=
  match unpack [8, 1, 1, 2, 3, 3, 3, 3, 3, 3, 2] w with
  | [pm, stp, syn, x1, p0, p1, p2, p3, p4, p5, x2] =>
    if pm = 0 ∧ x1 = 0 ∧ x2 = 0 then
      .ok (.idle (BitVec.ofNat 3 p5) (BitVec.ofNat 3 p4) (BitVec.ofNat 3 p3) (BitVec.ofNat 3 p2) (BitVec.ofNat 3 p1)
        (BitVec.ofNat 3 p0) (BitVec.ofNat 1 syn) (BitVec.ofNat 1 stp))
    else .error .fixedBits
  | _ => .error .fixedBits

/-- The word read under a slot's map, its fields not yet checked. -/
def decodeRaw (sm : SlotMap) (w : Nat) : Except Reject Instr :=
  match sm with
  | .s => decodeS w | .l => decodeL w | .t => decodeT w | .m => decodeM w
  | .v => decodeV w | .x => decodeX w | .k => decodeK w | .hdr => decodeHdr w

/-- The word of a slot: the map's row, then the unassigned values of R330 and R331. -/
def decodeWord (sm : SlotMap) (w : Nat) : Except Reject Instr :=
  match decodeRaw sm (w % 2 ^ 32) with
  | .error e => .error e
  | .ok i => if i.wf then .ok i else .error .unassignedField

/-- The first slot map, in the order of `ms`, under which a word decodes. -/
def decodeFirst (ms : List SlotMap) (w : Nat) : Option (SlotMap × Instr) :=
  match ms with
  | [] => none
  | sm :: r => match decodeWord sm w with
    | .ok i => some (sm, i)
    | .error _ => decodeFirst r w

/-- The order in which `decodeTableWord` tries the slots: the maps that assign the fewest words first (log 5). -/
def slotOrder : List SlotMap := [.m, .k, .x, .s, .l, .t, .v, .hdr]

/-- The instruction of one 32-bit row of the opcode table. -/
def decodeTableWord (nbits w : Nat) : Option Instr :=
  if nbits = 32 then (decodeFirst slotOrder w).map (·.2) else none

/-- The map under which an instruction is encoded; events and firmware commands have no word. -/
def Instr.slotMap : Instr → Option SlotMap
  | .nopS _ _ => some .s
  | .add _ _ _ _ _ => some .s
  | .sub _ _ _ _ _ => some .s
  | .mul _ _ _ _ _ => some .s
  | .mulh _ _ _ _ _ => some .s
  | .mulhu _ _ _ _ _ => some .s
  | .div _ _ _ _ _ => some .s
  | .divu _ _ _ _ _ => some .s
  | .rem _ _ _ _ _ => some .s
  | .and _ _ _ _ _ => some .s
  | .or _ _ _ _ _ => some .s
  | .xor _ _ _ _ _ => some .s
  | .andn _ _ _ _ _ => some .s
  | .shl _ _ _ _ _ => some .s
  | .shr _ _ _ _ _ => some .s
  | .sar _ _ _ _ _ => some .s
  | .min _ _ _ _ _ => some .s
  | .max _ _ _ _ _ => some .s
  | .minu _ _ _ _ _ => some .s
  | .maxu _ _ _ _ _ => some .s
  | .clz _ _ _ _ => some .s
  | .popc _ _ _ _ => some .s
  | .sel _ _ _ _ _ => some .s
  | .addi _ _ _ _ _ => some .s
  | .andi _ _ _ _ _ => some .s
  | .ori _ _ _ _ _ => some .s
  | .xori _ _ _ _ _ => some .s
  | .shli _ _ _ _ _ => some .s
  | .shri _ _ _ _ _ => some .s
  | .sari _ _ _ _ _ => some .s
  | .lim _ _ _ _ => some .s
  | .lims _ _ _ _ => some .s
  | .cmp _ _ _ _ _ _ => some .s
  | .cmpi _ _ _ _ _ _ => some .s
  | .pand _ _ _ _ _ => some .s
  | .por _ _ _ _ _ => some .s
  | .pxor _ _ _ _ _ => some .s
  | .pandn _ _ _ _ _ => some .s
  | .pnot _ _ _ _ => some .s
  | .bfx _ _ _ _ _ _ => some .s
  | .bfi _ _ _ _ _ _ => some .s
  | .padr _ _ _ _ _ => some .s
  | .pcrel _ _ _ _ => some .s
  | .br _ _ _ => some .s
  | .call _ _ _ => some .s
  | .jmpr _ _ _ => some .s
  | .loop _ _ _ _ _ => some .s
  | .lexit _ _ _ => some .s
  | .wsel _ _ _ _ _ _ _ => some .s
  | .sig _ _ _ _ => some .s
  | .syncd _ _ _ => some .s
  | .yield _ _ => some .s
  | .retire _ _ => some .s
  | .fork _ _ _ _ _ => some .s
  | .csrr _ _ _ _ => some .s
  | .csrw _ _ _ _ => some .s
  | .csrs _ _ _ _ => some .s
  | .csrc _ _ _ _ => some .s
  | .trap _ _ _ => some .s
  | .rte _ _ => some .s
  | .brk _ _ _ => some .s
  | .qcfg _ _ _ _ _ => some .s
  | .qcfgKeep _ _ _ _ _ => some .s
  | .qrel _ _ _ => some .s
  | .qstat _ _ _ _ => some .s
  | .aset _ _ _ _ => some .s
  | .adim _ _ _ _ _ _ _ => some .s
  | .aget _ _ _ _ _ => some .s
  | .mbxr _ _ _ _ => some .s
  | .mbxw _ _ _ _ => some .s
  | .pcrt _ _ _ _ _ _ => some .s
  | .pdel _ _ _ _ => some .s
  | .pprt _ _ _ _ _ _ => some .s
  | .chbind _ _ _ _ => some .s
  | .chrd _ _ _ _ => some .s
  | .chwr _ _ _ _ => some .s
  | .idle _ _ _ _ _ _ _ _ => some .hdr
  | .nopL _ _ => some .l
  | .lds _ _ _ _ _ _ _ _ => some .l
  | .ldg _ _ _ _ _ _ _ _ => some .l
  | .ldv _ _ _ _ _ _ => some .l
  | .ldvt _ _ _ _ _ _ => some .l
  | .lgv _ _ _ _ _ _ _ => some .l
  | .pld _ _ _ _ _ _ _ => some .l
  | .tld _ _ _ _ _ _ _ _ => some .l
  | .ldx _ _ _ _ _ _ _ => some .l
  | .nopT _ _ => some .t
  | .sts _ _ _ _ _ _ _ _ => some .t
  | .stg _ _ _ _ _ _ _ _ => some .t
  | .stv _ _ _ _ _ _ => some .t
  | .sgv _ _ _ _ _ _ _ _ => some .t
  | .pst _ _ _ _ _ _ => some .t
  | .tst _ _ _ _ _ _ _ _ => some .t
  | .stx _ _ _ _ _ _ _ => some .t
  | .atom _ _ _ _ _ _ _ => some .t
  | .redv _ _ _ _ _ _ _ => some .t
  | .sigst _ _ _ _ _ _ _ => some .t
  | .fence _ _ _ => some .t
  | .fencex _ _ _ _ _ => some .t
  | .drain _ _ _ => some .t
  | .cpy _ _ _ _ _ => some .t
  | .coll _ _ _ _ _ _ _ => some .t
  | .gath _ _ _ _ _ => some .t
  | .take _ _ _ _ => some .t
  | .arrw _ _ _ _ _ => some .t
  | .nopM _ _ => some .m
  | .mlw _ _ _ _ => some .m
  | .mswp _ _ => some .m
  | .mma _ _ _ _ => some .m
  | .mmac _ _ _ _ _ => some .m
  | .mchn _ _ _ => some .m
  | .mdrn _ _ => some .m
  | .msts _ _ _ => some .m
  | .mzer _ _ => some .m
  | .nopAb _ _ => some .v
  | .vadd _ _ _ _ _ _ _ _ _ => some .v
  | .vsub _ _ _ _ _ _ _ _ _ => some .v
  | .vmul _ _ _ _ _ _ _ _ _ => some .v
  | .vfma _ _ _ _ _ _ _ _ _ => some .v
  | .vfms _ _ _ _ _ _ _ _ _ => some .v
  | .vmin _ _ _ _ _ _ _ _ _ => some .v
  | .vmax _ _ _ _ _ _ _ _ _ => some .v
  | .vabs _ _ _ _ _ _ _ => some .v
  | .vneg _ _ _ _ _ _ _ => some .v
  | .vcmp _ _ _ _ _ _ _ _ _ _ => some .v
  | .vsel _ _ _ _ _ _ _ _ _ => some .v
  | .viadd _ _ _ _ _ _ _ _ _ => some .v
  | .visub _ _ _ _ _ _ _ _ _ => some .v
  | .vimul _ _ _ _ _ _ _ _ _ => some .v
  | .vimac _ _ _ _ _ _ _ _ _ => some .v
  | .vand _ _ _ _ _ _ _ _ _ => some .v
  | .vor _ _ _ _ _ _ _ _ _ => some .v
  | .vxor _ _ _ _ _ _ _ _ _ => some .v
  | .vshl _ _ _ _ _ _ _ _ _ => some .v
  | .vshr _ _ _ _ _ _ _ _ _ => some .v
  | .vsar _ _ _ _ _ _ _ _ _ => some .v
  | .vicmp _ _ _ _ _ _ _ _ _ _ => some .v
  | .vcvt _ _ _ _ _ _ _ _ _ _ => some .v
  | .vqnt _ _ _ _ _ _ _ _ _ => some .v
  | .vdq _ _ _ _ _ _ _ _ _ => some .v
  | .vscl _ _ _ _ _ _ _ _ => some .v
  | .vamax _ _ _ _ _ _ _ => some .v
  | .vospl _ _ _ _ _ _ _ _ => some .v
  | .vaddsub _ _ _ _ _ _ _ _ _ => some .v
  | .vunpk3 _ _ _ _ _ _ _ => some .v
  | .vmov _ _ _ _ _ _ => some .v
  | .vbcst _ _ _ _ _ _ _ _ => some .v
  | .vext _ _ _ _ _ _ _ _ => some .v
  | .vins _ _ _ _ _ _ _ _ => some .v
  | .vperm _ _ _ _ _ _ _ _ _ => some .v
  | .vsld _ _ _ _ _ _ _ _ => some .v
  | .vzip _ _ _ _ _ _ _ _ _ => some .v
  | .vuzp _ _ _ _ _ _ _ _ _ => some .v
  | .vrsum _ _ _ _ _ _ _ => some .v
  | .vrmax _ _ _ _ _ _ _ => some .v
  | .vrnd _ _ _ _ _ _ _ => some .v
  | .vdrp _ _ _ _ _ _ _ _ _ => some .v
  | .mand _ _ _ _ _ => some .v
  | .mor _ _ _ _ _ => some .v
  | .mnot _ _ _ _ => some .v
  | .viota _ _ _ _ _ _ => some .v
  | .vmsk _ _ _ _ => some .v
  | .nopX _ _ => some .x
  | .xexp2 _ _ _ _ _ _ _ => some .x
  | .xlog2 _ _ _ _ _ _ _ => some .x
  | .xrcp _ _ _ _ _ _ _ => some .x
  | .xrsq _ _ _ _ _ _ _ => some .x
  | .xsqrt _ _ _ _ _ _ _ => some .x
  | .xtab _ _ _ _ _ _ _ _ => some .x
  | .xtld _ _ _ _ _ _ => some .x
  | .xcvt _ _ _ _ _ _ _ _ _ _ => some .x
  | .nopK _ _ => some .k
  | .kld _ _ _ _ _ _ => some .k
  | .ktab _ _ _ _ _ => some .k
  | .kset _ _ _ _ _ => some .k
  | .kout _ _ _ _ _ _ => some .k
  | .kskp _ _ _ _ _ => some .k
  | .krng _ _ _ => some .k
  | .bundleDispatch _ => none
  | .bundleRetire _ _ => none
  | .contextSwitch _ => none
  | .waitCounterRaise _ => none
  | .freewheelWake _ => none
  | .waitBundlePresent _ => none
  | .landingPush _ _ => none
  | .landingLateArrival _ _ => none
  | .freezeTimeout _ => none
  | .globalLoadReturn _ _ => none
  | .scalePush _ _ => none
  | .translationComplete _ _ => none
  | .pagingComplete _ => none
  | .planeAgentAnswer _ _ => none
  | .faultTaken _ _ => none
  | .asyncTrapTaken _ _ => none
  | .queueWaitLimit _ _ _ => none
  | .mlwStarved _ => none
  | .mlwLoadStart _ => none
  | .mlwComplete _ => none
  | .matrixRowPush _ => none
  | .tandemRowArrival _ _ => none
  | .plyUpdate _ _ _ => none
  | .plyFailure _ _ => none
  | .weightParityError _ _ => none
  | .uncorrectableError _ => none
  | .domainArrival _ _ => none
  | .mbrChange _ _ _ => none
  | .domainBreakNotice _ _ => none
  | .channelBreakNotice _ _ => none
  | .brokenWait _ _ _ => none
  | .probeSend _ _ => none
  | .probeReceive _ _ => none
  | .saveComplete _ _ => none
  | .sigstNotify _ _ => none
  | .collHead _ => none
  | .collComplete _ => none
  | .copyCommandStart _ _ _ => none
  | .engineCommandFail _ _ => none
  | .arrivalUpdate _ _ _ => none
  | .takeReturn _ => none
  | .networkQuiet _ => none
  | .networkDrainTimeout _ => none
  | .hostStationLost _ => none
  | .readRequest _ _ => none
  | .readResponse _ => none
  | .write _ _ => none
  | .byteMaskedWrite _ _ => none
  | .atomicRequest _ _ => none
  | .writeResponse _ => none
  | .signal _ => none
  | .channelWord _ _ _ => none
  | .channelAcknowledgement _ => none
  | .copyOrGatherData _ => none
  | .collectiveChunk _ => none
  | .broadcastData _ _ _ => none
  | .broadcastReturn _ _ => none
  | .takeToken _ => none
  | .collectiveStatus _ => none
  | .collectiveDrop _ => none
  | .returnedCell _ _ => none
  | .directionTimeout _ _ => none
  | .cellCrcFail _ _ => none
  | .segmentTrainedUp _ => none
  | .requestReissue _ => none
  | .destinationUnreachable _ => none
  | .escapeCellRemoved _ _ => none
  | .backInvalidate _ _ => none
  | .cxlRequestFailed _ _ => none
  | .cxlLinkLoss _ _ => none
  | .counterHalving _ => none
  | .swap _ _ _ => none
  | .swapComplete _ _ _ => none
  | .ident _ => none
  | .attest _ _ _ => none
  | .loadimg _ _ _ _ _ _ => none
  | .psetdesc _ _ _ _ _ => none
  | .ptroot _ _ _ => none
  | .handle _ _ _ _ _ => none
  | .launch _ _ _ _ _ => none
  | .kill _ _ => none
  | .preempt _ _ _ _ => none
  | .resume _ _ _ _ => none
  | .mbxwrite _ _ _ => none
  | .flagset _ _ _ => none
  | .cnconfig _ _ _ _ _ _ => none
  | .cnsave _ _ _ _ => none
  | .cnrestore _ _ _ _ => none
  | .collcfg _ _ _ _ => none
  | .arbset _ _ _ => none
  | .ctrsel _ _ _ _ _ => none
  | .ctrread _ _ _ _ => none
  | .liferead _ _ _ _ _ => none
  | .plystat _ _ => none
  | .powercap _ _ _ _ => none
  | .reset _ => none
  | .powerOn => none
  | .ring0Retrain _ => none
  | .lifetimeSample _ _ => none
  | .snapshotCommit => none
  | .powerLoss => none
  | .pipelineResult _ _ => none
  | .rqRefill _ _ => none
  | .spillSpaceAllocated _ _ _ => none
  | .correctedError _ _ => none
  | .droopEvent _ _ => none
  | .portRetrained _ _ => none

/-- The word of an instruction, from the format tables of R66, R123 to R132, R212, R228 and R247. -/
def encode : Instr → Option Nat
  | .nopS h p => some (pack [(22, 0), (3, p.toNat), (1, h.toNat), (6, 0)])
  | .add h p d a b => some (pack [(7, 0), (5, b.toNat), (5, a.toNat), (5, d.toNat), (3, p.toNat), (1, h.toNat), (6, 1)])
  | .sub h p d a b => some (pack [(7, 1), (5, b.toNat), (5, a.toNat), (5, d.toNat), (3, p.toNat), (1, h.toNat), (6, 1)])
  | .mul h p d a b => some (pack [(7, 2), (5, b.toNat), (5, a.toNat), (5, d.toNat), (3, p.toNat), (1, h.toNat), (6, 1)])
  | .mulh h p d a b => some (pack [(7, 3), (5, b.toNat), (5, a.toNat), (5, d.toNat), (3, p.toNat), (1, h.toNat), (6, 1)])
  | .mulhu h p d a b => some (pack [(7, 4), (5, b.toNat), (5, a.toNat), (5, d.toNat), (3, p.toNat), (1, h.toNat), (6, 1)])
  | .div h p d a b => some (pack [(7, 5), (5, b.toNat), (5, a.toNat), (5, d.toNat), (3, p.toNat), (1, h.toNat), (6, 1)])
  | .divu h p d a b => some (pack [(7, 6), (5, b.toNat), (5, a.toNat), (5, d.toNat), (3, p.toNat), (1, h.toNat), (6, 1)])
  | .rem h p d a b => some (pack [(7, 7), (5, b.toNat), (5, a.toNat), (5, d.toNat), (3, p.toNat), (1, h.toNat), (6, 1)])
  | .and h p d a b => some (pack [(7, 8), (5, b.toNat), (5, a.toNat), (5, d.toNat), (3, p.toNat), (1, h.toNat), (6, 1)])
  | .or h p d a b => some (pack [(7, 9), (5, b.toNat), (5, a.toNat), (5, d.toNat), (3, p.toNat), (1, h.toNat), (6, 1)])
  | .xor h p d a b => some (pack [(7, 10), (5, b.toNat), (5, a.toNat), (5, d.toNat), (3, p.toNat), (1, h.toNat), (6, 1)])
  | .andn h p d a b => some (pack [(7, 11), (5, b.toNat), (5, a.toNat), (5, d.toNat), (3, p.toNat), (1, h.toNat), (6, 1)])
  | .shl h p d a b => some (pack [(7, 12), (5, b.toNat), (5, a.toNat), (5, d.toNat), (3, p.toNat), (1, h.toNat), (6, 1)])
  | .shr h p d a b => some (pack [(7, 13), (5, b.toNat), (5, a.toNat), (5, d.toNat), (3, p.toNat), (1, h.toNat), (6, 1)])
  | .sar h p d a b => some (pack [(7, 14), (5, b.toNat), (5, a.toNat), (5, d.toNat), (3, p.toNat), (1, h.toNat), (6, 1)])
  | .min h p d a b => some (pack [(7, 15), (5, b.toNat), (5, a.toNat), (5, d.toNat), (3, p.toNat), (1, h.toNat), (6, 1)])
  | .max h p d a b => some (pack [(7, 16), (5, b.toNat), (5, a.toNat), (5, d.toNat), (3, p.toNat), (1, h.toNat), (6, 1)])
  | .minu h p d a b => some (pack [(7, 17), (5, b.toNat), (5, a.toNat), (5, d.toNat), (3, p.toNat), (1, h.toNat), (6, 1)])
  | .maxu h p d a b => some (pack [(7, 18), (5, b.toNat), (5, a.toNat), (5, d.toNat), (3, p.toNat), (1, h.toNat), (6, 1)])
  | .clz h p d a => some (pack [(12, 19), (5, a.toNat), (5, d.toNat), (3, p.toNat), (1, h.toNat), (6, 1)])
  | .popc h p d a => some (pack [(12, 20), (5, a.toNat), (5, d.toNat), (3, p.toNat), (1, h.toNat), (6, 1)])
  | .sel h p d a b => some (pack [(7, 21), (5, b.toNat), (5, a.toNat), (5, d.toNat), (3, p.toNat), (1, h.toNat), (6, 1)])
  | .addi h p d a i => some (pack [(12, i.toNat), (5, a.toNat), (5, d.toNat), (3, p.toNat), (1, h.toNat), (6, 2)])
  | .andi h p d a i => some (pack [(12, i.toNat), (5, a.toNat), (5, d.toNat), (3, p.toNat), (1, h.toNat), (6, 3)])
  | .ori h p d a i => some (pack [(12, i.toNat), (5, a.toNat), (5, d.toNat), (3, p.toNat), (1, h.toNat), (6, 4)])
  | .xori h p d a i => some (pack [(12, i.toNat), (5, a.toNat), (5, d.toNat), (3, p.toNat), (1, h.toNat), (6, 5)])
  | .shli h p d a n => some (pack [(6, n.toNat), (6, 0), (5, a.toNat), (5, d.toNat), (3, p.toNat), (1, h.toNat), (6, 6)])
  | .shri h p d a n => some (pack [(6, n.toNat), (6, 0), (5, a.toNat), (5, d.toNat), (3, p.toNat), (1, h.toNat), (6, 7)])
  | .sari h p d a n => some (pack [(6, n.toNat), (6, 0), (5, a.toNat), (5, d.toNat), (3, p.toNat), (1, h.toNat), (6, 8)])
  | .lim h p d i => some (pack [(17, i.toNat), (5, d.toNat), (3, p.toNat), (1, h.toNat), (6, 9)])
  | .lims h p d i => some (pack [(17, i.toNat), (5, d.toNat), (3, p.toNat), (1, h.toNat), (6, 10)])
  | .cmp h p d c a b => some (pack [(5, 0), (5, b.toNat), (5, a.toNat), (3, c.toNat), (4, d.toNat), (3, p.toNat), (1, h.toNat), (6, 11)])
  | .cmpi h p d c a i => some (pack [(10, i.toNat), (5, a.toNat), (3, c.toNat), (4, d.toNat), (3, p.toNat), (1, h.toNat), (6, 12)])
  | .pand h p d a b => some (pack [(7, 0), (4, b.toNat), (1, 0), (4, a.toNat), (1, 0), (4, d.toNat), (1, 0), (3, p.toNat), (1, h.toNat), (6, 13)])
  | .por h p d a b => some (pack [(7, 1), (4, b.toNat), (1, 0), (4, a.toNat), (1, 0), (4, d.toNat), (1, 0), (3, p.toNat), (1, h.toNat), (6, 13)])
  | .pxor h p d a b => some (pack [(7, 2), (4, b.toNat), (1, 0), (4, a.toNat), (1, 0), (4, d.toNat), (1, 0), (3, p.toNat), (1, h.toNat), (6, 13)])
  | .pandn h p d a b => some (pack [(7, 3), (4, b.toNat), (1, 0), (4, a.toNat), (1, 0), (4, d.toNat), (1, 0), (3, p.toNat), (1, h.toNat), (6, 13)])
  | .pnot h p d a => some (pack [(12, 4), (4, a.toNat), (1, 0), (4, d.toNat), (1, 0), (3, p.toNat), (1, h.toNat), (6, 13)])
  | .bfx h p d a l n => some (pack [(6, n.toNat), (6, l.toNat), (5, a.toNat), (5, d.toNat), (3, p.toNat), (1, h.toNat), (6, 14)])
  | .bfi h p d a l n => some (pack [(6, n.toNat), (6, l.toNat), (5, a.toNat), (5, d.toNat), (3, p.toNat), (1, h.toNat), (6, 15)])
  | .padr h p d a q => some (pack [(4, q.toNat), (8, 0), (5, a.toNat), (5, d.toNat), (3, p.toNat), (1, h.toNat), (6, 16)])
  | .pcrel h p d i => some (pack [(17, i.toNat), (5, d.toNat), (3, p.toNat), (1, h.toNat), (6, 17)])
  | .br h p o => some (pack [(22, o.toNat), (3, p.toNat), (1, h.toNat), (6, 18)])
  | .call h p o => some (pack [(22, o.toNat), (3, p.toNat), (1, h.toNat), (6, 19)])
  | .jmpr h p a => some (pack [(12, 0), (5, a.toNat), (5, 0), (3, p.toNat), (1, h.toNat), (6, 20)])
  | .loop h p v s l => some (pack [(8, 0), (6, l.toNat), (5, s.toNat), (3, v.toNat), (3, p.toNat), (1, h.toNat), (6, 21)])
  | .lexit h p v => some (pack [(19, 0), (3, v.toNat), (3, p.toNat), (1, h.toNat), (6, 22)])
  | .wsel h p x a b c d => some (pack [(1, 0), (5, d.toNat), (5, c.toNat), (5, b.toNat), (5, a.toNat), (1, x.toNat), (3, p.toNat), (1, h.toNat), (6, 23)])
  | .sig h p f a => some (pack [(11, 0), (5, a.toNat), (6, f.toNat), (3, p.toNat), (1, h.toNat), (6, 24)])
  | .syncd h p v => some (pack [(19, 0), (3, v.toNat), (3, p.toNat), (1, h.toNat), (6, 25)])
  | .yield h p => some (pack [(22, 0), (3, p.toNat), (1, h.toNat), (6, 26)])
  | .retire h p => some (pack [(22, 0), (3, p.toNat), (1, h.toNat), (6, 27)])
  | .fork h p a b c => some (pack [(7, 0), (5, c.toNat), (5, b.toNat), (5, a.toNat), (3, p.toNat), (1, h.toNat), (6, 28)])
  | .csrr h p d n => some (pack [(12, n.toNat), (5, 0), (5, d.toNat), (3, p.toNat), (1, h.toNat), (6, 29)])
  | .csrw h p a n => some (pack [(12, n.toNat), (5, a.toNat), (5, 0), (3, p.toNat), (1, h.toNat), (6, 30)])
  | .csrs h p a n => some (pack [(12, n.toNat), (5, a.toNat), (5, 0), (3, p.toNat), (1, h.toNat), (6, 31)])
  | .csrc h p a n => some (pack [(12, n.toNat), (5, a.toNat), (5, 0), (3, p.toNat), (1, h.toNat), (6, 32)])
  | .trap h p i => some (pack [(17, i.toNat), (5, 0), (3, p.toNat), (1, h.toNat), (6, 33)])
  | .rte h p => some (pack [(22, 0), (3, p.toNat), (1, h.toNat), (6, 34)])
  | .brk h p i => some (pack [(17, i.toNat), (5, 0), (3, p.toNat), (1, h.toNat), (6, 35)])
  | .qcfg h p q d w => some (pack [(7, 0), (2, w.toNat), (8, d.toNat), (5, q.toNat), (3, p.toNat), (1, h.toNat), (6, 36)])
  | .qcfgKeep h p q d w => some (pack [(7, 64), (2, w.toNat), (8, d.toNat), (5, q.toNat), (3, p.toNat), (1, h.toNat), (6, 36)])
  | .qrel h p q => some (pack [(17, 0), (5, q.toNat), (3, p.toNat), (1, h.toNat), (6, 37)])
  | .qstat h p d q => some (pack [(12, 0), (5, q.toNat), (5, d.toNat), (3, p.toNat), (1, h.toNat), (6, 38)])
  | .aset h p n a => some (pack [(13, 0), (5, a.toNat), (4, n.toNat), (3, p.toNat), (1, h.toNat), (6, 39)])
  | .adim h p n d s b k => some (pack [(2, 0), (3, k.toNat), (5, b.toNat), (5, s.toNat), (3, d.toNat), (4, n.toNat), (3, p.toNat), (1, h.toNat), (6, 40)])
  | .aget h p d n s => some (pack [(10, 0), (3, s.toNat), (4, n.toNat), (5, d.toNat), (3, p.toNat), (1, h.toNat), (6, 41)])
  | .mbxr h p d m => some (pack [(14, 0), (3, m.toNat), (5, d.toNat), (3, p.toNat), (1, h.toNat), (6, 42)])
  | .mbxw h p a m => some (pack [(14, 0), (3, m.toNat), (5, a.toNat), (3, p.toNat), (1, h.toNat), (6, 43)])
  | .pcrt h p a b c q => some (pack [(4, q.toNat), (3, 0), (5, c.toNat), (5, b.toNat), (5, a.toNat), (3, p.toNat), (1, h.toNat), (6, 44)])
  | .pdel h p a q => some (pack [(4, q.toNat), (13, 0), (5, a.toNat), (3, p.toNat), (1, h.toNat), (6, 45)])
  | .pprt h p a w r q => some (pack [(4, q.toNat), (1, r.toNat), (1, w.toNat), (11, 0), (5, a.toNat), (3, p.toNat), (1, h.toNat), (6, 46)])
  | .chbind h p c a => some (pack [(14, 0), (5, a.toNat), (3, c.toNat), (3, p.toNat), (1, h.toNat), (6, 47)])
  | .chrd h p d c => some (pack [(14, 0), (3, c.toNat), (5, d.toNat), (3, p.toNat), (1, h.toNat), (6, 48)])
  | .chwr h p a c => some (pack [(14, 0), (3, c.toNat), (5, a.toNat), (3, p.toNat), (1, h.toNat), (6, 49)])
  | .idle a b c d e f s t => some (pack [(8, 0), (1, t.toNat), (1, s.toNat), (2, 0), (3, f.toNat), (3, e.toNat), (3, d.toNat), (3, c.toNat), (3, b.toNat), (3, a.toNat), (2, 0)])
  | .nopL h p => some (pack [(22, 0), (3, p.toNat), (1, h.toNat), (6, 0)])
  | .lds h p s d b z o f => some (pack [(6, f.toNat), (3, o.toNat), (2, z.toNat), (5, b.toNat), (5, d.toNat), (1, s.toNat), (3, p.toNat), (1, h.toNat), (6, 1)])
  | .ldg h p s d b z o f => some (pack [(6, f.toNat), (3, o.toNat), (2, z.toNat), (5, b.toNat), (5, d.toNat), (1, s.toNat), (3, p.toNat), (1, h.toNat), (6, 2)])
  | .ldv h p s d b o => some (pack [(3, o.toNat), (8, 0), (5, b.toNat), (5, d.toNat), (1, s.toNat), (3, p.toNat), (1, h.toNat), (6, 3)])
  | .ldvt h p s d b e => some (pack [(9, 0), (2, e.toNat), (5, b.toNat), (5, d.toNat), (1, s.toNat), (3, p.toNat), (1, h.toNat), (6, 4)])
  | .lgv h p s d b x o => some (pack [(3, o.toNat), (8, x.toNat), (5, b.toNat), (5, d.toNat), (1, s.toNat), (3, p.toNat), (1, h.toNat), (6, 5)])
  | .pld h p d n x q m => some (pack [(4, m.toNat), (2, q.toNat), (8, x.toNat), (3, n.toNat), (5, d.toNat), (3, p.toNat), (1, h.toNat), (6, 6)])
  | .tld h p d k c t r o => some (pack [(3, o.toNat), (1, 0), (1, r.toNat), (2, t.toNat), (5, c.toNat), (5, k.toNat), (5, d.toNat), (3, p.toNat), (1, h.toNat), (6, 7)])
  | .ldx h p s d b i o => some (pack [(3, o.toNat), (3, 0), (5, i.toNat), (5, b.toNat), (5, d.toNat), (1, s.toNat), (3, p.toNat), (1, h.toNat), (6, 8)])
  | .nopT h p => some (pack [(22, 0), (3, p.toNat), (1, h.toNat), (6, 0)])
  | .sts h p s d b z o f => some (pack [(6, f.toNat), (3, o.toNat), (2, z.toNat), (5, b.toNat), (5, d.toNat), (1, s.toNat), (3, p.toNat), (1, h.toNat), (6, 1)])
  | .stg h p s d b z o f => some (pack [(6, f.toNat), (3, o.toNat), (2, z.toNat), (5, b.toNat), (5, d.toNat), (1, s.toNat), (3, p.toNat), (1, h.toNat), (6, 2)])
  | .stv h p s d b o => some (pack [(3, o.toNat), (8, 0), (5, b.toNat), (5, d.toNat), (1, s.toNat), (3, p.toNat), (1, h.toNat), (6, 3)])
  | .sgv h p s d b e m o => some (pack [(3, o.toNat), (4, 0), (3, m.toNat), (1, e.toNat), (5, b.toNat), (5, d.toNat), (1, s.toNat), (3, p.toNat), (1, h.toNat), (6, 4)])
  | .pst h p d n q m => some (pack [(4, m.toNat), (2, q.toNat), (8, 0), (3, n.toNat), (5, d.toNat), (3, p.toNat), (1, h.toNat), (6, 5)])
  | .tst h p d k c t r o => some (pack [(3, o.toNat), (1, 0), (1, r.toNat), (2, t.toNat), (5, c.toNat), (5, k.toNat), (5, d.toNat), (3, p.toNat), (1, h.toNat), (6, 6)])
  | .stx h p s d b i o => some (pack [(3, o.toNat), (3, 0), (5, i.toNat), (5, b.toNat), (5, d.toNat), (1, s.toNat), (3, p.toNat), (1, h.toNat), (6, 7)])
  | .atom h p a d b s o => some (pack [(3, o.toNat), (5, s.toNat), (5, b.toNat), (5, d.toNat), (4, a.toNat), (3, p.toNat), (1, h.toNat), (6, 8)])
  | .redv h p s d b r o => some (pack [(3, o.toNat), (6, 0), (2, r.toNat), (5, b.toNat), (5, d.toNat), (1, s.toNat), (3, p.toNat), (1, h.toNat), (6, 9)])
  | .sigst h p s d b o f => some (pack [(6, f.toNat), (3, o.toNat), (2, 3), (5, b.toNat), (5, d.toNat), (1, s.toNat), (3, p.toNat), (1, h.toNat), (6, 10)])
  | .fence h p s => some (pack [(19, 0), (3, s.toNat), (3, p.toNat), (1, h.toNat), (6, 11)])
  | .fencex h p s a b => some (pack [(13, 0), (3, b.toNat), (3, a.toNat), (3, s.toNat), (3, p.toNat), (1, h.toNat), (6, 12)])
  | .drain h p s => some (pack [(19, 0), (3, s.toNat), (3, p.toNat), (1, h.toNat), (6, 13)])
  | .cpy h p a b c => some (pack [(7, 0), (5, c.toNat), (5, b.toNat), (5, a.toNat), (3, p.toNat), (1, h.toNat), (6, 14)])
  | .coll h p a b c y x => some (pack [(3, x.toNat), (1, y.toNat), (3, 0), (5, c.toNat), (5, b.toNat), (5, a.toNat), (3, p.toNat), (1, h.toNat), (6, 15)])
  | .gath h p a b c => some (pack [(7, 0), (5, c.toNat), (5, b.toNat), (5, a.toNat), (3, p.toNat), (1, h.toNat), (6, 16)])
  | .take h p a n => some (pack [(4, n.toNat), (13, 0), (5, a.toNat), (3, p.toNat), (1, h.toNat), (6, 17)])
  | .arrw h p a b f => some (pack [(6, f.toNat), (6, 0), (5, b.toNat), (5, a.toNat), (3, p.toNat), (1, h.toNat), (6, 18)])
  | .nopM h p => some (pack [(22, 0), (3, p.toNat), (1, h.toNat), (6, 0)])
  | .mlw h p q t => some (pack [(9, 0), (3, t.toNat), (5, 0), (5, q.toNat), (3, p.toNat), (1, h.toNat), (6, 1)])
  | .mswp h p => some (pack [(22, 0), (3, p.toNat), (1, h.toNat), (6, 2)])
  | .mma h p q t => some (pack [(9, 0), (3, t.toNat), (5, 0), (5, q.toNat), (3, p.toNat), (1, h.toNat), (6, 3)])
  | .mmac h p q c t => some (pack [(9, 0), (3, t.toNat), (5, c.toNat), (5, q.toNat), (3, p.toNat), (1, h.toNat), (6, 4)])
  | .mchn h p a => some (pack [(12, 0), (5, a.toNat), (5, 0), (3, p.toNat), (1, h.toNat), (6, 5)])
  | .mdrn h p => some (pack [(22, 0), (3, p.toNat), (1, h.toNat), (6, 6)])
  | .msts h p d => some (pack [(17, 0), (5, d.toNat), (3, p.toNat), (1, h.toNat), (6, 7)])
  | .mzer h p => some (pack [(22, 0), (3, p.toNat), (1, h.toNat), (6, 8)])
  | .nopAb h p => some (pack [(22, 0), (3, p.toNat), (1, h.toNat), (6, 0)])
  | .vadd h p w t d j a k b => some (pack [(5, b.toNat), (1, k.toNat), (5, a.toNat), (1, j.toNat), (5, d.toNat), (3, t.toNat), (2, w.toNat), (3, p.toNat), (1, h.toNat), (6, 1)])
  | .vsub h p w t d j a k b => some (pack [(5, b.toNat), (1, k.toNat), (5, a.toNat), (1, j.toNat), (5, d.toNat), (3, t.toNat), (2, w.toNat), (3, p.toNat), (1, h.toNat), (6, 2)])
  | .vmul h p w t d j a k b => some (pack [(5, b.toNat), (1, k.toNat), (5, a.toNat), (1, j.toNat), (5, d.toNat), (3, t.toNat), (2, w.toNat), (3, p.toNat), (1, h.toNat), (6, 3)])
  | .vfma h p w t d j a k b => some (pack [(5, b.toNat), (1, k.toNat), (5, a.toNat), (1, j.toNat), (5, d.toNat), (3, t.toNat), (2, w.toNat), (3, p.toNat), (1, h.toNat), (6, 4)])
  | .vfms h p w t d j a k b => some (pack [(5, b.toNat), (1, k.toNat), (5, a.toNat), (1, j.toNat), (5, d.toNat), (3, t.toNat), (2, w.toNat), (3, p.toNat), (1, h.toNat), (6, 5)])
  | .vmin h p w t d j a k b => some (pack [(5, b.toNat), (1, k.toNat), (5, a.toNat), (1, j.toNat), (5, d.toNat), (3, t.toNat), (2, w.toNat), (3, p.toNat), (1, h.toNat), (6, 6)])
  | .vmax h p w t d j a k b => some (pack [(5, b.toNat), (1, k.toNat), (5, a.toNat), (1, j.toNat), (5, d.toNat), (3, t.toNat), (2, w.toNat), (3, p.toNat), (1, h.toNat), (6, 7)])
  | .vabs h p w t d j a => some (pack [(6, 0), (5, a.toNat), (1, j.toNat), (5, d.toNat), (3, t.toNat), (2, w.toNat), (3, p.toNat), (1, h.toNat), (6, 8)])
  | .vneg h p w t d j a => some (pack [(6, 0), (5, a.toNat), (1, j.toNat), (5, d.toNat), (3, t.toNat), (2, w.toNat), (3, p.toNat), (1, h.toNat), (6, 9)])
  | .vcmp h p w t c m j a k b => some (pack [(5, b.toNat), (1, k.toNat), (5, a.toNat), (1, j.toNat), (3, m.toNat), (2, c.toNat), (3, t.toNat), (2, w.toNat), (3, p.toNat), (1, h.toNat), (6, 10)])
  | .vsel h p w t d j a k b => some (pack [(5, b.toNat), (1, k.toNat), (5, a.toNat), (1, j.toNat), (5, d.toNat), (3, t.toNat), (2, w.toNat), (3, p.toNat), (1, h.toNat), (6, 11)])
  | .viadd h p w t d j a k b => some (pack [(5, b.toNat), (1, k.toNat), (5, a.toNat), (1, j.toNat), (5, d.toNat), (3, t.toNat), (2, w.toNat), (3, p.toNat), (1, h.toNat), (6, 12)])
  | .visub h p w t d j a k b => some (pack [(5, b.toNat), (1, k.toNat), (5, a.toNat), (1, j.toNat), (5, d.toNat), (3, t.toNat), (2, w.toNat), (3, p.toNat), (1, h.toNat), (6, 13)])
  | .vimul h p w t d j a k b => some (pack [(5, b.toNat), (1, k.toNat), (5, a.toNat), (1, j.toNat), (5, d.toNat), (3, t.toNat), (2, w.toNat), (3, p.toNat), (1, h.toNat), (6, 14)])
  | .vimac h p w t d j a k b => some (pack [(5, b.toNat), (1, k.toNat), (5, a.toNat), (1, j.toNat), (5, d.toNat), (3, t.toNat), (2, w.toNat), (3, p.toNat), (1, h.toNat), (6, 15)])
  | .vand h p w t d j a k b => some (pack [(5, b.toNat), (1, k.toNat), (5, a.toNat), (1, j.toNat), (5, d.toNat), (3, t.toNat), (2, w.toNat), (3, p.toNat), (1, h.toNat), (6, 16)])
  | .vor h p w t d j a k b => some (pack [(5, b.toNat), (1, k.toNat), (5, a.toNat), (1, j.toNat), (5, d.toNat), (3, t.toNat), (2, w.toNat), (3, p.toNat), (1, h.toNat), (6, 17)])
  | .vxor h p w t d j a k b => some (pack [(5, b.toNat), (1, k.toNat), (5, a.toNat), (1, j.toNat), (5, d.toNat), (3, t.toNat), (2, w.toNat), (3, p.toNat), (1, h.toNat), (6, 18)])
  | .vshl h p w t d j a k b => some (pack [(5, b.toNat), (1, k.toNat), (5, a.toNat), (1, j.toNat), (5, d.toNat), (3, t.toNat), (2, w.toNat), (3, p.toNat), (1, h.toNat), (6, 19)])
  | .vshr h p w t d j a k b => some (pack [(5, b.toNat), (1, k.toNat), (5, a.toNat), (1, j.toNat), (5, d.toNat), (3, t.toNat), (2, w.toNat), (3, p.toNat), (1, h.toNat), (6, 20)])
  | .vsar h p w t d j a k b => some (pack [(5, b.toNat), (1, k.toNat), (5, a.toNat), (1, j.toNat), (5, d.toNat), (3, t.toNat), (2, w.toNat), (3, p.toNat), (1, h.toNat), (6, 21)])
  | .vicmp h p w t c m j a k b => some (pack [(5, b.toNat), (1, k.toNat), (5, a.toNat), (1, j.toNat), (3, m.toNat), (2, c.toNat), (3, t.toNat), (2, w.toNat), (3, p.toNat), (1, h.toNat), (6, 22)])
  | .vcvt h p w t d j a s x y => some (pack [(1, 0), (1, y.toNat), (1, x.toNat), (3, s.toNat), (5, a.toNat), (1, j.toNat), (5, d.toNat), (3, t.toNat), (2, w.toNat), (3, p.toNat), (1, h.toNat), (6, 23)])
  | .vqnt h p w t d j a k b => some (pack [(5, b.toNat), (1, k.toNat), (5, a.toNat), (1, j.toNat), (5, d.toNat), (3, t.toNat), (2, w.toNat), (3, p.toNat), (1, h.toNat), (6, 24)])
  | .vdq h p w t d j a k b => some (pack [(5, b.toNat), (1, k.toNat), (5, a.toNat), (1, j.toNat), (5, d.toNat), (3, t.toNat), (2, w.toNat), (3, p.toNat), (1, h.toNat), (6, 25)])
  | .vscl h p w s d j a q => some (pack [(3, q.toNat), (3, 0), (5, a.toNat), (1, j.toNat), (5, d.toNat), (3, s.toNat), (2, w.toNat), (3, p.toNat), (1, h.toNat), (6, 26)])
  | .vamax h p w t d j a => some (pack [(6, 0), (5, a.toNat), (1, j.toNat), (5, d.toNat), (3, t.toNat), (2, w.toNat), (3, p.toNat), (1, h.toNat), (6, 27)])
  | .vospl h p w t d j a q => some (pack [(3, q.toNat), (3, 0), (5, a.toNat), (1, j.toNat), (5, d.toNat), (3, t.toNat), (2, w.toNat), (3, p.toNat), (1, h.toNat), (6, 28)])
  | .vaddsub h p w t d j a k b => some (pack [(5, b.toNat), (1, k.toNat), (5, a.toNat), (1, j.toNat), (5, d.toNat), (3, t.toNat), (2, w.toNat), (3, p.toNat), (1, h.toNat), (6, 29)])
  | .vunpk3 h p w t d j a => some (pack [(6, 0), (5, a.toNat), (1, j.toNat), (5, d.toNat), (3, t.toNat), (2, w.toNat), (3, p.toNat), (1, h.toNat), (6, 30)])
  | .vmov h p w d j a => some (pack [(6, 0), (5, a.toNat), (1, j.toNat), (5, d.toNat), (3, 0), (2, w.toNat), (3, p.toNat), (1, h.toNat), (6, 31)])
  | .vbcst h p w t d j a k => some (pack [(6, k.toNat), (5, a.toNat), (1, j.toNat), (5, d.toNat), (3, t.toNat), (2, w.toNat), (3, p.toNat), (1, h.toNat), (6, 32)])
  | .vext h p w t d j a k => some (pack [(6, k.toNat), (5, a.toNat), (1, j.toNat), (5, d.toNat), (3, t.toNat), (2, w.toNat), (3, p.toNat), (1, h.toNat), (6, 33)])
  | .vins h p w t d j a k => some (pack [(6, k.toNat), (5, a.toNat), (1, j.toNat), (5, d.toNat), (3, t.toNat), (2, w.toNat), (3, p.toNat), (1, h.toNat), (6, 34)])
  | .vperm h p w t d j a k b => some (pack [(5, b.toNat), (1, k.toNat), (5, a.toNat), (1, j.toNat), (5, d.toNat), (3, t.toNat), (2, w.toNat), (3, p.toNat), (1, h.toNat), (6, 35)])
  | .vsld h p w t d j a k => some (pack [(6, k.toNat), (5, a.toNat), (1, j.toNat), (5, d.toNat), (3, t.toNat), (2, w.toNat), (3, p.toNat), (1, h.toNat), (6, 36)])
  | .vzip h p w t d j a k b => some (pack [(5, b.toNat), (1, k.toNat), (5, a.toNat), (1, j.toNat), (5, d.toNat), (3, t.toNat), (2, w.toNat), (3, p.toNat), (1, h.toNat), (6, 37)])
  | .vuzp h p w t d j a k b => some (pack [(5, b.toNat), (1, k.toNat), (5, a.toNat), (1, j.toNat), (5, d.toNat), (3, t.toNat), (2, w.toNat), (3, p.toNat), (1, h.toNat), (6, 38)])
  | .vrsum h p w t d j a => some (pack [(6, 0), (5, a.toNat), (1, j.toNat), (5, d.toNat), (3, t.toNat), (2, w.toNat), (3, p.toNat), (1, h.toNat), (6, 39)])
  | .vrmax h p w t d j a => some (pack [(6, 0), (5, a.toNat), (1, j.toNat), (5, d.toNat), (3, t.toNat), (2, w.toNat), (3, p.toNat), (1, h.toNat), (6, 40)])
  | .vrnd h p w t d j a => some (pack [(6, 0), (5, a.toNat), (1, j.toNat), (5, d.toNat), (3, t.toNat), (2, w.toNat), (3, p.toNat), (1, h.toNat), (6, 41)])
  | .vdrp h p w t d j a k b => some (pack [(5, b.toNat), (1, k.toNat), (5, a.toNat), (1, j.toNat), (5, d.toNat), (3, t.toNat), (2, w.toNat), (3, p.toNat), (1, h.toNat), (6, 42)])
  | .mand h p d a b => some (pack [(3, b.toNat), (3, 0), (3, a.toNat), (3, 0), (3, d.toNat), (7, 0), (3, p.toNat), (1, h.toNat), (6, 43)])
  | .mor h p d a b => some (pack [(3, b.toNat), (3, 0), (3, a.toNat), (3, 0), (3, d.toNat), (7, 0), (3, p.toNat), (1, h.toNat), (6, 44)])
  | .mnot h p d a => some (pack [(6, 0), (3, a.toNat), (3, 0), (3, d.toNat), (7, 0), (3, p.toNat), (1, h.toNat), (6, 45)])
  | .viota h p w t d m => some (pack [(3, m.toNat), (9, 0), (5, d.toNat), (3, t.toNat), (2, w.toNat), (3, p.toNat), (1, h.toNat), (6, 46)])
  | .vmsk h p d q => some (pack [(3, q.toNat), (9, 0), (3, d.toNat), (7, 0), (3, p.toNat), (1, h.toNat), (6, 47)])
  | .nopX h p => some (pack [(22, 0), (3, p.toNat), (1, h.toNat), (6, 0)])
  | .xexp2 h p w t d j a => some (pack [(6, 0), (5, a.toNat), (1, j.toNat), (5, d.toNat), (3, t.toNat), (2, w.toNat), (3, p.toNat), (1, h.toNat), (6, 1)])
  | .xlog2 h p w t d j a => some (pack [(6, 0), (5, a.toNat), (1, j.toNat), (5, d.toNat), (3, t.toNat), (2, w.toNat), (3, p.toNat), (1, h.toNat), (6, 2)])
  | .xrcp h p w t d j a => some (pack [(6, 0), (5, a.toNat), (1, j.toNat), (5, d.toNat), (3, t.toNat), (2, w.toNat), (3, p.toNat), (1, h.toNat), (6, 3)])
  | .xrsq h p w t d j a => some (pack [(6, 0), (5, a.toNat), (1, j.toNat), (5, d.toNat), (3, t.toNat), (2, w.toNat), (3, p.toNat), (1, h.toNat), (6, 4)])
  | .xsqrt h p w t d j a => some (pack [(6, 0), (5, a.toNat), (1, j.toNat), (5, d.toNat), (3, t.toNat), (2, w.toNat), (3, p.toNat), (1, h.toNat), (6, 5)])
  | .xtab h p w t d j a s => some (pack [(2, s.toNat), (4, 0), (5, a.toNat), (1, j.toNat), (5, d.toNat), (3, t.toNat), (2, w.toNat), (3, p.toNat), (1, h.toNat), (6, 6)])
  | .xtld h p w s j a => some (pack [(6, 0), (5, a.toNat), (1, j.toNat), (2, s.toNat), (6, 0), (2, w.toNat), (3, p.toNat), (1, h.toNat), (6, 7)])
  | .xcvt h p w t d j a s x y => some (pack [(1, 0), (1, y.toNat), (1, x.toNat), (3, s.toNat), (5, a.toNat), (1, j.toNat), (5, d.toNat), (3, t.toNat), (2, w.toNat), (3, p.toNat), (1, h.toNat), (6, 8)])
  | .nopK h p => some (pack [(22, 0), (3, p.toNat), (1, h.toNat), (6, 0)])
  | .kld h p q s b n => some (pack [(7, 0), (6, n.toNat), (5, b.toNat), (1, s.toNat), (3, q.toNat), (3, p.toNat), (1, h.toNat), (6, 1)])
  | .ktab h p q s b => some (pack [(13, 8064), (5, b.toNat), (1, s.toNat), (3, q.toNat), (3, p.toNat), (1, h.toNat), (6, 2)])
  | .kset h p q b n => some (pack [(7, 0), (6, n.toNat), (5, b.toNat), (1, 0), (3, q.toNat), (3, p.toNat), (1, h.toNat), (6, 3)])
  | .kout h p q s b n => some (pack [(7, 0), (6, n.toNat), (5, b.toNat), (1, s.toNat), (3, q.toNat), (3, p.toNat), (1, h.toNat), (6, 4)])
  | .kskp h p q b n => some (pack [(7, 0), (6, n.toNat), (5, b.toNat), (1, 0), (3, q.toNat), (3, p.toNat), (1, h.toNat), (6, 5)])
  | .krng h p b => some (pack [(13, 0), (5, b.toNat), (4, 0), (3, p.toNat), (1, h.toNat), (6, 6)])
  | .bundleDispatch _ => none
  | .bundleRetire _ _ => none
  | .contextSwitch _ => none
  | .waitCounterRaise _ => none
  | .freewheelWake _ => none
  | .waitBundlePresent _ => none
  | .landingPush _ _ => none
  | .landingLateArrival _ _ => none
  | .freezeTimeout _ => none
  | .globalLoadReturn _ _ => none
  | .scalePush _ _ => none
  | .translationComplete _ _ => none
  | .pagingComplete _ => none
  | .planeAgentAnswer _ _ => none
  | .faultTaken _ _ => none
  | .asyncTrapTaken _ _ => none
  | .queueWaitLimit _ _ _ => none
  | .mlwStarved _ => none
  | .mlwLoadStart _ => none
  | .mlwComplete _ => none
  | .matrixRowPush _ => none
  | .tandemRowArrival _ _ => none
  | .plyUpdate _ _ _ => none
  | .plyFailure _ _ => none
  | .weightParityError _ _ => none
  | .uncorrectableError _ => none
  | .domainArrival _ _ => none
  | .mbrChange _ _ _ => none
  | .domainBreakNotice _ _ => none
  | .channelBreakNotice _ _ => none
  | .brokenWait _ _ _ => none
  | .probeSend _ _ => none
  | .probeReceive _ _ => none
  | .saveComplete _ _ => none
  | .sigstNotify _ _ => none
  | .collHead _ => none
  | .collComplete _ => none
  | .copyCommandStart _ _ _ => none
  | .engineCommandFail _ _ => none
  | .arrivalUpdate _ _ _ => none
  | .takeReturn _ => none
  | .networkQuiet _ => none
  | .networkDrainTimeout _ => none
  | .hostStationLost _ => none
  | .readRequest _ _ => none
  | .readResponse _ => none
  | .write _ _ => none
  | .byteMaskedWrite _ _ => none
  | .atomicRequest _ _ => none
  | .writeResponse _ => none
  | .signal _ => none
  | .channelWord _ _ _ => none
  | .channelAcknowledgement _ => none
  | .copyOrGatherData _ => none
  | .collectiveChunk _ => none
  | .broadcastData _ _ _ => none
  | .broadcastReturn _ _ => none
  | .takeToken _ => none
  | .collectiveStatus _ => none
  | .collectiveDrop _ => none
  | .returnedCell _ _ => none
  | .directionTimeout _ _ => none
  | .cellCrcFail _ _ => none
  | .segmentTrainedUp _ => none
  | .requestReissue _ => none
  | .destinationUnreachable _ => none
  | .escapeCellRemoved _ _ => none
  | .backInvalidate _ _ => none
  | .cxlRequestFailed _ _ => none
  | .cxlLinkLoss _ _ => none
  | .counterHalving _ => none
  | .swap _ _ _ => none
  | .swapComplete _ _ _ => none
  | .ident _ => none
  | .attest _ _ _ => none
  | .loadimg _ _ _ _ _ _ => none
  | .psetdesc _ _ _ _ _ => none
  | .ptroot _ _ _ => none
  | .handle _ _ _ _ _ => none
  | .launch _ _ _ _ _ => none
  | .kill _ _ => none
  | .preempt _ _ _ _ => none
  | .resume _ _ _ _ => none
  | .mbxwrite _ _ _ => none
  | .flagset _ _ _ => none
  | .cnconfig _ _ _ _ _ _ => none
  | .cnsave _ _ _ _ => none
  | .cnrestore _ _ _ _ => none
  | .collcfg _ _ _ _ => none
  | .arbset _ _ _ => none
  | .ctrsel _ _ _ _ _ => none
  | .ctrread _ _ _ _ => none
  | .liferead _ _ _ _ _ => none
  | .plystat _ _ => none
  | .powercap _ _ _ _ => none
  | .reset _ => none
  | .powerOn => none
  | .ring0Retrain _ => none
  | .lifetimeSample _ _ => none
  | .snapshotCommit => none
  | .powerLoss => none
  | .pipelineResult _ _ => none
  | .rqRefill _ _ => none
  | .spillSpaceAllocated _ _ _ => none
  | .correctedError _ _ => none
  | .droopEvent _ _ => none
  | .portRetrained _ _ => none

end Sys2Proof
end

