-- ==== Sys2Proof/Word.lean ====
section
/-!
DEFINITION. The word types of the machine (R1 to R3) and their names.
-/

namespace Sys2Proof

/-- A byte of memory (R3). -/
abbrev Byte := BitVec 8
/-- An instruction word: a bundle header or a slot word (R66, R68). -/
abbrev Word := BitVec 32
/-- A scalar register, address or CSR value (R21, R49, R157). -/
abbrev Dword := BitVec 64
/-- A 2048-bit row of the vector register file (R79). -/
abbrev Row := BitVec 2048
/-- A lane mask (R225). -/
abbrev Mask := BitVec 256
/-- The six `VSTAT` flags, bit 0 NV to bit 5 SAT (R100). -/
abbrev Flags := BitVec 6

end Sys2Proof
end

