-- ==== Sys2Proof/Config.lean ====
section
/-!
DEFINITION. What an implementation fixes: the figures the spec gives as typical, and the values the spec leaves
open (opaque, so no proof can see them; notes/assumptions/9.md).
-/

namespace Sys2Proof.Config

/-! ### Open values -/

/-- Values the spec leaves open: the n-th one drawn, from `State.free` (log 9). -/
opaque freeWord : Nat → Dword
/-- The set of a slice in which a line stands, modulo 1024 (R258, log 56). -/
opaque l2Row : Nat → Nat
/-- The set of the remap cache in which a group's entry stands, modulo 2048 (R265, log 56). -/
opaque remapSet : Nat → Nat
/-- The first place at which the paging agent tries to lay a frame (R400, log 11). -/
opaque frameStart : Nat
/-- Whether the swap codec encodes these 64 KiB in fewer than 61,440 bytes (R269: the codec is not given, log 12). -/
opaque compressible : List Byte → Bool
/-- SHA-512 (R311: the digest of the identity public key; log 13), byte by byte. -/
opaque sha512 : List Byte → Nat → Byte
/-- Temperature in °C that the hottest sensor of a ply of a stack (4 stack + ply) shows at a cycle (R396, log 14). -/
opaque plyTemp : Nat → Nat → Nat
/-- Voltage in mV of a stack's core rail at a cycle (R396, log 14). -/
opaque railVolt : Nat → Nat → Nat
/-- Serial number, firmware version, key digests and identity modulus (R311, R316), as one byte string (log 13). -/
opaque identity : Nat → Byte
/-- The RSASSA-PSS signature of a report (R316): the private key is not readable (log 13). -/
opaque signature : List Byte → Nat → Byte
/-- Temperature in °C and droop events per ms that the sensors of a core show at a cycle (R51, log 14). -/
opaque sensor : Nat → Nat → Nat × Nat
/-- Copy engines may read an overlapped byte before or after it is written (R198, log 15). -/
opaque copyOrder : Nat → Bool
/-- The boot host peer named in flash, if any (R315, log 13). -/
opaque bootHost : Option (BitVec 12)
/-- The host adapters that ring training finds on rack ring 0 (R315), lowest first (log 13). -/
opaque adapters : List (BitVec 12)
/-- The peers that ring training establishes beyond this package (R315, R353 row 6; log 13). -/
opaque peerPresent : Nat → Bool
/-- The first place at which the firmware tries to take a save area (R328, log 11). -/
opaque saveStart : Nat
/-- The bytes of a page read back from backing storage that the model does not hold, by address space, page, plane and
byte (R357; log 11). -/
opaque backing : Nat → Nat → Nat → Nat → Byte
/-- What memory of another package that a command cell names holds, by fabric physical address (R311; log 4). -/
opaque farByte : Nat → Byte

/-! ### Unloaded figures (R260, R281, R317; log 6) -/

/-- Package index of this package (R6; log 3). -/
def pkg : Nat := 0
/-- Own stack's L2 hit, cc (R260). -/
def latL2 : Nat := 60
/-- Own stack's HBM4, cc (R260). -/
def latHbm : Nat := 300
/-- Private L1 hit, cc (R260). -/
def latL1 : Nat := 14
/-- What a fused L1 adds, cc (R257, R260). -/
def latHop : Nat := 6
/-- Another core's scratchpad bank in the own stack, cc (R254; log 6). -/
def latBank : Nat := 60
/-- What a home adds to the ways of a request and its answer, cc: with them inside the 500 to 900 of R260. -/
def latHome : Nat := 600
/-- Capacity tier, raw page, cc (R260). -/
def latCap : Nat := 1500
/-- Check point after a translation cache miss, cc (R319: later than 4). -/
def latWalk : Nat := 60
/-- Check point where only the cluster's translation cache hits, cc (R42, R319: later than 4). -/
def latXl : Nat := 12
/-- A signal, domain arrival or channel cell within the package, cc (R281). -/
def latSig : Nat := 20
/-- The paging agent's supply of a frame filled with the primer, or of spill space, cc (R37, R373; spec/23's run). -/
def latAgent : Nat := 2000
/-- The paging agent's reading back of a page, cc (R356; spec/23's run). -/
def latPage : Nat := 6000
/-- The paging agent's answer to a plane instruction, cc (R171; spec/23's run). -/
def latPlane : Nat := 1480
/-- A command's start-up in a copy or gather engine, cc (R197). -/
def latCopy : Nat := 300
/-- Flash invalidation of the acquire actions: 16 bc (R274). -/
def latAcquire : Nat := 24
/-- One leg of a token's way, cc: a number returns 0.2 to 0.6 µs after `TAKE` whatever the width (R202). -/
def latToken : Nat := 90
/-- A swap, cc (R268; log 6). -/
def latSwap : Nat := 3000
/-- 2^20 bc in cc: the base clock runs at 2.0 GHz and the core clock at 3.0 GHz (R18, R267). -/
def halving : Nat := 1572864
/-- 60 s in cc (R396). -/
def commitEvery : Nat := 180000000000
/-- 1 s in cc (R315). -/
def second : Nat := 3000000000
/-- 20 µs in cc (R377). -/
def latReissue : Nat := 60000
/-- 1 ms in cc (R380). -/
def latDrain : Nat := 3000000

end Sys2Proof.Config
end

