-- ==== Sys2Proof/Machine/State.lean ====
section
/-!
DEFINITION. The state of one package: everything the spec gives the machine, as plain data, the reasons a step can
stop, and the state after reset. The opcode table's rows are the machine's indivisible steps, so the state also
holds what lies between them: queue entries, results due, accesses whose answers are due, and the events of the
outside that are still to come (`State.sched`).
-/

namespace Sys2Proof.Machine

/-! ### Queues, scale queues, streams, tables -/

/-- A row standing in a vector queue (R79). `wait` names the flight of a landing that is due and whose data has not
arrived (R57, R81). -/
structure QRow where
  id : Nat
  data : Row
  wait : Option Nat
  deriving DecidableEq, Repr

/-- A vector queue (R79): depth, width code, peek cursor and rows, head first. -/
structure VQueue where
  depth : Nat
  wd : BitVec 2
  cur : Nat
  rows : List QRow
  deriving DecidableEq, Repr

/-- One entry of a scale queue (R86, R203): 64 entries of 32 bits, the count N + 1, the tag of R116, and the flight
whose data has not arrived, if the entry's push froze late (R355). -/
structure KEntry where
  data : Row
  count : Nat
  tag : BitVec 4
  wait : Option Nat
  deriving DecidableEq, Repr

/-- A scale queue (R86): a ring of 8 entries, the head position and the number of entries pushed and not popped. -/
structure KQueue where
  ring : Vector KEntry 8
  head : Nat
  held : Nat
  deriving DecidableEq, Repr

/-- One dimension of an address stream (R88): stride, bound, binding (0 to 5 a level, 6 use) and use index. -/
structure Dim where
  stride : Dword
  bound : BitVec 33
  bind : BitVec 3
  idx : BitVec 33
  deriving DecidableEq, Repr

/-- An address stream (R88). -/
structure Stream where
  base : Dword
  dims : Vector Dim 6
  deriving DecidableEq, Repr

/-- An X table slot (R249): header bits 255:0 and the segments' c0 and c1. -/
structure Table where
  header : BitVec 256
  segs : List (BitVec 64)
  deriving DecidableEq, Repr

/-! ### Context state -/

/-- An open loop level (R87): level, trip count, index, body length and start, the bundles of the body dispatched
so far, and whether `LIDX` advances with the next bundle (R149). -/
structure LoopRec where
  lv : BitVec 3
  trip : BitVec 32
  idx : BitVec 32
  len : Nat
  start : Dword
  pos : Nat
  adv : Bool
  deriving DecidableEq, Repr

/-- Scalar operands and the stream address that travel with a word (R69): the scalar sources in operand order, the
stream's address and its block tag (R116). -/
structure Captured where
  x : Dword
  y : Dword
  z : Dword
  addr : Dword
  tag : BitVec 4
  deriving DecidableEq, Repr

/-- A held word (R71): the word, its bits, its captured scalars, its port allotment, whether a word of it has
entered the queue (the original may have been dropped, R68), and the bundle of the original, which names its run (R226). -/
structure Hold where
  instr : Instr
  raw : Word
  ops : Captured
  ports : List Nat
  began : Bool
  run : Nat
  deriving DecidableEq, Repr

/-- A register that the issue-group rule watches (R73, R336). -/
inductive RegRef where
  | s (n : Nat) | p (n : Nat) | a (n : Nat) | lv (n : Nat) | csr (n : Nat)
  deriving DecidableEq, Repr

/-- One access of the current issue group: the slot, the register, and whether it writes (R336). -/
structure GroupAcc where
  slot : Nat
  reg : RegRef
  wr : Bool
  deriving DecidableEq, Repr

/-- A context's position in its issue group (R73): bundles dispatched and accesses made. -/
structure Group where
  n : Nat
  accs : List GroupAcc
  deriving DecidableEq, Repr

/-- The context-scope CSRs (R159), the `KRNG` seed (R119) and the ranks `DML1` to `DML5` (R59). -/
structure Csrs where
  fpc : Dword
  vstat : Dword
  arbw : Dword
  syncmode : Dword
  trapvec : Dword
  trappc : Dword
  trapval : Dword
  trapcause : Dword
  rngpos : Dword
  seed : Dword
  dml : Vector Dword 5
  deriving DecidableEq, Repr

/-- The run of a slot's words (R226, R387): words issued so far, the scale queue whose head advances when the
run ends, and the bundle of the word whose run it is, none when no run is in progress. -/
structure RunRec where
  n : Nat
  stand : Option (BitVec 3)
  of : Option Nat
  deriving DecidableEq, Repr

/-- The hold state and open loop levels that a fault puts aside (R323), with the bundles still to be passed over, the record of
the wait bundle's words that have entered (R75), and the bundle that was to run with numeric traps off (R386). -/
structure Shadow where
  holds : Vector (Option Hold) 8
  loops : List LoopRec
  skip : Nat
  entered : BitVec 8
  entAt : Dword
  quiet : Option Dword
  deriving DecidableEq, Repr

/-- The context state that checkpoints and save areas hold (R320, R62). -/
structure Arch where
  pc : Dword
  sr : Vector Dword 32
  pend : BitVec 32
  rdy : List (BitVec 5 × Nat)
  pr : BitVec 16
  vq : Vector VQueue 32
  rqn : Nat
  kq : Vector KQueue 8
  str : Vector Stream 16
  masks : Vector Mask 8
  tb : Vector Table 4
  lidx : Vector (BitVec 32) 6
  loops : List LoopRec
  holds : Vector (Option Hold) 8
  skip : Nat
  grp : Group
  mb : Vector Dword 8
  csr : Csrs
  ih : Bool
  shadow : Shadow
  entered : BitVec 8
  entAt : Dword
  quiet : Bool
  runs : Vector RunRec 8
  deriving DecidableEq, Repr

/-- An unretired bundle (R319): its number, header address and header word, the state before it dispatched, the
words checked so far, whether numeric traps are off for it (R386), and whether a plane instruction of it still
waits for the agent (R359), and whether it is an open part of a wait bundle (R75), which retires only once the bundle is
complete. -/
structure Ckpt where
  seq : Nat
  pc : Dword
  hdr : Word
  arch : Arch
  quiet : Bool
  agent : Bool
  wait : Bool
  deriving DecidableEq, Repr

/-- Why a context is blocked (R54). -/
inductive Cause where
  | channel | flags | scalar | command | sync | paging | plane | spill | takes
  deriving DecidableEq, Repr

/-- The states of R52; `retired` has executed `RETIRE` or been killed and has not ended, `done` has ended and still
belongs to its launch. -/
inductive CtxState where
  | free | reserved | ready | current
  | blocked (c : Cause)
  | saving | saved | retired | done
  deriving DecidableEq, Repr

/-- A trap detected and not yet taken (R321): bundle, slot, cause, value. -/
structure Pending where
  seq : Nat
  slot : Nat
  cause : Nat
  val : Dword
  deriving DecidableEq, Repr

/-- A channel endpoint (R172, R373, R376): binding, receive queue, send count, spill space and whether it is
allocated, the break mark, and the numbers of the next word sent and received. -/
structure Chan where
  bound : Option EndRef
  recv : List Dword
  sent : Nat
  spill : List Dword
  space : Bool
  broken : Option BreakWhy
  deadReader : Bool
  snum : BitVec 5
  rnum : BitVec 5
  early : List (BitVec 5 × Dword)
  route : BitVec 7
  deriving DecidableEq, Repr

/-- What a waiting agent request is for (R54): a frame, a plane instruction, one applied whose writes are on their way, spill space. -/
inductive AgentWait where
  | frame (page plane : Nat)
  | plane (op : Nat) (psi : Nat) (q : Nat) (spec primer : Dword) (seq : Nat)
  | applied (q seq : Nat)
  | spill (ep : Nat) (word : Dword)
  deriving DecidableEq, Repr

/-- A `SYNCD` that waits for its phase (R60): the object, the level, the bundle, and whether its arrival has left. -/
structure SyncWait where
  obj : DomRef
  lv : BitVec 3
  seq : Nat
  sent : Bool
  deriving DecidableEq, Repr

/-- What the launch gave the context (R48, R49, R161, R383). -/
structure Bind where
  launch : Nat
  inst : Nat
  icount : Nat
  iix : Nat
  cpi : Nat
  asn : BitVec 12
  nte : Flags
  flags : Dword
  pool : Nat
  prio : Nat
  pre : Bool
  shape : BitVec 4
  fset : Option Nat
  host : BitVec 12
  deriving DecidableEq, Repr

/-- What the engine holds of a word in its issue queue or in execution (R69, R70), with the `FPC` and `ARBW` of its dispatch
(R89, R157); `run` is the bundle of the word itself or, of a repeat, of the held word (R226). -/
structure Entry where
  ctx : Nat
  seq : Nat
  slot : Engine
  instr : Instr
  raw : Word
  hdr : Word
  pc : Dword
  enq : Nat
  ops : Captured
  fpc : Dword
  arbw : Dword
  ports : List Nat
  orig : Bool
  held : Bool
  run : Nat
  quiet : Bool
  deriving DecidableEq, Repr

/-- What a word takes with it as it issues (R187, R191, R192): its index row, the width of its queue's rows, their number
where the index row gives it, and its lane mask. -/
structure Carry where
  idx : Row
  width : Nat
  rows : Nat
  mask : Mask
  deriving DecidableEq, Repr

/-- What a translated word meets at one element (R353, R47): where it lies and its width, or a value that no store changes, a
primer or padding. -/
inductive Elem where
  | loc (fpa bit w : Nat)
  | fixed (v : Nat)
  deriving DecidableEq, Repr

/-- What a word's check point fixes for its access (R34): its rows, each as lane bits and elements, the bit at which the bytes
of a scalar access start, and the width of its plane. -/
structure Places where
  rows : List (Nat × List Elem)
  off : Nat
  w : Nat
  deriving DecidableEq, Repr

/-- A T word that has issued and waits for retirement, or that has been handed over and not performed (R320, R195): the word,
the rows popped so far of those it needs, what it carries, its places once its checks have passed, for a `COLL` the descriptor
read, and how far it has performed: 0 not begun, 1 the write-backs of a release made, 2 its own bytes recalled, 3 the store
itself sent. -/
structure Held where
  id : Nat
  entry : Entry
  rows : List Row
  need : Nat
  car : Carry
  places : Option Places
  desc : Row
  stage : Nat
  deriving DecidableEq, Repr

/-- An escalation under way (R328): why, the engine partial-work value, and `CYC` at the trap. -/
structure Esc where
  why : Nat
  pw : Dword
  cyc : Nat
  deriving DecidableEq, Repr

/-- One context of a core (R15). `sync` is the `SYNCD` on which its program waits, `outer` one that an asynchronous trap has put
aside (R325, R368); `gone` says that it is saved after its `RETIRE`; `dying` and `leave` hold a KILL, and the save area of a
PREEMPT, that met a trap in progress (R329), and `flushed` says that the stores of a killed one are on their way home; `was` names the launch to which the words
belong that stand in the spill spaces of a slot that has returned (R373). -/
structure Ctx where
  st : CtxState
  bnd : Option Bind
  arch : Arch
  ckpts : List Ckpt
  seq : Nat
  waitCnt : Nat
  from_ : Nat
  faults : List Pending
  asyncs : List (Nat × Dword)
  chans : Vector Chan 8
  ctags : Vector Nat 4
  agent : Option AgentWait
  refusals : List (Nat × Nat)
  latches : List (Nat × Nat)
  wq : List Held
  sync : Option SyncWait
  outer : Option SyncWait
  incs : Nat
  parent : Nat
  probe : Nat
  on : Option (Bool × Nat)
  present : Nat
  shown : Nat
  saveTo : Option Nat
  cf : Nat
  esc : Option Esc
  replay : Bool
  waits : Vector (Nat × Nat) 8
  acqUntil : Nat
  killed : Bool
  gone : Bool
  dying : Bool
  leave : Option Nat
  flushed : Bool
  was : Option Nat
  deriving DecidableEq, Repr

/-! ### Core state -/

/-- What a result that is due does (R80, R85, R90, R319). -/
inductive FKind where
  /-- pushes a row computed by a pipeline, setting `VSTAT` flags in the same cycle -/
  | push (q : BitVec 5) (row : Row) (fl : Flags)
  /-- pushes a row of a `TLD` or `LDX` on its data's return; `ready` is false until its data has been read -/
  | ret (q : BitVec 5) (row : Row) (ready : Bool)
  /-- pushes a landing row; `arrived` is false while its data has not returned, `late` once it was pushed so -/
  | land (q : BitVec 5) (row : Row) (arrived late : Bool)
  /-- writes a scalar from a scratchpad load or `MSTS` and clears its pending mark -/
  | sreg (d : BitVec 5) (v : Dword)
  /-- writes a scalar from a global load, an atomic or a `TAKE` on return; `ready` when the data has returned -/
  | gload (d : BitVec 5) (v : Dword) (ready : Bool)
  /-- writes a lane mask -/
  | mask (m : BitVec 3) (v : Mask) (fl : Flags)
  /-- pushes a scale entry -/
  | scale (k : BitVec 3) (e : KEntry) (arrived late : Bool)
  /-- sets the seed and clears `RNGPOS` (`KRNG`) -/
  | krng (seed : Dword)
  /-- the checks and then the reads of a translated word: its entry, what it carries, the flights it feeds, its stage, 0 not
  checked, 1 checked and not read, 2 the write-backs before a read made, 3 a paging stop for the page and plane that `fs` then
  holds, 4 lines of it asked for; and its places once it is checked -/
  | check (e : Entry) (car : Carry) (fs : List Nat) (stage : Nat) (pl : Places)
  deriving DecidableEq, Repr

/-- A result or check due at cycle `due` of the core (R80): who issued it, the word, the scope of an acquire (R195), and
what it does. -/
structure Flight where
  id : Nat
  ctx : Nat
  seq : Nat
  slot : Nat
  due : Nat
  quiet : Bool
  instr : Instr
  acq : Option (BitVec 3)
  kind : FKind
  deriving DecidableEq, Repr

/-- An `XTLD` in progress (R249): the word, the rows it needs and those popped so far. -/
structure Multi where
  entry : Entry
  need : Nat
  rows : List Row
  deriving DecidableEq, Repr

/-- A weight set (R205): type code (F table), mask, 64 K rows of 64 codes packed from bit 0, the `TRAPVAL` of cause 50 if it is
invalid (R389, R390), and the context that issued its `MLW`. -/
structure WSet where
  ty : BitVec 3
  mask : BitVec 4
  w : List (BitVec 1024)
  lost : Option Dword
  owner : Option Nat
  deriving DecidableEq, Repr

/-- An `MLW` in progress (R213): the issuing entry, whether it is exposed (R211), whether the load has started, its
captured mask, the rows loaded, the cycles counted without change (R399), and the loss that met it (R389). -/
structure WLoad where
  entry : Entry
  exposed : Bool
  started : Bool
  start : Nat
  mask : BitVec 4
  rows : List (BitVec 1024)
  waited : Nat
  lost : Option Dword
  deriving DecidableEq, Repr

/-- An activation row in the array (R207): who issued it, the word, when, its output, its run,
and whether the set it runs on is the active one. -/
structure ARow where
  ctx : Nat
  seq : Nat
  instr : Instr
  iss : Nat
  out : Row
  run : Nat
  act : Bool
  deriving DecidableEq, Repr

/-- Rows counted by what an undo takes back (R327): the number whose bundles have retired, and the bundle of each other. -/
structure RowCount where
  old : Nat
  live : List Nat
  deriving DecidableEq, Repr

/-- A run of `MMA` or `MMAC` words (R217): opcode, context, rows entered and pushed, and whether it has ended. -/
structure Run where
  id : Nat
  opc : Nat
  ctx : Nat
  rows : RowCount
  pushed : RowCount
  mask : BitVec 4
  ended : Bool
  deriving DecidableEq, Repr

/-- A completion record (R163, R218): a number, the context, what it records, the bundle of the `MSTS` that removed it, and
the record whose push dropped it. A record stands in the queue while neither has happened; the others are kept for as
long as an undo may put them back (R320). -/
structure MRec where
  id : Nat
  ctx : Option Nat
  opc : Nat
  rows : RowCount
  mask : BitVec 4
  popped : Option Nat
  dropBy : Option Nat
  deriving DecidableEq, Repr

/-- An event of R317 that a word has made and `EVCNT` counts once the word has completed (R96): its source, and the word. -/
structure EvWait where
  src : Nat
  ctx : Nat
  seq : Nat
  slot : Nat
  deriving DecidableEq, Repr

/-- What the front end does while the core clock runs, or stands in freewheel (R55, R56). -/
inductive Pace where
  | running
  | switching (left : Nat) (to_ : Nat)
  | freewheel (wake : Bool)
  deriving DecidableEq, Repr

/-- The states of a core (R56, R57): a freewheeling core wakes in its next cycle once a context is Ready; switching holds
the cycles left and the context chosen; frozen holds the flight that is awaited, the global cycle it began, and what the
front end was doing. -/
inductive Clock where
  | running
  | switching (left : Nat) (to_ : Nat)
  | freewheel (wake : Bool)
  | frozen (flight : Nat) (since : Nat) (back : Pace)
  deriving DecidableEq, Repr

/-- A row in a tandem buffer (R220): the cycle from which it may be taken, the bundle that forwarded it, the row. -/
structure TRow where
  due : Nat
  ctx : Nat
  seq : Nat
  row : BitVec 1024
  deriving DecidableEq, Repr

/-- A line of an L1 (R255, R256): its valid and its dirty words. The bytes stand once for the stack, whose directory keeps the
copies alike (R259). -/
structure L1Line where
  line : Nat
  valid : BitVec 32
  dirty : BitVec 32
  deriving DecidableEq, Repr

/-- A line that has come past the caches for the reads of one word (R254, R255, R274): the word's flight, the line, whether it
is poisoned, and its bytes. -/
structure Came where
  id : Nat
  line : Nat
  bad : Bool
  bytes : List (BitVec 8)
  deriving DecidableEq, Repr

/-- One core (R14, R17). `pages` and `frames` are its page cache and plane-frame cache (R42), `l1` its L1 or its member of a fused
one (R255, R257), `came` what words read past it; `loadsBack` holds the weight loads that RESUME brought back and that wait for another's (R221);
`taken` the tandem rows that words of unretired bundles have taken, with context and bundle (R327). -/
structure Core where
  pcn : Nat
  cyc : Nat
  stopped : Nat
  clk : Clock
  cur : Option Nat
  curFor : Nat
  last : Nat
  flg : Dword
  flgNew : Dword
  ply : BitVec 4
  failed : BitVec 4
  cleared : List (BitVec 2)
  oos : Bool
  evsel : Vector Dword 8
  evcnt : Vector Dword 8
  evWait : List EvWait
  queue : List Entry
  issued : BitVec 8
  ports : BitVec 6
  disp : Bool
  filled : BitVec 4
  synOk : BitVec 4
  flights : List Flight
  held : List Held
  multi : List Multi
  active : WSet
  shadow : WSet
  load : Option WLoad
  loadsBack : List WLoad
  rows : List ARow
  rowFrom : Nat
  rowPushed : Nat
  swapAt : Nat
  runs : List Run
  recs : List MRec
  recAt : List (Nat × Nat)
  mstat : Dword
  chainN : Nat
  chainP : Nat
  tandem : List TRow
  taken : List (Nat × Nat × TRow)
  armed : List Nat
  pages : List Nat
  frames : List Nat
  fused : Bool
  l1 : List L1Line
  came : List Came
  nextId : Nat
  ctxs : Vector Ctx 4
  deriving DecidableEq, Repr

/-! ### Package state -/

/-- A domain object (R59) and its waiters; `broken` as R370 marks it; the launch that made it, 65536 once that has ended; the fabric
set at level 5. -/
structure Dom where
  lvl : BitVec 3
  ph : Bool
  arr : Nat
  mbr : Nat
  waiters : List CtxRef
  broken : Option BreakWhy
  launch : Nat
  fset : Option Nat
  deriving DecidableEq, Repr

/-- A remap entry of a congruence group (R264). -/
structure Remap where
  cnt : Vector (BitVec 4) 16
  pin : Bool
  cmp : BitVec 15
  res : BitVec 4
  deriving DecidableEq, Repr

/-- A swap scheduled or in progress (R267, R268): while it runs, the cycle of its end and the lines whose fills and write-backs
it holds, each with whether it is written. -/
structure SwapRec where
  group : Nat
  home : BitVec 4
  running : Bool
  ends : Nat
  held : List (Nat × Bool)
  deriving DecidableEq, Repr

/-- The bytes of a line that the stack's L1s and L2 slices hold, word by word (R256, R260, R274): one copy for all of them, since
the directory keeps them alike (R259). A line whose home is the stack itself is listed only for the words dirty in an L1, which
engines do not see (R275). -/
structure RLine where
  line : Nat
  data : BitVec 1024
  valid : BitVec 32
  dirty : BitVec 32
  deriving DecidableEq, Repr

/-- A tensor handle (R44, R45). -/
structure Handle where
  num : Nat
  asn : BitVec 12
  desc : BitVec 512
  deriving DecidableEq, Repr

/-- What leaves a unit for another (R282): a ring cell; or a message of a domain or of a broken channel, which no cell type of R282
carries, as the event that it is where it arrives. -/
inductive Out where
  | cell (c : RingCell)
  | event (i : Instr)
  deriving DecidableEq, Repr

/-- A cell waiting to be injected at a stack's station: the core whose it is, its class, weight and destination peer (R289). -/
structure Inject where
  core : Option Nat
  cls : Nat
  weight : Nat
  dst : Nat
  msg : Out
  deriving DecidableEq, Repr

/-- A per-stack event counter (R318). -/
structure StackCtr where
  src : Nat
  en : Bool
  val : Nat
  deriving DecidableEq, Repr

/-- A walk in a stack's walkers (R42): address space and page, or the frame entries of a page that it fetches, and the cycle in
which it ends. -/
structure Walk where
  key : Nat
  ends : Nat
  deriving DecidableEq, Repr

/-- One NPU stack's base die (R10). `remote` holds the bytes of cached lines, `l2` the lines in its slices (R258, R260), `l2w` those
of them that differ from memory, `bad` the lines that came poisoned from another peer, `stale` those whose fill is on its way and fills no copy any more (R274,
R398); `rcache` is the remap cache (R265), `xl`
the clusters' translation caches (R16) and `walks` the page walkers (R42). -/
structure Stack where
  handles : List Handle
  doms : List (Nat × Dom)
  remap : List (Nat × Remap)
  swaps : List SwapRec
  pins : List (Nat × Nat)
  remote : List RLine
  l2 : List Nat
  l2w : List Nat
  bad : List Nat
  stale : List Nat
  rcache : List Nat
  xl : List (Nat × List Nat)
  walks : List Walk
  ctrs : List (Nat × StackCtr)
  ports : BitVec 2
  cur : Vector Int 3
  inject : List Inject
  deriving DecidableEq, Repr

/-- An address space (R22, R32, R43). -/
structure Space where
  root : Option Nat
  base : Option Nat
  deriving DecidableEq, Repr

/-- A launch resident in the package (R48): its number, host, address space, flags, L1 mode and domains. -/
structure LaunchRec where
  num : Nat
  host : BitVec 12
  fuse : Bool
  bnd : Bind
  doms : List DomRef
  deriving DecidableEq, Repr

/-- A counting network (R293 to R296, R379): `inside` holds the tokens at its hosts of this package. -/
structure Net where
  ref : NetRef
  wc : BitVec 2
  span : Bool
  salt : BitVec 5
  base : Dword
  hosts : List (BitVec 14)
  tog : BitVec 256
  cnt : List (BitVec 32)
  failed : Bool
  inside : List RingCell
  held : List RingCell
  hold : Bool
  returned : Nat
  deriving DecidableEq, Repr

/-- A collective group (R290, R381): its members, the member that has dropped since COLLCFG defined it, and how many collectives
each stack of this package has begun in it. -/
structure CollGroup where
  num : Nat
  members : List Nat
  dropped : Option Nat
  runs : List (Nat × Nat)
  deriving DecidableEq, Repr

/-- What a member holds of a chunk (R291, R381), cell by cell: the partial sum that it has formed, and the complete value. -/
structure Chunk where
  part : List (Nat × List (BitVec 32))
  full : List (Nat × List (BitVec 32))
  deriving DecidableEq, Repr

/-- What a `COLL` hands to the collective engine (R200, R290), and how far it is. `phase` is 0 queued, 1 watching its
bucket-ready word (`look` when the word is still to be read), 2 reading its contribution, 3 running its ring steps, 4
waiting for the status words, 5, 7 and 8 to be completed (STAT, DONE and FLAG to come), 6 writing what it holds after a drop.
`ord` counts the collectives of its group before it (R290), `own` holds its contribution, `got` the cells received in each step,
`writes` what is still to be written, `landed` says that a broadcast's copy of the bucket has landed, `ended` the KIND and the member dropped. -/
structure CollJob where
  ord : Nat
  op : BitVec 2
  bf : Bool
  n : Nat
  desc : Dword
  ready : Dword
  rtgt : BitVec 32
  flag : BitVec 6
  fe : Bool
  grp : Nat
  dst : Dword
  src : Dword
  rank : Nat
  p : Nat
  phase : Nat
  look : Bool
  own : List (BitVec 32)
  chunks : List Chunk
  got : List (Nat × Nat)
  writes : List (Dword × List Byte)
  stat : Word
  statIn : Nat
  landed : Bool
  ended : Option (Nat × Nat)
  deriving DecidableEq, Repr

/-- An engine command (R197): class, stack, engine, issuer, the command number of R326, operands, and its progress:
started, the cycle from which it moves, destination bytes moved, list entries of a gather used up and bytes of the
current one, finished; the lines that it has read from outside the package with their poison, the bytes that it wrote over
and has still to read (R198), the page and plane whose frame it waits for, the one that the agent refused (R358), and the pages
that it has had walked (R197). -/
structure Cmd where
  id : Nat
  cls : BitVec 3
  stack : Nat
  eng : Nat
  core : Nat
  ctx : Nat
  asn : BitVec 12
  ctag : Nat
  weight : Nat
  dst : Dword
  src : Dword
  cnt : Dword
  coll : Option CollJob
  started : Bool
  since : Nat
  moved : Nat
  entry : Nat
  off : Nat
  finished : Bool
  buf : List (Nat × Bool × List Byte)
  old : List (Nat × Byte)
  stopped : Option (Nat × Nat)
  refused : Option (Nat × Nat)
  walked : List Nat
  deriving DecidableEq, Repr

/-- A request sent over the fabric whose response is awaited (R282, R377). -/
inductive ReqKind where
  /-- fills a line of a stack's copies, for a context of a core -/
  | fill (stack : Nat) (line : Nat) (n : Nat) (k : Nat)
  /-- brings a line past the caches for a flight of a context -/
  | read (n : Nat) (k : Nat) (flight : Nat) (line : Nat)
  /-- brings a line of a table of an address space to the translation caches -/
  | table (asn : Nat) (line : Nat)
  /-- a store or `REDV`: performed when the response comes -/
  | store (n : Nat) (k : Nat) (line : Nat)
  /-- a write-back of a stack, made for a context or for none -/
  | back (stack : Nat) (who : Option (Nat × Nat)) (line : Nat)
  /-- a write of the firmware -/
  | firm
  /-- an atomic: the old value goes to the flight's scalar register -/
  | atomic (n : Nat) (k : Nat) (flight : Nat) (line : Nat)
  /-- a number drawn from a counting network, for a flight of a core -/
  | take (n : Nat) (k : Nat) (flight : Nat)
  /-- a line read by an engine command -/
  | copy (cmd : Nat) (line : Nat)
  /-- a write of an engine command -/
  | engine (cmd : Nat)
  /-- data of a copy or gather on their way, from a destination offset on -/
  | data (cmd : Nat) (off : Nat)
  deriving DecidableEq, Repr

/-- A request outstanding: tag, cell, what its response does, whether it has been reissued. -/
structure Req where
  tag : BitVec 16
  cell : RingCell
  kind : ReqKind
  again : Bool
  deriving DecidableEq, Repr

/-- A firmware command that waits before it completes (R310): a drain, a save, the bytes of a save area, the end of
retired contexts, a kill's accesses, its own writes to other peers
with the status, result and data it will have and the address space whose translations are then dropped (R43), a handle's pins, or lines of tables or frames that it goes on with once they are
there. -/
inductive WaitCmd where
  | again (i : Instr)
  | writes (q : HostCmd) (cmd st res : Nat) (data : List (BitVec 8)) (drop : Option Nat)
  | pinning (q : HostCmd) (stack num : Nat)
  | save (q : HostCmd) (n k : Nat)
  | resume (q : HostCmd) (n k fpa : Nat)
  | launch (q : HostCmd) (d0 d1 d2 d3 : Dword)
  | kill (q : HostCmd) (l : List (Nat × Nat))
  | cnconfig (q : HostCmd) (d : NetRef) (nw base h0 h1 : Dword)
  | cnsave (q : HostCmd) (d : NetRef) (fpa : Nat)
  | cnrestore (q : HostCmd) (d : NetRef) (record : List Byte)
  | reset (q : HostCmd)
  deriving DecidableEq, Repr

/-- A frame that the paging agent registers (R37, R266, R269): the address of its frame entry, where it lies, its bytes
and its tier. -/
structure Frame where
  entry : Nat
  fpa : Nat
  size : Nat
  tier : Nat
  deriving DecidableEq, Repr

/-- Firmware state (R50, R51, R310 to R315). -/
structure Fw where
  cursor : Nat
  skips : List (Nat × Nat)
  taken : List Nat
  wt : Nat
  wd : Nat
  limit : Nat
  arbw : Dword
  swt : Nat
  launches : Nat
  notices : Nat
  waiting : List WaitCmd
  port : List (Nat × RingCell)
  frames : List Frame
  planes : List (Nat × Nat)
  asked : List (Nat × Nat × Nat)
  up : Bool
  boot : Option (BitVec 12)
  deriving DecidableEq, Repr

/-- A lifetime record (R395): generation, power-on count, seconds, log count, counters by region and entry, log. -/
structure LifeRec where
  gen : Nat
  pwrc : Nat
  secs : Nat
  logn : Nat
  counts : List ((Nat × Nat) × Nat)
  log : List (Nat × BitVec 256)
  deriving DecidableEq, Repr

/-- The lifetime record in SRAM and its two flash copies (R396). -/
structure Life where
  sram : LifeRec
  flashA : LifeRec
  flashB : LifeRec
  deriving DecidableEq, Repr

/-- A ring segment (R375): consecutive CRC failures, and whether it is down. -/
structure Seg where
  ref : SegRef
  fails : Nat
  down : Bool
  deriving DecidableEq, Repr

/-- What a save area holds beside the context's own registers, which stay in its slot (R62, R221): the area, the core and
context, the words that had not issued, the snapshot latches with their cycles after C_f, the table load under way, the
array planes whose latest `MLW` is the context's, its weight load under way, its matrix records, and the events of words that
have not completed. -/
structure Saved where
  fpa : Nat
  pcn : Nat
  k : Nat
  entries : List Entry
  latches : List (Nat × Flight)
  multi : List Multi
  active : Option WSet
  shadow : Option WSet
  load : Option WLoad
  recs : List MRec
  evs : List EvWait
  deriving DecidableEq, Repr

/-- Which word the current step runs (log 4): the core, context and entry, the cell or id being the instruction's own;
`sword` is the S word that the dispatch of this step leaves to be run, `dry` only for the fault it finds (R321). -/
structure Act where
  core : Nat
  ctx : Nat
  entry : Entry
  sword : Option Instr
  dry : Bool
  deriving DecidableEq, Repr

/-- The package. `told` holds the killed contexts whose break notices have gone to a peer of another package and are not handled there
yet (R371, R372). `image` says whether the firmware image in flash passes both checks, and the package its self-test (R315). -/
structure State where
  now : Nat
  mem : List Host.Cell
  poison : List Nat
  cores : List (Nat × Core)
  stk : Vector Stack 8
  spaces : List (Nat × Space)
  tabs : List (Nat × Came)
  launches : List LaunchRec
  nets : List Net
  groups : List CollGroup
  collEarly : List (Nat × RingCell)
  cmds : List Cmd
  reqs : List Req
  tags : Nat
  replies : List (BitVec 12 × BitVec 16 × RingCell)
  saved : List Saved
  fw : Fw
  life : Life
  image : Bool
  segs : List Seg
  gone : List Nat
  farBroken : List (DomRef × BreakWhy)
  told : List (CtxRef × Nat)
  outbox : List Out
  sched : List (Nat × Instr)
  free : Nat
  act : Act
  deriving DecidableEq, Repr

/-! ### Why a step stops -/

/-- The faults: stops that the spec describes as an access that has no place. -/
inductive Fault where
  /-- A request from another peer, taken at its home, names a local physical address outside the ranges of R41, which
  the spec says are not used. Raised by `takeRequest` (the requests of R282). Safe: the model stops where hardware may go
  on. -/
  | unmapped
  deriving DecidableEq, Repr

/-- The refusals. -/
inductive Refusal where
  /-- The instruction has no meaning yet. Safe: the model stops. -/
  | notModelled (mnemonic : String)
  /-- An access reaches a CSR window of R41 at an offset to which the spec gives no register. Raised by
  `execTranslationComplete` for a word of a core and by `takeRequest` for a request from another peer. Safe: the model
  stops where hardware may go on. -/
  | csrWindow
  deriving DecidableEq, Repr

/-! ### Reset values -/

/-- A queue of depth 0, empty (R49). -/
def VQueue.reset : VQueue := { depth := 0, wd := 0, cur := 0, rows := [] }
/-- The forwarding latch: 4 rows of 2048 bits (R83). -/
def VQueue.fl : VQueue := { depth := 4, wd := 2, cur := 0, rows := [] }
/-- A zero scale entry (R86). -/
def KEntry.reset : KEntry := { data := 0, count := 0, tag := 0, wait := none }
/-- A scale queue at launch (R86). -/
def KQueue.reset : KQueue := { ring := Vector.replicate 8 KEntry.reset, head := 0, held := 0 }
/-- A dimension at launch (R169): stride 0, bound 1, binding use. -/
def Dim.reset : Dim := { stride := 0, bound := 1, bind := 6, idx := 0 }
/-- A stream at launch (R169). -/
def Stream.reset : Stream := { base := 0, dims := Vector.replicate 6 Dim.reset }
/-- A zero table slot (R247, R249). -/
def Table.reset : Table := { header := 0, segs := [] }
/-- The CSRs at launch (R99, R100, R160, R164, R165, R119); `DML` 0 (R59). -/
def Csrs.reset : Csrs :=
  { fpc := 0x10, vstat := 0, arbw := 0x010101, syncmode := 0, trapvec := 0, trappc := 0, trapval := 0,
    trapcause := 0, rngpos := 0, seed := 0, dml := Vector.replicate 5 0 }
/-- No word of a slot has run. -/
def RunRec.reset : RunRec := { n := 0, stand := none, of := none }
/-- The empty shadow (R344). -/
def Shadow.reset : Shadow :=
  { holds := Vector.replicate 8 none, loops := [], skip := 0, entered := 0, entAt := 0, quiet := none }
/-- A context's registers at start (R49), with `p0` reading true and no other predicate set. -/
def Arch.reset : Arch :=
  { pc := 0, sr := Vector.replicate 32 0, pend := 0, rdy := [], pr := 1,
    vq := (Vector.replicate 32 VQueue.reset).set 28 VQueue.fl, rqn := 0,
    kq := Vector.replicate 8 KQueue.reset, str := Vector.replicate 16 Stream.reset, masks := Vector.replicate 8 0,
    tb := Vector.replicate 4 Table.reset, lidx := Vector.replicate 6 0, loops := [], holds := Vector.replicate 8 none,
    skip := 0, grp := { n := 0, accs := [] }, mb := Vector.replicate 8 0, csr := Csrs.reset, ih := false,
    shadow := Shadow.reset, entered := 0, entAt := 0, quiet := false, runs := Vector.replicate 8 RunRec.reset }
/-- An unbound endpoint (R172, R343). -/
def Chan.reset : Chan :=
  { bound := none, recv := [], sent := 0, spill := [], space := false, broken := none, deadReader := false,
    snum := 0, rnum := 0, early := [], route := 0 }
/-- A free context. -/
def Ctx.reset : Ctx :=
  { st := .free, bnd := none, arch := Arch.reset, ckpts := [], seq := 0, waitCnt := 0, from_ := 0, faults := [],
    asyncs := [], chans := Vector.replicate 8 Chan.reset, ctags := Vector.replicate 4 0, agent := none,
    refusals := [], latches := [], wq := [], sync := none, outer := none, incs := 0, parent := 0, probe := 0, on := none, present := 0, shown := 0,
    saveTo := none, cf := 0, esc := none, replay := false, waits := Vector.replicate 8 (0, 0), acqUntil := 0, killed := false,
    gone := false, dying := false, leave := none, flushed := false, was := none }
/-- A weight set of code 0 of E4M3 under mask 0b1111 (R205). -/
def WSet.zero : WSet := { ty := 5, mask := 15, w := List.replicate 64 0, lost := none, owner := none }
/-- A core at reset: no context, clock stopped (R56), masks full (R160), sets zero (R205), no chain (R219). -/
def Core.reset (n : Nat) : Core :=
  { pcn := n, cyc := 0, stopped := 0, clk := .freewheel false, cur := none, curFor := 0, last := 3, flg := 0, flgNew := 0, ply := 15,
    failed := 0, cleared := [], oos := false, evsel := Vector.replicate 8 0, evcnt := Vector.replicate 8 0, evWait := [],
    queue := [], issued := 0, ports := 0, disp := false, filled := 0, synOk := 15, flights := [], held := [], multi := [],
    active := WSet.zero, shadow := WSet.zero, load := none, loadsBack := [], rows := [], rowFrom := 0, rowPushed := 0, swapAt := 0, runs := [],
    recs := [], recAt := [], mstat := 0, chainN := 0, chainP := 0, tandem := [], taken := [], armed := [], pages := [], frames := [], fused := false, l1 := [], came := [], nextId := 0, ctxs := Vector.replicate 4 Ctx.reset }
/-- A stack at reset (R315): no handle, no domain object, both CXL ports up (R365). -/
def Stack.reset : Stack :=
  { handles := [], doms := [], remap := [], swaps := [], pins := [], remote := [], l2 := [], l2w := [], bad := [],
    stale := [], rcache := [], xl := [], walks := [], ctrs := [], ports := 3, cur := Vector.replicate 3 0, inject := [] }
/-- The firmware settings after RESET (R312): limit 3600 W, w_t 16, w_d 1, ARBW 0x1_0101, SWT 4; cursor 0 (R315). -/
def Fw.reset : Fw :=
  { cursor := 0, skips := [], taken := [], wt := 16, wd := 1, limit := 3600, arbw := 0x10101, swt := 4, launches := 0,
    notices := 0, waiting := [], port := [], frames := [], planes := [], asked := [], up := true, boot := none }
/-- A lifetime record with nothing counted (log 2). -/
def LifeRec.reset : LifeRec := { gen := 0, pwrc := 0, secs := 0, logn := 0, counts := [], log := [] }
/-- Nothing issued: the blank entry. -/
def Entry.blank : Entry :=
  { ctx := 0, seq := 0, slot := .s, instr := .nopS 0 0, raw := 0, hdr := 0, pc := 0, enq := 0,
    ops := { x := 0, y := 0, z := 0, addr := 0, tag := 0 }, fpc := 0, arbw := 0, ports := [], orig := true, held := false,
    run := 0, quiet := false }
/-- No word is running. -/
def Act.blank : Act := { core := 0, ctx := 0, entry := Entry.blank, sword := none, dry := false }

/-- The machine right after reset (R315): no context, every core stopped, memory with nothing listed. -/
def State.reset : State :=
  { now := 0, mem := [], poison := [], cores := [], stk := Vector.replicate 8 Stack.reset, spaces := [], tabs := [],
    launches := [], nets := [], groups := [], collEarly := [], cmds := [], reqs := [], tags := 0, replies := [], saved := [], fw := Fw.reset,
    life := { sram := LifeRec.reset, flashA := LifeRec.reset, flashB := LifeRec.reset }, image := true, segs := [], gone := [], farBroken := [], told := [],
    outbox := [], sched := [], free := 0, act := Act.blank }

end Sys2Proof.Machine
end

