-- ==== Sys2Proof/Machine/Ops.lean ====
section
/-!
DEFINITION. The named operations over the state: association lists, memory, cores and contexts, registers,
checkpoints, results due, traps. Every meaning is written over these.
-/

namespace Sys2Proof.Machine

open Host (Outcome)

/-- The outcome of one instruction. -/
abbrev Out1 := Outcome State Fault Refusal

/-- A vector changed element by element. -/
def vmap {α β : Type} {n : Nat} (f : α → β) (v : Vector α n) : Vector β n := Vector.ofFn fun i : Fin n => f v[i]

/-! ### Association lists -/

/-- The value at key `k`, or `d`. -/
def assocGet {α : Type} (k : Nat) (d : α) : List (Nat × α) → α
  | [] => d
  | (j, v) :: r => if j = k then v else assocGet k d r

/-- The list with key `k` holding `v`. -/
def assocSet {α : Type} (k : Nat) (v : α) : List (Nat × α) → List (Nat × α)
  | [] => [(k, v)]
  | (j, w) :: r => if j = k then (k, v) :: r else (j, w) :: assocSet k v r

/-- The list without key `k`. -/
def assocDel {α : Type} (k : Nat) : List (Nat × α) → List (Nat × α)
  | [] => []
  | (j, w) :: r => if j = k then assocDel k r else (j, w) :: assocDel k r

/-! ### Bits and bytes -/

/-- Bits lo + n − 1 : lo of a natural number. -/
def nbits (x lo n : Nat) : Nat := x / 2 ^ lo % 2 ^ n

/-- Bits lo + n − 1 : lo of `x`, as a number. -/
def fld {w : Nat} (x : BitVec w) (lo n : Nat) : Nat := nbits x.toNat lo n

/-- `x` with bits lo + n − 1 : lo replaced by `v`. -/
def setFld {w : Nat} (x : BitVec w) (lo n v : Nat) : BitVec w :=
  (x &&& ~~~ (BitVec.ofNat w ((2 ^ n - 1) * 2 ^ lo))) ||| BitVec.ofNat w (v % 2 ^ n * 2 ^ lo)

/-- The number whose bytes are `l`, lowest first (R3). -/
def leNat : List Byte → Nat
  | [] => 0
  | b :: r => b.toNat + 256 * leNat r

/-- The `n` bytes of `x`, lowest first (R3). -/
def leBytes : Nat → Nat → List Byte
  | 0, _ => []
  | n + 1, x => BitVec.ofNat 8 (x % 256) :: leBytes n (x / 256)

/-- The number of set bits among bits 0 to n − 1 of x. -/
def popCount : Nat → Nat → Nat
  | 0, _ => 0
  | n + 1, x => x % 2 + popCount n (x / 2)

/-- The low `n` bits of a row (R80). -/
def lowBits (n : Nat) (x : Row) : Row := BitVec.ofNat 2048 (x.toNat % 2 ^ n)

/-- Row width of a width code in bits (R79, R121). -/
def rowWidth (wd : BitVec 2) : Nat := 512 * 2 ^ wd.toNat

/-! ### Memory: cells by fabric physical address, unlisted bytes read 0 (log 1) -/

/-- The byte at `a`. -/
def readByte (a : Nat) : List Host.Cell → Byte
  | [] => 0
  | (b, v) :: r => if b = a then v else if a < b then 0 else readByte a r

/-- The cells with `a` holding `v`, in canonical form: addresses rising, no cell holding what an unlisted one reads. -/
def writeByte (a : Nat) (v : Byte) : List Host.Cell → List Host.Cell
  | [] => if v = 0 then [] else [(a, v)]
  | (b, w) :: r =>
    if a < b then (if v = 0 then (b, w) :: r else (a, v) :: (b, w) :: r)
    else if a = b then (if v = 0 then r else (a, v) :: r)
    else (b, w) :: writeByte a v r

/-- The `n` bytes from `a` up. -/
def readBytes (m : List Host.Cell) (a : Nat) : Nat → List Byte
  | 0 => []
  | n + 1 => readByte a m :: readBytes m (a + 1) n

/-- The cells with the bytes `l` stored from `a` up. -/
def writeBytes (a : Nat) : List Byte → List Host.Cell → List Host.Cell
  | [], m => m
  | v :: r, m => writeByte a v (writeBytes (a + 1) r m)

/-- The canonical form of memory. -/
def Memory.wf : List Host.Cell → Bool
  | [] => true
  | [(_, v)] => v != 0
  | (a, v) :: (b, w) :: r => v != 0 && decide (a < b) && Memory.wf ((b, w) :: r)

/-- The little-endian number of the `n` bytes at `a`. -/
def State.readNat (s : State) (a n : Nat) : Nat := leNat (readBytes s.mem a n)

/-- Bytes stored at `a` of the package's own memory. -/
def State.store (s : State) (a : Nat) (l : List Byte) : State := { s with mem := writeBytes a l s.mem }

/-! ### Cores, contexts, stacks -/

/-- Core `n` (R14); one that nothing has touched is at reset. -/
def State.core (s : State) (n : Nat) : Core := assocGet n (Core.reset n) s.cores

/-- The state with core `n` replaced. -/
def State.setCore (s : State) (n : Nat) (c : Core) : State := { s with cores := assocSet n c s.cores }

/-- Core `n` changed by `f`. -/
def State.updCore (s : State) (n : Nat) (f : Core → Core) : State := s.setCore n (f (s.core n))

/-- Context `k` of a core (R15). -/
def Core.ctx (c : Core) (k : Nat) : Ctx := c.ctxs[k % 4]'(Nat.mod_lt _ (by decide))

/-- Context `k` replaced. -/
def Core.setCtx (c : Core) (k : Nat) (x : Ctx) : Core :=
  { c with ctxs := c.ctxs.set (k % 4) x (Nat.mod_lt _ (by decide)) }

/-- Context `k` changed by `f`. -/
def Core.updCtx (c : Core) (k : Nat) (f : Ctx → Ctx) : Core := c.setCtx k (f (c.ctx k))

/-- What `CYC` reads, or will read once a clock stopped in freewheel runs again (R56). -/
def Core.time (c : Core) : Nat := c.cyc + c.stopped

/-- Context `k` of core `n`. -/
def State.ctx (s : State) (n k : Nat) : Ctx := (s.core n).ctx k

/-- Context `k` of core `n` changed by `f`. -/
def State.updCtx (s : State) (n k : Nat) (f : Ctx → Ctx) : State := s.updCore n fun c => c.updCtx k f

/-- The core of the running word. -/
def State.myCore (s : State) : Core := s.core s.act.core

/-- The running word's core changed by `f`. -/
def State.updMyCore (s : State) (f : Core → Core) : State := s.updCore s.act.core f

/-- The context of the running word. -/
def State.me (s : State) : Ctx := s.ctx s.act.core s.act.ctx

/-- The running word's context changed by `f`. -/
def State.updMe (s : State) (f : Ctx → Ctx) : State := s.updCtx s.act.core s.act.ctx f

/-- The context state of the running word's context. -/
def State.arch (s : State) : Arch := s.me.arch

/-- The stack of core `n` (R14). -/
def stackOf (n : Nat) : Nat := n / 192

/-- The fabric peer of stack `t` of this package (R6). -/
def peerOf (t : Nat) : Nat := Config.pkg * 8 + t % 8

/-- Stack `t`'s base die. -/
def State.stack (s : State) (t : Nat) : Stack := s.stk[t % 8]'(Nat.mod_lt _ (by decide))

/-- Stack `t`'s base die changed by `f`. -/
def State.updStack (s : State) (t : Nat) (f : Stack → Stack) : State :=
  { s with stk := s.stk.set (t % 8) (f (s.stack t)) (Nat.mod_lt _ (by decide)) }

/-- Whether a fabric physical address lies in this package (R6, R40). -/
def ownFpa (a : Nat) : Bool := a / 2 ^ 45 / 8 == Config.pkg

/-- The stack that holds a fabric physical address of this package. -/
def stackAt (a : Nat) : Nat := a / 2 ^ 45 % 8

/-- A local physical address inside the ranges of R41. DESIGN CHOICE (log 59): the part of a window in which R41 populates nothing
reads and is written as ordinary memory, since no rule but R360 refuses it. -/
def localMapped (l : Nat) : Bool :=
  decide (l < 0x2000000000) || (decide (0x20000000000 ≤ l) && decide (l < 0x40000000000)) ||
  (decide (0x1F0000000000 ≤ l) && decide (l < 0x1F0000000000 + 192 * 0x200000)) ||
  (decide (0x1F8000000000 ≤ l) && decide (l < 0x1F8000000000 + 192 * 0x10000)) ||
  (decide (0x1FC000000000 ≤ l) && decide (l < 0x1FC001000000))

/-- The fabric physical address of byte `x` of core `n`'s scratchpad (R41, R176). -/
def spAddr (n x : Nat) : Nat :=
  peerOf (stackOf n) * 2 ^ 45 + 0x1F0000000000 + n % 192 * 0x200000 + x % 0x200000

/-- The core of this package whose scratchpad window holds an address, and the byte offset (R41). -/
def spOwner (a : Nat) : Option (Nat × Nat) :=
  let l := a % 2 ^ 45
  if ownFpa a && decide (0x1F0000000000 ≤ l) && decide (l < 0x1F0000000000 + 192 * 0x200000) then
    some (stackAt a * 192 + (l - 0x1F0000000000) / 0x200000, (l - 0x1F0000000000) % 0x200000)
  else none

/-- The name of a context across the fabric (R15, R173). -/
def ctxRef (n k : Nat) : CtxRef := { peer := peerOf (stackOf n), core := n % 192, ctx := k % 4 }

/-- The package core number of a named context of this package. -/
def refCore (r : CtxRef) : Nat := r.peer % 8 * 192 + r.core

/-- Whether a named context is of this package. -/
def refOwn (r : CtxRef) : Bool := r.peer / 8 == Config.pkg

/-! ### Context state and checkpoints (R319, R320) -/

/-- A change of context state made by bundle `seq`: it is made in the live state and in the checkpoints of the
bundles after it, so that undoing those bundles leaves it standing (R323). -/
def Ctx.change (c : Ctx) (seq : Nat) (f : Arch → Arch) : Ctx :=
  { c with arch := f c.arch, ckpts := c.ckpts.map fun k => if seq < k.seq then { k with arch := f k.arch } else k }

/-- A change that another party makes: it stands whatever is undone (R320). -/
def Ctx.changeAll (c : Ctx) (f : Arch → Arch) : Ctx :=
  { c with arch := f c.arch, ckpts := c.ckpts.map fun k => { k with arch := f k.arch } }

/-- A change of the running word's context state. -/
def State.onArch (s : State) (f : Arch → Arch) : State := s.updMe fun c => c.change s.act.entry.seq f

/-- A change by bundle `seq` of context `k` of core `n`. -/
def State.onArchAt (s : State) (n k seq : Nat) (f : Arch → Arch) : State := s.updCtx n k fun c => c.change seq f

/-! ### Scalar registers and predicates (R49, R138) -/

/-- `sR`; `s0` reads zero. -/
def Arch.getS (a : Arch) (r : BitVec 5) : Dword := if r = 0 then 0 else a.sr[r.toNat]'(r.isLt)

/-- `sR` := v; a write of `s0` is discarded. -/
def Arch.setS (a : Arch) (r : BitVec 5) (v : Dword) : Arch :=
  if r = 0 then a else { a with sr := a.sr.set r.toNat v r.isLt }

/-- `pR`; `p0` reads true. -/
def Arch.getP (a : Arch) (r : BitVec 4) : Bool := r == 0 || a.pr.getLsbD r.toNat

/-- `pR` := v; a write of `p0` is discarded. -/
def Arch.setP (a : Arch) (r : BitVec 4) (v : Bool) : Arch :=
  if r = 0 then a else { a with pr := setFld a.pr r.toNat 1 (if v then 1 else 0) }

/-- Marks `sR` pending (R70). -/
def Arch.mark (a : Arch) (r : BitVec 5) : Arch :=
  if r = 0 then a else { a with pend := a.pend ||| BitVec.ofNat 32 (2 ^ r.toNat) }

/-- Writes a pending scalar and clears its mark (R70). -/
def Arch.land (a : Arch) (r : BitVec 5) (v : Dword) : Arch :=
  { a.setS r v with pend := a.pend &&& ~~~ BitVec.ofNat 32 (2 ^ r.toNat) }

/-- The running word's scalar. -/
def State.getS (s : State) (r : BitVec 5) : Dword := s.arch.getS r

/-- The running word writes a scalar. -/
def State.setS (s : State) (r : BitVec 5) (v : Dword) : State := s.onArch fun a => a.setS r v

/-- The running word's predicate. -/
def State.getP (s : State) (r : BitVec 4) : Bool := s.arch.getP r

/-- The running word writes a predicate. -/
def State.setP (s : State) (r : BitVec 4) (v : Bool) : State := s.onArch fun a => a.setP r v

/-- The qualifying predicate of a word (R68): `p0` to `p7`. -/
def State.qual (s : State) (p : BitVec 3) : Bool := s.getP (p.setWidth 4)

/-- An S word: nothing when its predicate is false (R68, R138), else its effect. -/
def sWord (p : BitVec 3) (f : State → State) (s : State) : Out1 := .next (if s.qual p then f s else s)

/-! ### Event counters (R167, R317, R318) -/

/-- Whether `EVSEL` value `e` counts source `src` of context `k`. -/
def evMatches (e : Dword) (src : Nat) (k : Option Nat) : Bool :=
  fld e 8 1 == 1 && fld e 0 8 == src && fld e 9 4 != 0 &&
  (match k with | none => true | some k => fld e (9 + k % 4) 1 == 1)

/-- `n` events of a source. -/
def Core.count (c : Core) (src : Nat) (k : Option Nat) (n : Nat) : Core :=
  { c with evcnt := Vector.ofFn fun i : Fin 8 =>
      if evMatches c.evsel[i] src k then c.evcnt[i] + BitVec.ofNat 64 n else c.evcnt[i] }

/-- An event that a word makes: it is counted once the word has completed (R96). -/
def Core.countWord (c : Core) (src k seq slot : Nat) : Core :=
  { c with evWait := c.evWait ++ [{ src := src, ctx := k, seq := seq, slot := slot }] }

/-- An event of a stack (R318). -/
def Stack.count (t : Stack) (src : Nat) (n : Nat) : Stack :=
  { t with ctrs := t.ctrs.map fun (i, c) => if c.en && c.src == src then (i, { c with val := (c.val + n) % 2 ^ 64 }) else (i, c) }

/-! ### Flags and the core's wake events (R55, R56, R74, R158) -/

/-- Sets `FLG` bits: they stand from the end of the cycle on (R152, R158). -/
def Core.setFlags (c : Core) (m : Dword) : Core := { c with flgNew := c.flgNew ||| m }

/-- A blocked context whose cause has cleared becomes Ready (R52). -/
def Ctx.wake (x : Ctx) : Ctx := match x.st with | .blocked _ => { x with st := .ready, waitCnt := 0 } | _ => x

/-- Wakes a context that is blocked for cause `c`. -/
def Ctx.wakeFrom (x : Ctx) (c : Cause) : Ctx := if x.st = .blocked c then { x with st := .ready, waitCnt := 0 } else x

/-- Blocks the running word's context (R52, R54). -/
def State.block (s : State) (c : Cause) : State :=
  s.updMyCore fun o => (o.count 5 (some s.act.ctx) 1).updCtx s.act.ctx fun x => { x with st := .blocked c, probe := 0, on := none }

/-! ### Traps (R319 to R325) -/

/-- The slot number of an engine (R17). -/
def slotNum : Engine → Nat
  | .s => 0 | .l => 1 | .t => 2 | .m => 3 | .a => 4 | .b => 5 | .x => 6 | .k => 7

/-- The `TRAPVAL` of causes 16 to 22 (R322). -/
def wordVal (hdr raw : Word) : Dword := BitVec.ofNat 64 (hdr.toNat * 2 ^ 32 + raw.toNat)

/-- A fault of a bundle's slot is detected (R321). -/
def State.raiseAt (s : State) (n k seq slot cause : Nat) (val : Dword) : State :=
  s.updCtx n k fun c => { c with faults := c.faults ++ [{ seq := seq, slot := slot, cause := cause, val := val }] }

/-- A fault of the running word. -/
def State.raise (s : State) (cause : Nat) (val : Dword) : State :=
  s.raiseAt s.act.core s.act.ctx s.act.entry.seq (slotNum s.act.entry.slot) cause val

/-- A fault of the running word whose `TRAPVAL` is the header and the word (causes 16 to 22). -/
def State.raiseWord (s : State) (cause : Nat) : State := s.raise cause (wordVal s.act.entry.hdr s.act.entry.raw)

/-- An asynchronous trap arrives (R321, R325): it waits, and a Blocked context becomes Ready, unless it runs a handler, whose
`RTE` the trap awaits. -/
def State.raiseAsync (s : State) (n k cause : Nat) (val : Dword) : State :=
  s.updCtx n k fun c => { (if c.arch.ih then c else c.wake) with asyncs := c.asyncs ++ [(cause, val)] }

/-- The `SYNCD` words of a context that wait for their phase. -/
def Ctx.syncs (x : Ctx) : List SyncWait := x.sync.toList ++ x.outer.toList

/-- Every open loop level closes, each index keeping its value (R147). -/
def Arch.closeLoops (a : Arch) : Arch := { a with loops := [], skip := 0 }

/-- A new issue group begins (R73). -/
def Arch.newGroup (a : Arch) : Arch := { a with grp := { n := 0, accs := [] } }

/-- `TRAPCAUSE` of a slot and a cause (R166). -/
def causeWord (slot cause : Nat) : Dword := BitVec.ofNat 64 (slot % 8 * 256 + cause % 256)

/-- Taking a fault or an asynchronous trap (R323): holds and open loops go to the shadow and end, the address, slot,
cause and value are saved, IH is set and the pc goes to the handler. The runs of the engines go on until their next word
(R226). A bundle that was to run with numeric traps off is remembered, and the handler's run as any (R386). -/
def Arch.enter (a : Arch) (tpc : Dword) (slot cause : Nat) (val : Dword) : Arch :=
  { (a.closeLoops).newGroup with
    shadow := { holds := a.holds, loops := a.loops, skip := a.skip, entered := a.entered, entAt := a.entAt
                quiet := if a.quiet then some tpc else none }
    entered := 0
    quiet := false
    holds := Vector.replicate 8 none
    csr := { a.csr with trappc := tpc, trapcause := causeWord slot cause, trapval := val }
    ih := true
    pc := a.csr.trapvec }

/-- Taking a request, `TRAP` or `BRK` (R148): only the three registers and the pc change, loops close (R147). -/
def Arch.request (a : Arch) (ret : Dword) (cause : Nat) (code : Dword) : Arch :=
  { (a.closeLoops).newGroup with
    csr := { a.csr with trappc := ret, trapcause := causeWord 0 cause, trapval := code }
    pc := a.csr.trapvec }

/-- `LIDXn` := x. -/
def Arch.setLidx (a : Arch) (v : BitVec 3) (x : BitVec 32) : Arch :=
  if h : v.toNat < 6 then { a with lidx := a.lidx.set v.toNat x h } else a

/-- The index registers of loop levels show the levels' indices (R87, R324). -/
def Arch.showLevels (a : Arch) : List LoopRec → Arch
  | [] => a
  | r :: l => (a.setLidx r.lv r.idx).showLevels l

/-- `RTE` (R148, R324, R386): back to `TRAPPC`; after a fault or an asynchronous trap the shadow is restored and IH
cleared, else the open loops close (R147). After cause 48 the next bundle runs with numeric traps off, and so does one that was
to when it was interrupted. The record of the interrupted wait bundle comes back once (R75). -/
def Arch.rte (a : Arch) : Arch :=
  if fld a.csr.trapcause 0 8 < 16 then { a.closeLoops with pc := a.csr.trappc }
  else { a.showLevels a.shadow.loops with
                pc := a.csr.trappc, holds := a.shadow.holds, loops := a.shadow.loops, ih := false,
                quiet := fld a.csr.trapcause 0 8 == 48 || a.shadow.quiet == some a.csr.trappc, skip := a.shadow.skip
                entered := a.shadow.entered, entAt := a.shadow.entAt, shadow := { a.shadow with entered := 0, quiet := none } }

/-- A transfer (R139, R147): the target dispatches 3 cc later and every open loop level closes. -/
def State.transfer (s : State) (target : Dword) : State :=
  (s.onArch fun a => { a.closeLoops with pc := target }).updMe fun c => { c with from_ := s.myCore.cyc + 3 }

/-! ### Undoing bundles (R323, R327) -/

/-- The oldest checkpoint at or after bundle `b`. -/
def Ctx.ckptFrom (c : Ctx) (b : Nat) : Option Ckpt := c.ckpts.find? fun k => decide (b ≤ k.seq)

/-- Bundle `b` and every later one undone: the checkpoint restored, later ones and their faults dropped. -/
def Ctx.undo (c : Ctx) (b : Nat) : Ctx :=
  match c.ckptFrom b with
  | none => { c with faults := c.faults.filter fun f => decide (f.seq < b) }
  | some k =>
    { c with arch := k.arch, ckpts := c.ckpts.filter (fun k => decide (k.seq < b)), seq := b,
             faults := c.faults.filter (fun f => decide (f.seq < b)) }

/-- Whether something of context `k` belongs to bundle `b` or a later one. -/
def undone (k b ctx seq : Nat) : Bool := ctx == k && decide (b ≤ seq)

/-- The rows counted. -/
def RowCount.n (r : RowCount) : Nat := r.old + r.live.length

/-- The rows of bundles before `b`. -/
def RowCount.undo (r : RowCount) (b : Nat) : RowCount := { r with live := r.live.filter fun q => decide (q < b) }

/-- A run of context `k` after its bundles from `b` on are undone: it ends, and counts the other rows (R327). -/
def Run.undo (r : Run) (k b : Nat) : Run :=
  if r.ctx = k then { r with rows := r.rows.undo b, pushed := r.pushed.undo b, ended := true } else r

/-- A record after context `k`'s bundles from `b` on are undone: it counts the other rows, and stands again where an
`MSTS` among them had removed it (R320, R327). -/
def MRec.undo (r : MRec) (k b : Nat) : MRec :=
  if r.ctx = some k then { r with rows := r.rows.undo b, popped := r.popped.filter fun q => decide (q < b) } else r

/-- Every word of context `k`'s bundles from `b` on discarded from queues and pipelines, with landings and rows; the tandem
rows that they took stand again (R327). -/
def Core.discard (c : Core) (k b : Nat) : Core :=
  { c with
    queue := c.queue.filter fun e => !undone k b e.ctx e.seq
    flights := c.flights.filter fun f => !undone k b f.ctx f.seq
    held := c.held.filter fun h => !undone k b h.entry.ctx h.entry.seq
    multi := c.multi.filter fun m => !undone k b m.entry.ctx m.entry.seq
    load := c.load.filter fun l => l.started || !undone k b l.entry.ctx l.entry.seq
    loadsBack := c.loadsBack.filter fun l => l.started || !undone k b l.entry.ctx l.entry.seq
    runs := c.runs.map fun r => r.undo k b
    recs := c.recs.map fun r => r.undo k b
    rows := c.rows.filter fun a => !undone k b a.ctx a.seq
    evWait := c.evWait.filter fun e => !undone k b e.ctx e.seq
    tandem := ((c.taken.filter fun t => undone k b t.1 t.2.1).map (·.2.2)) ++ c.tandem
    taken := c.taken.filter fun t => !undone k b t.1 t.2.1 }

/-- The core east of `n` in its cluster: the next member (R219). -/
def eastOf (n : Nat) : Nat := n + 1

/-- Forwarded tandem rows of the undone bundles discarded at the east member (R323). -/
def Core.discardTandem (c : Core) (n k b : Nat) : Core :=
  { c with tandem := c.tandem.filter (fun t => !undone (n * 4 + k) b t.ctx t.seq)
           taken := c.taken.filter fun t => !undone (n * 4 + k) b t.2.2.ctx t.2.2.seq }

/-- Bundle `b` of context `k` of core `n` and every later one undone (R323). -/
def State.undo (s : State) (n k b : Nat) : State :=
  ((s.updCore n fun c => (c.discard k b).updCtx k fun x => x.undo b).updCore (eastOf n)
    fun c => c.discardTandem n k b)

/-! ### Results due (R80, R90) -/

/-- A result of the running word, due `lat` cycles after its issue, with the scope of an acquire (R195). -/
def State.laterAcq (s : State) (lat : Nat) (acq : Option (BitVec 3)) (kd : FKind) : State :=
  s.updMyCore fun c =>
    { c with nextId := c.nextId + 1,
             flights := c.flights ++ [{ id := c.nextId, ctx := s.act.ctx, seq := s.act.entry.seq,
                                        slot := (slotNum s.act.entry.slot), due := c.cyc + lat,
                                        quiet := s.act.entry.quiet, instr := s.act.entry.instr, acq := acq, kind := kd }] }

/-- A result of the running word, due `lat` cycles after its issue. -/
def State.later (s : State) (lat : Nat) (kd : FKind) : State := s.laterAcq lat none kd

/-- The flight of a core with a given number. -/
def Core.flight (c : Core) (id : Nat) : Option Flight := c.flights.find? fun f => f.id == id

/-- The core without flight `id`. -/
def Core.drop (c : Core) (id : Nat) : Core := { c with flights := c.flights.filter fun f => f.id != id }

/-- A core with flight `id` changed. -/
def Core.updFlight (c : Core) (id : Nat) (f : Flight → Flight) : Core :=
  { c with flights := c.flights.map fun g => if g.id == id then f g else g }

/-- The scope of an ORD field (R127): none, or an acquire or release at scope ORD − 1. -/
def ordScope (o : BitVec 3) : Option (BitVec 3) := if o = 0 then none else some (o - 1)

/-! ### The outside: scheduled events, cells, completions -/

/-- An event inserted in order of time, after those of its own time. -/
def insertSched (t : Nat) (i : Instr) : List (Nat × Instr) → List (Nat × Instr)
  | [] => [(t, i)]
  | (u, j) :: r => if t < u then (t, i) :: (u, j) :: r else (u, j) :: insertSched t i r

/-- An event `d` cycles from now. -/
def State.after (s : State) (d : Nat) (i : Instr) : State := { s with sched := insertSched (s.now + d) i s.sched }

/-- Something that leaves a stack for a peer waits at its station, by class (R289): 0 load and store, 1 copy,
2 collective. A cell for a peer without a route is dropped at once (R377). -/
def State.sendFor (s : State) (o : Option Nat) (t cls weight dst : Nat) (m : Out) : State :=
  if s.gone.contains dst then s
  else s.updStack t fun x => { x with inject := x.inject ++ [{ core := o, cls := cls, weight := weight, dst := dst, msg := m }] }

/-- As `State.sendFor`, for no core. -/
def State.send (s : State) (t cls weight dst : Nat) (m : Out) : State := s.sendFor none t cls weight dst m

/-- The weight of a class in an `ARBW` value (R164). -/
def arbWeight (w : Dword) (cls : Nat) : Nat := fld w (16 - 8 * cls) 8

/-- A message from context `k` of core `n` to a peer, in the load and store class. -/
def State.sendFrom (s : State) (n k dst : Nat) (m : Out) : State :=
  s.sendFor (some n) (stackOf n) 0 (arbWeight (s.ctx n k).arch.csr.arbw 0) dst m

/-- A message of the running word's context. -/
def State.sendMine (s : State) (dst : Nat) (m : Out) : State := s.sendFrom s.act.core s.act.ctx dst m

/-! ### Routes (R280, R281, R283, R285) -/

/-- Hops from place `a` clockwise to place `b` of a ring of `n` stations. -/
def cwHops (n a b : Nat) : Nat := (b + n - a % n) % n

/-- The direction of fewer hops on a ring, ties clockwise (R283). -/
def turn (n a b : Nat) : BitVec 1 := if cwHops n a b ≤ cwHops n b a then 0 else 1

/-- Whether a peer is a host adapter of the peer table (R281). -/
def isAdapter (p : Nat) : Bool := Config.adapters.any fun a => a.toNat == p

/-- The bridge that a cell of an adaptive channel takes from stack `t` (R283): the nearest in hops, the lower of two; bridge 0 to and
from an adapter (R281). -/
def bridgeOf (dst src : Nat) : Nat :=
  let t := src % 8
  if isAdapter dst || isAdapter src then 0 else if t % 2 = 0 then t / 2 else if t = 7 then 0 else t / 2

/-- The direction in which a cell of an adaptive channel leaves its station: towards its stack, or towards its bridge beside stack
2b (R7, R283). -/
def firstTurn (dst src : Nat) : BitVec 1 :=
  if dst / 8 = src / 8 then turn 8 (src % 8) (dst % 8) else turn 8 (src % 8) (2 * bridgeOf dst src)

/-- Whether a package slot of a rack is occupied by a package. -/
def slotPresent (rack slot : Nat) : Bool :=
  decide (rack * 32 + slot = Config.pkg) || (List.range 8).any fun t => Config.peerPresent (rack * 256 + slot * 8 + t)

/-- Whether a rack holds a package. -/
def rackPresent (rack : Nat) : Bool := (List.range 32).any fun x => slotPresent rack x

/-- The number under which a peer's station stands on the rack rings: its package's slot, and of an adapter its place in the slot. -/
def rackStation (p : Nat) : Nat := if isAdapter p then p % 256 else p % 256 / 8 * 8

/-- The row bridge's number on a rack ring. -/
def rowBridge : Nat := 256

/-- The stations of rack ring `b` of a rack, in order (R280, R281): its packages and, on ring 0, each of its adapters, by slot, then the
row bridge of a rack in a row. DESIGN CHOICE (log 69): the rack belongs to a row where another rack holds a present package. -/
def rackStations (rack b : Nat) : List Nat :=
  ((List.range 32).flatMap fun x =>
    if slotPresent rack x then [8 * x]
    else if b = 0 then ((List.range 8).filter fun t => isAdapter (rack * 256 + 8 * x + t)).map fun t => 8 * x + t
    else []) ++
    (if (List.range 16).any (fun r => r != rack && rackPresent r) then [rowBridge] else [])

/-- The stations of a row ring: the racks present (R280). -/
def rowStations (rack : Nat) : List Nat := (List.range 16).filter fun r => r == rack || rackPresent r

/-- The direction of fewer hops between two stations of a ring whose stations stand in order. -/
def turnOn (l : List Nat) (a b : Nat) : BitVec 1 :=
  turn (max 1 l.length) (l.findIdx fun x => x == a) (l.findIdx fun x => x == b)

/-- The direction in which a cell leaves the package on rack ring `b` (R283): to its station, or to the row bridge. -/
def rackTurn (dst src b : Nat) : BitVec 1 :=
  turnOn (rackStations (src / 256) b) (rackStation src) (if dst / 256 = src / 256 then rackStation dst else rowBridge)

/-- The direction of a cell on the row ring between two racks (R283). -/
def rowTurn (dst src : Nat) : BitVec 1 := turnOn (rowStations (src / 256)) (src / 256) (dst / 256)

/-- The direction on rack ring `b` of the destination's rack: from the row bridge (R283). -/
def downTurn (dst b : Nat) : BitVec 1 := turnOn (rackStations (dst / 256) b) rowBridge (rackStation dst)

/-- The route that R283 gives between two peers, as an endpoint keeps it (R288): bridge in bits 1:0, then the direction on the source
package ring, the source rack ring, the row ring, the destination's rack ring and its package ring. -/
def routeOf (dst src : Nat) : BitVec 7 :=
  let b := bridgeOf dst src
  BitVec.ofNat 7 (b + 4 * (firstTurn dst src).toNat + 8 * (rackTurn dst src b).toNat + 16 * (rowTurn dst src).toNat +
    32 * (downTurn dst b).toNat + 64 * (turn 8 (2 * b) (dst % 8)).toNat)

/-- The time of a way on a package ring, cc (R281): entry and exit, 4 bc each, and 2 bc a hop. -/
def ringTime (dir : BitVec 1) (dst src : Nat) : Nat :=
  ((8 + 2 * (if dir = 0 then cwHops 8 (src % 8) (dst % 8) else cwHops 8 (dst % 8) (src % 8))) * 3 + 1) / 2

/-- The highest level of a route (R282): 0 package, 1 rack, 2 row. -/
def levelOf (dst src : Nat) : BitVec 2 := if dst / 8 = src / 8 then 0 else if dst / 256 = src / 256 then 1 else 2

/-- A ring cell with its fields of R282, on its adaptive channel's route. -/
def ringCell (dst src du ty : Nat) (addr : Nat) (tag : Nat) (payload : List Byte) : RingCell :=
  { dst := BitVec.ofNat 12 dst, src := BitVec.ofNat 12 src, du := BitVec.ofNat 8 du, ty := BitVec.ofNat 4 ty,
    vc := if ty = 1 ∨ ty = 5 ∨ ty = 8 then 1 else 0, dir := firstTurn dst src, lvl := levelOf dst src,
    rfs := 0, bc := false, ret := false, len := BitVec.ofNat 9 payload.length, addr := BitVec.ofNat 45 addr,
    tag := BitVec.ofNat 16 tag, xt := 0, stat := 0, payload := payload
    ring := if dst / 8 = src / 8 then 0 else BitVec.ofNat 2 (bridgeOf dst src), passes := 0 }

/-- A cell sent on from the station of a peer: the level, ring and direction are those of its way from there (R283). -/
def cellFrom (c : RingCell) (src : Nat) : RingCell :=
  { c with lvl := levelOf c.dst.toNat src, dir := firstTurn c.dst.toNat src
           ring := if c.dst.toNat / 8 = src / 8 then 0 else BitVec.ofNat 2 (bridgeOf c.dst.toNat src) }

/-- A cell as it goes on the escape channel: clockwise, by bridge 0 (R285). -/
def escapeCell (c : RingCell) : RingCell := { c with vc := 2, dir := 0, ring := 0, passes := 0 }

/-- A channel word, or the acknowledgement of one, from an endpoint to another (R282 TYPE 7 and 8, R288), on the route that the
binding fixed: DU, ADDR and TAG name the endpoint and number the word, XT names the sender and carries the route (log 22). -/
def chanCell (dst src : EndRef) (ty : Nat) (num : BitVec 5) (route : BitVec 7) (payload : List Byte) : RingCell :=
  { ringCell dst.who.peer src.who.peer dst.who.core ty (dst.who.ctx % 4 + 4 * (dst.ep % 8)) num.toNat payload with
    dir := BitVec.ofNat 1 (fld route 2 1)
    ring := if dst.who.peer / 8 = src.who.peer / 8 then 0 else BitVec.ofNat 2 (fld route 0 2)
    xt := BitVec.ofNat 96 (src.who.core % 256 + 256 * (src.who.ctx % 4) + 1024 * (src.ep % 8) + 2 ^ 16 * route.toNat) }

/-- A completion of a firmware command, or a notice (R309): TYPE 13, a 16-byte header and the result bytes. -/
def Out.completion (peer : BitVec 12) (cmd : BitVec 8) (seq : BitVec 32) (st : BitVec 8) (res : Dword) (data : List Byte) : Out :=
  .cell (ringCell peer.toNat (peerOf 0) 196 13 0 0
    (leBytes 16 (seq.toNat + 2 ^ 32 * cmd.toNat + 2 ^ 48 * data.length + 2 ^ 56 * st.toNat + 2 ^ 64 * res.toNat) ++ data))

/-- Something leaves the package. -/
def State.emit (s : State) (o : Out) : State := { s with outbox := s.outbox ++ [o] }

/-! ### Arrival -/

/-- The next position of a package ring in the direction of a cell. -/
def nextStop (c : RingCell) (pos : Nat) : Nat := if c.dir = 0 then (pos % 8 + 1) % 8 else (pos % 8 + 7) % 8

/-- The endpoint for which a TYPE 7 or 8 cell is (log 22). -/
def cellEnd (c : RingCell) : EndRef :=
  { who := { peer := c.dst.toNat, core := c.du.toNat, ctx := fld c.addr 0 2 }, ep := fld c.addr 2 3 }

/-- The endpoint that sent it. -/
def cellBy (c : RingCell) : EndRef :=
  { who := { peer := c.src.toNat, core := fld c.xt 0 8, ctx := fld c.xt 8 2 }, ep := fld c.xt 10 3 }

/-- The event that a cell is where it arrives (R282); a firmware command cell goes to the command port (R309). -/
def arrivalOf (c : RingCell) : Option Instr :=
  match c.ty.toNat with
  | 0 => some (.readRequest c true)
  | 1 => some (.readResponse ⟨c, true⟩)
  | 2 => some (.write c true)
  | 3 => some (.byteMaskedWrite c true)
  | 4 => some (.atomicRequest c true)
  | 5 => some (.writeResponse ⟨c, true⟩)
  | 6 => some (.signal ⟨c, true⟩)
  | 7 => some (.channelWord ⟨cellEnd c, cellBy c⟩ (BitVec.ofNat 5 c.tag.toNat) (BitVec.ofNat 64 (leNat (c.payload.take 8))))
  | 8 => some (.channelAcknowledgement ⟨c, true⟩)
  | 9 => some (.copyOrGatherData ⟨c, true⟩)
  | 10 => some (.collectiveChunk ⟨c, true⟩)
  | 11 => some (.broadcastData c (if c.bc then nextStop c c.src.toNat else c.dst.toNat % 8) true)
  | 12 => some (if c.du = 197 then .takeToken ⟨c, true⟩ else .takeReturn ⟨c, true⟩)
  | 14 => some (if c.xt.getLsbD 28 then .collectiveDrop ⟨c, true⟩ else .collectiveStatus ⟨c, true⟩)
  | _ => none

/-- A cell that arrives in this package some time on: a command cell for the management processor stands at the command port (R309). -/
def State.arriveCell (s : State) (d : Nat) (c : RingCell) : State :=
  match arrivalOf c with
  | some i => s.after d i
  | none =>
    if c.ty = 13 ∧ c.du = 196 then { s with fw := { s.fw with port := s.fw.port ++ [(s.now + d, c)] } } else s

/-! ### Segments (R375) -/

/-- A segment's record. -/
def State.seg (s : State) (g : SegRef) : Seg := (s.segs.find? fun x => x.ref == g).getD { ref := g, fails := 0, down := false }

/-- Whether a segment is down. -/
def State.segDown (s : State) (lvl ring pos : Nat) : Bool := (s.seg { lvl := lvl, ring := ring, pos := pos }).down

/-- Whether a segment of a ring is down, so that its escape channel runs anticlockwise. -/
def State.ringDown (s : State) (lvl ring : Nat) : Bool := s.segs.any fun x => x.down && x.ref.lvl == lvl && x.ref.ring == ring

/-- The direction of the escape channel of a ring (R285, R375). -/
def State.escapeDir (s : State) (lvl ring : Nat) : BitVec 1 := if s.ringDown lvl ring then 1 else 0

/-- The stations at whose clockwise side the segments of a way lie: from station `a` to `b` of a ring in a direction. -/
def wayOn (l : List Nat) (dir : BitVec 1) (a b : Nat) : List Nat :=
  let n := max 1 l.length
  let i := l.findIdx fun x => x == a
  let j := l.findIdx fun x => x == b
  if dir = 0 then (List.range (cwHops n i j)).map fun h => l.getD ((i + h) % n) 0
  else (List.range (cwHops n j i)).map fun h => l.getD ((j + h) % n) 0

/-- The direction that a cell takes on a ring: an escape cell that of its channel, an adaptive one its own, or the other where a
segment of its way is down (R375). -/
def State.steer (s : State) (c : RingCell) (lvl ring : Nat) (l : List Nat) (dir : BitVec 1) (a b : Nat) : BitVec 1 :=
  if c.vc = 2 then s.escapeDir lvl ring
  else if (wayOn l dir a b).any fun p => s.segDown lvl ring (if lvl = 1 then p / 8 else p) then ~~~dir else dir

/-- The rack ring of this package's rack that has a number. -/
def ownRack (b : Nat) : Nat := Config.pkg / 32 * 4 + b

/-- The slot before this package's on rack ring `b`. -/
def slotBefore (b : Nat) : Nat :=
  let l := rackStations (Config.pkg / 32) b
  l.getD ((l.findIdx (fun x => x == Config.pkg % 32 * 8) + l.length - 1) % max 1 l.length) 0 / 8

/-- Whether bridge `b` of this package has a down link: a segment of its rack ring beside the package (DEDUCED from R375, log 70). -/
def State.bridgeDown (s : State) (b : Nat) : Bool :=
  s.segDown 1 (ownRack b) (Config.pkg % 32) || s.segDown 1 (ownRack b) (slotBefore b)

/-- The bridge that takes the place of bridge `b`: itself, or with a down link the next (R375). -/
def State.bridgeFor (s : State) (b : Nat) : Nat := if s.bridgeDown b then (b + 1) % 4 else b

/-- A cell leaving the package: its ring, and its direction there (R283, R285, R288, R375). -/
def State.leaving (s : State) (c : RingCell) : RingCell :=
  let b := s.bridgeFor c.ring.toNat
  let dir := if c.ty = 7 ∨ c.ty = 8 then BitVec.ofNat 1 (fld c.xt 19 1) else rackTurn c.dst.toNat c.src.toNat b
  { c with ring := BitVec.ofNat 2 b
           dir := s.steer c 1 (ownRack b) (rackStations (Config.pkg / 32) b) dir (Config.pkg % 32 * 8)
             (if c.dst.toNat / 256 = Config.pkg / 32 then rackStation c.dst.toNat else rowBridge) }

/-- A cell on this package's ring from stack `t`, in its direction there. -/
def State.onRing (s : State) (t : Nat) (c : RingCell) : RingCell :=
  { c with dir := s.steer c 0 Config.pkg (List.range 8) c.dir (t % 8) (c.dst.toNat % 8) }

/-- Segments that a cell has crossed well: their failures are no longer consecutive (R375). -/
def State.crossed (s : State) (t : Nat) (c : RingCell) : State :=
  let w := wayOn (List.range 8) c.dir (t % 8) (c.dst.toNat % 8)
  { s with segs := s.segs.map fun x =>
      if x.ref.lvl = 0 ∧ x.ref.ring = Config.pkg ∧ w.contains x.ref.pos ∧ x.down = false then { x with fails := 0 } else x }

/-- A firmware completion (R309). -/
def State.complete (s : State) (q : HostCmd) (cmd st : Nat) (res : Nat) (data : List Byte) : State :=
  s.emit (.completion q.peer (BitVec.ofNat 8 cmd) q.seq (BitVec.ofNat 8 st) (BitVec.ofNat 64 res) data)

/-- The boot host peer: the one named in flash, else the lowest adapter on rack ring 0 of the package's own rack (R315). -/
def bootPeer : Option (BitVec 12) :=
  Config.bootHost.orElse fun _ => (((Config.adapters.map fun a => a.toNat).filter fun a => a / 256 == Config.pkg / 32).min?).map fun a => BitVec.ofNat 12 a

/-- The boot host peer as the firmware knows it (R315). -/
def State.bootHost (s : State) : Option (BitVec 12) := bootPeer.orElse fun _ => s.fw.boot

/-- A notice to the boot host peer (R365, R375, R391). -/
def State.notice (s : State) (cmd res : Nat) : State :=
  match s.bootHost with
  | none => s
  | some p => s.emit (.completion p (BitVec.ofNat 8 cmd) 0 2 (BitVec.ofNat 64 res) [])

/-- The next free value (log 9), and the counter moved on. -/
def State.freeVal (s : State) : Dword × State := (Config.freeWord s.free, { s with free := s.free + 1 })

/-! ### Lifetime counters (R395) -/

/-- One entry of a region raised by `n`, saturating at `top`. -/
def bump (top : Nat) (key : Nat × Nat) (n : Nat) : List ((Nat × Nat) × Nat) → List ((Nat × Nat) × Nat)
  | [] => [(key, min n top)]
  | (j, v) :: r => if j = key then (j, min (v + n) top) :: r else (j, v) :: bump top key n r

/-- A counter of `w` bits at its largest value where it would pass it (R395). -/
def saturate (w n : Nat) : Nat := min n (2 ^ w - 1)

/-- A lifetime counter of the record in SRAM raised by 1: 64-bit in region 2, 32-bit elsewhere. -/
def State.lifeCount (s : State) (region entry : Nat) : State :=
  let top := if region = 2 then 2 ^ 64 - 1 else 2 ^ 32 - 1
  { s with life := { s.life with sram := { s.life.sram with counts := bump top (region, entry) 1 s.life.sram.counts } } }

/-- An event-log entry (R395, R396): VAL, CODE, ply, package core number and peer. -/
def State.lifeLog (s : State) (val code ply pcn peer : Nat) : State :=
  let r := s.life.sram
  let e := val % 2 ^ 64 * 2 ^ 192 + r.secs % 2 ^ 64 * 2 ^ 128 + code % 256 * 2 ^ 32 + ply % 4 * 2 ^ 27 + pcn % 2 ^ 11 * 2 ^ 16 + peer % 2 ^ 12
  { s with life := { s.life with sram :=
      { r with logn := saturate 32 (r.logn + 1), log := assocSet (r.logn % 256) (BitVec.ofNat 256 e) r.log } } }

/-! ### Refusals (R284, R285, R378) -/

/-- One circulation of a package ring, cc: 8 hops of 2 bc (R281). -/
def ringRound : Nat := 24

/-- The station that inserted a cell into this package's ring (R284): its originator's, or that of the bridge by which it came. -/
def insertedAt (c : RingCell) : SegRef :=
  { lvl := 0, ring := Config.pkg, pos := if c.src.toNat / 8 = Config.pkg then c.src.toNat % 8 else 2 * c.ring.toNat }

/-- The 0x82 notice (R375): event, direction, level and reporting peer; a segment down and an unreachable peer enter the
event log with the RES of the notice and the peer at which it occurred (R395). -/
def State.fabricNotice (s : State) (event dir lvl by_ at_ : Nat) : State :=
  let res := event + 2 ^ 4 * dir + 2 ^ 5 * lvl + 2 ^ 16 * by_
  (if event = 3 then s else s.lifeLog res (event + 4) 0 0 at_).notice 0x82 res

/-- The types of the cells that carry an access or a command's data and await an answer (R377). -/
def isRequest (c : RingCell) : Bool := c.ty == 0 || c.ty == 2 || c.ty == 3 || c.ty == 4 || c.ty == 9 || c.ty == 12

/-- Whether a cell carries an access of this package whose answer is awaited: no response, and no cell under another's tag. -/
def State.carries (s : State) (c : RingCell) : Bool :=
  isRequest c && s.reqs.any fun r => r.tag == c.tag && r.cell.ty == c.ty && r.cell.src == c.src

/-- An escape cell removed after 1024 passes (R378): the access it carried is unreachable. -/
def State.removedHere (s : State) (c : RingCell) : State :=
  (if s.carries c then s.after 0 (.destinationUnreachable c.tag) else s).fabricNotice 3 c.dir.toNat 0
    (peerOf (insertedAt c).pos) (peerOf (insertedAt c).pos)

/-- A returned cell at the station that inserted it (R284): taken out, and on the escape channel with RFS cleared. -/
def State.escapeAt (s : State) (g : SegRef) (c : RingCell) : RingCell :=
  { escapeCell c with rfs := 0, ret := false, dir := s.escapeDir g.lvl g.ring }

/-- A refused cell (R284, R285, R378): it comes again after one more circulation; at the second refusal it goes back to the station
that inserted it, which sends it on the escape channel; there it circulates until its 1024th pass. -/
def State.refuse (s : State) (c : RingCell) : State :=
  let s1 := s.updStack (c.dst.toNat % 8) fun t => t.count 9 1
  let g := insertedAt c
  if c.vc = 2 then (if 1024 ≤ c.passes + 1 then s1.removedHere c else s1.arriveCell ringRound { c with passes := c.passes + 1 })
  else if c.rfs = 0 then s1.arriveCell ringRound { c with rfs := 1 }
  else
    let y := s1.escapeAt g c
    (s1.updStack g.pos fun t => t.count 10 1).arriveCell
      (ringTime c.dir (peerOf g.pos) c.dst.toNat + ringTime y.dir c.dst.toNat (peerOf g.pos)) y

end Sys2Proof.Machine
end

