-- ==== Sys2Proof/Machine/Operands.lean ====
section
/-!
DEFINITION. Operand forms: what each word reads and writes (`Instr.info`), address streams, the queue sources and
destinations of R80, R83, R223 and R226, random bits, and the tests by which an engine waits for rows and room.
-/

namespace Sys2Proof.Machine

/-! ### What a word reads and writes -/

/-- Where a word's address comes from (R127, R175). -/
inductive AddrSrc where
  | none
  | reg (r : BitVec 5)
  | stream (n : BitVec 4)
  deriving DecidableEq, Repr

/-- AS and BA (R127). -/
def addrOf (as : BitVec 1) (ba : BitVec 5) : AddrSrc := if as = 0 then .reg ba else .stream (ba.setWidth 4)

/-- The queues D, D + 1, … of a multi-plane transfer, one for each bit of QM (R127, R185). -/
def planeQueues (d : BitVec 5) (qm : BitVec 4) : List (BitVec 5) :=
  (List.range (popCount 4 qm.toNat)).map fun k => d + BitVec.ofNat 5 k

/-- The operands of a word: scalar sources in the order they are captured, the address, the scalar and predicate
destinations, the stream, loop level and CSR it reads or writes (R336), its vector sources (peek bit and queue, an
accumulated destination last, R224), destination queues and rows per destination, index and weight queues, lane
masks, scale queue destination, random rows, and lane-pool width (R222). -/
structure Info where
  srcs : List (BitVec 5) := []
  addr : AddrSrc := .none
  dst : Option (BitVec 5) := none
  psrc : List (BitVec 4) := []
  pdst : Option (BitVec 4) := none
  strR : Option (BitVec 4) := none
  strW : Option (BitVec 4) := none
  lvW : Option (BitVec 3) := none
  csrR : Option Nat := none
  csrW : Option Nat := none
  vsrc : List (Bool × BitVec 5) := []
  vdst : List (BitVec 5) := []
  rows : Nat := 1
  acc : Bool := false
  idxq : Option (BitVec 5) := none
  wq : Option (BitVec 5) := none
  mr : List (BitVec 3) := []
  mw : Option (BitVec 3) := none
  kdst : Option (BitVec 3) := none
  rq : Bool := false
  width : Nat := 0

/-- The operands of every word (R123 to R132, R140 to R174, R180, R188, R212, R228, R247, R203). -/
def info : Instr → Info
  | .nopS _ _ => {}
  | .add _ _ d a b => { dst := some d, srcs := [a, b] }
  | .sub _ _ d a b => { dst := some d, srcs := [a, b] }
  | .mul _ _ d a b => { dst := some d, srcs := [a, b] }
  | .mulh _ _ d a b => { dst := some d, srcs := [a, b] }
  | .mulhu _ _ d a b => { dst := some d, srcs := [a, b] }
  | .div _ _ d a b => { dst := some d, srcs := [a, b] }
  | .divu _ _ d a b => { dst := some d, srcs := [a, b] }
  | .rem _ _ d a b => { dst := some d, srcs := [a, b] }
  | .and _ _ d a b => { dst := some d, srcs := [a, b] }
  | .or _ _ d a b => { dst := some d, srcs := [a, b] }
  | .xor _ _ d a b => { dst := some d, srcs := [a, b] }
  | .andn _ _ d a b => { dst := some d, srcs := [a, b] }
  | .shl _ _ d a b => { dst := some d, srcs := [a, b] }
  | .shr _ _ d a b => { dst := some d, srcs := [a, b] }
  | .sar _ _ d a b => { dst := some d, srcs := [a, b] }
  | .min _ _ d a b => { dst := some d, srcs := [a, b] }
  | .max _ _ d a b => { dst := some d, srcs := [a, b] }
  | .minu _ _ d a b => { dst := some d, srcs := [a, b] }
  | .maxu _ _ d a b => { dst := some d, srcs := [a, b] }
  | .clz _ _ d a => { dst := some d, srcs := [a] }
  | .popc _ _ d a => { dst := some d, srcs := [a] }
  | .sel _ _ d a b => { dst := some d, srcs := [a, b, d] }
  | .addi _ _ d a _ => { dst := some d, srcs := [a] }
  | .andi _ _ d a _ => { dst := some d, srcs := [a] }
  | .ori _ _ d a _ => { dst := some d, srcs := [a] }
  | .xori _ _ d a _ => { dst := some d, srcs := [a] }
  | .shli _ _ d a _ => { dst := some d, srcs := [a] }
  | .shri _ _ d a _ => { dst := some d, srcs := [a] }
  | .sari _ _ d a _ => { dst := some d, srcs := [a] }
  | .lim _ _ d _ => { dst := some d }
  | .lims _ _ d _ => { dst := some d, srcs := [d] }
  | .cmp _ _ d _ a b => { pdst := some d, srcs := [a, b] }
  | .cmpi _ _ d _ a _ => { pdst := some d, srcs := [a] }
  | .pand _ _ d a b => { pdst := some d, psrc := [a, b] }
  | .por _ _ d a b => { pdst := some d, psrc := [a, b] }
  | .pxor _ _ d a b => { pdst := some d, psrc := [a, b] }
  | .pandn _ _ d a b => { pdst := some d, psrc := [a, b] }
  | .pnot _ _ d a => { pdst := some d, psrc := [a] }
  | .bfx _ _ d a _ _ => { dst := some d, srcs := [a] }
  | .bfi _ _ d a _ _ => { dst := some d, srcs := [a, d] }
  | .padr _ _ d a _ => { dst := some d, srcs := [a] }
  | .pcrel _ _ d _ => { dst := some d }
  | .br _ _ _ => {}
  | .call _ _ _ => { dst := some 31 }
  | .jmpr _ _ a => { srcs := [a] }
  | .loop _ _ v s _ => { srcs := [s], lvW := some v }
  | .lexit _ _ v => { lvW := some v }
  | .wsel _ _ _ _ _ _ _ => {}
  | .sig _ _ _ a => { srcs := [a] }
  | .syncd _ _ _ => {}
  | .yield _ _ => {}
  | .retire _ _ => {}
  | .fork _ _ a b c => { dst := some a, srcs := [b, c] }
  | .csrr _ _ d n => { dst := some d, csrR := some n.toNat }
  | .csrw _ _ a n => { srcs := [a], csrW := some n.toNat }
  | .csrs _ _ a n => { srcs := [a], csrW := some n.toNat, csrR := some n.toNat }
  | .csrc _ _ a n => { srcs := [a], csrW := some n.toNat, csrR := some n.toNat }
  | .trap _ _ _ => {}
  | .rte _ _ => {}
  | .brk _ _ _ => {}
  | .qcfg _ _ _ _ _ => {}
  | .qcfgKeep _ _ _ _ _ => {}
  | .qrel _ _ _ => {}
  | .qstat _ _ d _ => { dst := some d }
  | .aset _ _ n a => { srcs := [a], strW := some n }
  | .adim _ _ n _ s b _ => { srcs := [s, b], strW := some n }
  | .aget _ _ d n _ => { dst := some d, strR := some n }
  | .mbxr _ _ d _ => { dst := some d }
  | .mbxw _ _ a _ => { srcs := [a] }
  | .pcrt _ _ a b c _ => { srcs := [a, b, c] }
  | .pdel _ _ a _ => { srcs := [a] }
  | .pprt _ _ a _ _ _ => { srcs := [a] }
  | .chbind _ _ _ a => { srcs := [a] }
  | .chrd _ _ d _ => { dst := some d }
  | .chwr _ _ a _ => { srcs := [a] }
  | .idle _ _ _ _ _ _ _ _ => {}
  | .nopL _ _ => {}
  | .lds _ _ s d b _ _ _ => { dst := some d, addr := addrOf s b }
  | .ldg _ _ s d b _ _ _ => { dst := some d, addr := addrOf s b }
  | .ldv _ _ s d b _ => { vdst := [d], addr := addrOf s b }
  | .ldvt _ _ s d b _ => { vdst := [d], addr := addrOf s b }
  | .lgv _ _ s d b _ _ => { vdst := [d], addr := addrOf s b }
  | .pld _ _ d n _ _ m => { addr := .stream (n.setWidth 4), vdst := planeQueues d m }
  | .tld _ _ d k c _ _ _ => { srcs := [k, c], vdst := [d] }
  | .ldx _ _ s d b i _ => { vdst := [d], addr := addrOf s b, idxq := some i }
  | .nopT _ _ => {}
  | .sts _ _ s d b _ _ _ => { srcs := [d], addr := addrOf s b }
  | .stg _ _ s d b _ _ _ => { srcs := [d], addr := addrOf s b }
  | .stv _ _ s d b _ => { vsrc := [(false, d)], addr := addrOf s b }
  | .sgv _ _ s d b e m _ => { vsrc := [(false, d)], addr := addrOf s b, mr := if e = 1 then [m] else [] }
  | .pst _ _ d n _ m => { addr := .stream (n.setWidth 4), vsrc := (planeQueues d m).map fun y => (false, y) }
  | .tst _ _ d k c _ _ _ => { srcs := [k, c], vsrc := [(false, d)] }
  | .stx _ _ s d b i _ => { vsrc := [(false, d), (false, i)], addr := addrOf s b, idxq := some i }
  | .atom _ _ a d b s _ => { srcs := if a = 9 then [s, d] else [s], addr := .reg b, dst := some d }
  | .redv _ _ s d b _ _ => { vsrc := [(false, d)], addr := addrOf s b }
  | .sigst _ _ s d b _ _ => { srcs := [d], addr := addrOf s b }
  | .fence _ _ _ => {}
  | .fencex _ _ _ _ _ => {}
  | .drain _ _ _ => {}
  | .cpy _ _ a b c => { srcs := [a, b, c] }
  | .coll _ _ a b c _ _ => { srcs := [a, b, c] }
  | .gath _ _ a b c => { srcs := [a, b, c] }
  | .take _ _ a _ => { dst := some a }
  | .arrw _ _ a b _ => { srcs := [a, b] }
  | .nopM _ _ => {}
  | .mlw _ _ q _ => { wq := some q }
  | .mswp _ _ => {}
  | .mma _ _ q _ => { vsrc := [(false, q)] }
  | .mmac _ _ q c _ => { vsrc := [(false, q), (false, c)] }
  | .mchn _ _ a => { srcs := [a] }
  | .mdrn _ _ => {}
  | .msts _ _ d => { dst := some d }
  | .mzer _ _ => {}
  | .nopAb _ _ => {}
  | .vadd _ _ w _ d j a k b => { vsrc := [(j == 1, a), (k == 1, b)], vdst := [d], width := rowWidth w }
  | .vsub _ _ w _ d j a k b => { vsrc := [(j == 1, a), (k == 1, b)], vdst := [d], width := rowWidth w }
  | .vmul _ _ w _ d j a k b => { vsrc := [(j == 1, a), (k == 1, b)], vdst := [d], width := rowWidth w }
  | .vfma _ _ w _ d j a k b => { acc := true, vsrc := [(j == 1, a), (k == 1, b), (false, d)], vdst := [d], width := rowWidth w }
  | .vfms _ _ w _ d j a k b => { acc := true, vsrc := [(j == 1, a), (k == 1, b), (false, d)], vdst := [d], width := rowWidth w }
  | .vmin _ _ w _ d j a k b => { vsrc := [(j == 1, a), (k == 1, b)], vdst := [d], width := rowWidth w }
  | .vmax _ _ w _ d j a k b => { vsrc := [(j == 1, a), (k == 1, b)], vdst := [d], width := rowWidth w }
  | .vabs _ _ w _ d j a => { vsrc := [(j == 1, a)], vdst := [d], width := rowWidth w }
  | .vneg _ _ w _ d j a => { vsrc := [(j == 1, a)], vdst := [d], width := rowWidth w }
  | .vcmp _ _ w _ _ m j a k b => { vsrc := [(j == 1, a), (k == 1, b)], width := rowWidth w, mw := some m }
  | .vsel _ _ w _ d j a k b => { vsrc := [(j == 1, a), (k == 1, b)], vdst := [d], width := rowWidth w, mr := [0] }
  | .viadd _ _ w _ d j a k b => { vsrc := [(j == 1, a), (k == 1, b)], vdst := [d], width := rowWidth w }
  | .visub _ _ w _ d j a k b => { vsrc := [(j == 1, a), (k == 1, b)], vdst := [d], width := rowWidth w }
  | .vimul _ _ w _ d j a k b => { vsrc := [(j == 1, a), (k == 1, b)], vdst := [d], width := rowWidth w }
  | .vimac _ _ w _ d j a k b => { acc := true, vsrc := [(j == 1, a), (k == 1, b), (false, d)], vdst := [d], width := rowWidth w }
  | .vand _ _ w _ d j a k b => { vsrc := [(j == 1, a), (k == 1, b)], vdst := [d], width := rowWidth w }
  | .vor _ _ w _ d j a k b => { vsrc := [(j == 1, a), (k == 1, b)], vdst := [d], width := rowWidth w }
  | .vxor _ _ w _ d j a k b => { vsrc := [(j == 1, a), (k == 1, b)], vdst := [d], width := rowWidth w }
  | .vshl _ _ w _ d j a k b => { vsrc := [(j == 1, a), (k == 1, b)], vdst := [d], width := rowWidth w }
  | .vshr _ _ w _ d j a k b => { vsrc := [(j == 1, a), (k == 1, b)], vdst := [d], width := rowWidth w }
  | .vsar _ _ w _ d j a k b => { vsrc := [(j == 1, a), (k == 1, b)], vdst := [d], width := rowWidth w }
  | .vicmp _ _ w _ _ m j a k b => { vsrc := [(j == 1, a), (k == 1, b)], width := rowWidth w, mw := some m }
  | .vcvt _ _ w _ d j a _ _ _ => { vsrc := [(j == 1, a)], vdst := [d], width := rowWidth w }
  | .vqnt _ _ w _ d j a k b => { vsrc := [(j == 1, a), (k == 1, b)], vdst := [d], width := rowWidth w }
  | .vdq _ _ w _ d j a k b => { vsrc := [(j == 1, a)] ++ (if b = 30 then [(k == 1, b)] else []), vdst := [d], width := rowWidth w }
  | .vscl _ _ w _ d j a _ => { vsrc := [(j == 1, a)], vdst := [d], width := rowWidth w }
  | .vamax _ _ w _ d j a => { vsrc := [(j == 1, a)], vdst := [d], width := rowWidth w }
  | .vospl _ _ w _ d j a _ => { vsrc := [(j == 1, a)], vdst := [d, d + 1], width := rowWidth w }
  | .vaddsub _ _ w _ d j a k b => { acc := true, vsrc := [(j == 1, a), (k == 1, b), (false, d)], vdst := [d], width := rowWidth w }
  | .vunpk3 _ _ w _ d j a => { vsrc := [(j == 1, a)], vdst := [d], width := rowWidth w }
  | .vmov _ _ w d j a => { vsrc := [(j == 1, a)], vdst := [d], width := rowWidth w }
  | .vbcst _ _ w _ d j a _ => { vsrc := [(j == 1, a)], vdst := [d], width := rowWidth w }
  | .vext _ _ w _ d j a _ => { vsrc := [(j == 1, a)], vdst := [d], width := rowWidth w }
  | .vins _ _ w _ d j a _ => { acc := true, vsrc := [(j == 1, a), (false, d)], vdst := [d], width := rowWidth w }
  | .vperm _ _ w _ d j a k b => { vsrc := [(j == 1, a), (k == 1, b)], vdst := [d], width := rowWidth w }
  | .vsld _ _ w _ d j a _ => { vsrc := [(j == 1, a)], vdst := [d], width := rowWidth w }
  | .vzip _ _ w _ d j a k b => { vsrc := [(j == 1, a), (k == 1, b)], vdst := [d], width := rowWidth w, rows := 2 }
  | .vuzp _ _ w _ d j a k b => { vsrc := [(j == 1, a), (k == 1, b)], vdst := [d], width := rowWidth w, rows := 2 }
  | .vrsum _ _ w _ d j a => { vsrc := [(j == 1, a)], vdst := [d], width := rowWidth w }
  | .vrmax _ _ w _ d j a => { vsrc := [(j == 1, a)], vdst := [d], width := rowWidth w }
  | .vrnd _ _ w _ d j a => { vsrc := [(j == 1, a)], vdst := [d], width := rowWidth w }
  | .vdrp _ _ w _ d j a k b => { vsrc := [(j == 1, a), (k == 1, b)], vdst := [d], width := rowWidth w, rq := true }
  | .mand _ _ d a b => { width := 512, mr := [a, b], mw := some d }
  | .mor _ _ d a b => { width := 512, mr := [a, b], mw := some d }
  | .mnot _ _ d a => { width := 512, mr := [a], mw := some d }
  | .viota _ _ w _ d m => { vdst := [d], width := rowWidth w, mr := [m] }
  | .vmsk _ _ d _ => { width := 512, mw := some d }
  | .nopX _ _ => {}
  | .xexp2 _ _ w _ d j a => { vsrc := [(j == 1, a)], vdst := [d], width := rowWidth w }
  | .xlog2 _ _ w _ d j a => { vsrc := [(j == 1, a)], vdst := [d], width := rowWidth w }
  | .xrcp _ _ w _ d j a => { vsrc := [(j == 1, a)], vdst := [d], width := rowWidth w }
  | .xrsq _ _ w _ d j a => { vsrc := [(j == 1, a)], vdst := [d], width := rowWidth w }
  | .xsqrt _ _ w _ d j a => { vsrc := [(j == 1, a)], vdst := [d], width := rowWidth w }
  | .xtab _ _ w _ d j a _ => { vsrc := [(j == 1, a)], vdst := [d], width := rowWidth w }
  | .xtld _ _ w _ _ a => { vsrc := [(false, a)], width := rowWidth w }
  | .xcvt _ _ w _ d j a _ _ _ => { vsrc := [(j == 1, a)], vdst := [d], width := rowWidth w }
  | .nopK _ _ => {}
  | .kld _ _ q s b _ => { addr := addrOf s b, kdst := some q }
  | .ktab _ _ q s b => { addr := addrOf s b, kdst := some q }
  | .kset _ _ q b _ => { srcs := [b], kdst := some q }
  | .kout _ _ q s b _ => { addr := addrOf s b, kdst := some q }
  | .kskp _ _ q b _ => { srcs := [b], kdst := some q }
  | .krng _ _ b => { srcs := [b] }
  | .bundleDispatch _ => {}
  | .bundleRetire _ _ => {}
  | .contextSwitch _ => {}
  | .waitCounterRaise _ => {}
  | .freewheelWake _ => {}
  | .waitBundlePresent _ => {}
  | .landingPush _ _ => {}
  | .landingLateArrival _ _ => {}
  | .freezeTimeout _ => {}
  | .globalLoadReturn _ _ => {}
  | .scalePush _ _ => {}
  | .translationComplete _ _ => {}
  | .pagingComplete _ => {}
  | .planeAgentAnswer _ _ => {}
  | .faultTaken _ _ => {}
  | .asyncTrapTaken _ _ => {}
  | .queueWaitLimit _ _ _ => {}
  | .mlwStarved _ => {}
  | .mlwLoadStart _ => {}
  | .mlwComplete _ => {}
  | .matrixRowPush _ => {}
  | .tandemRowArrival _ _ => {}
  | .plyUpdate _ _ _ => {}
  | .plyFailure _ _ => {}
  | .weightParityError _ _ => {}
  | .uncorrectableError _ => {}
  | .domainArrival _ _ => {}
  | .mbrChange _ _ _ => {}
  | .domainBreakNotice _ _ => {}
  | .channelBreakNotice _ _ => {}
  | .brokenWait _ _ _ => {}
  | .probeSend _ _ => {}
  | .probeReceive _ _ => {}
  | .saveComplete _ _ => {}
  | .sigstNotify _ _ => {}
  | .collHead _ => {}
  | .collComplete _ => {}
  | .copyCommandStart _ _ _ => {}
  | .engineCommandFail _ _ => {}
  | .arrivalUpdate _ _ _ => {}
  | .takeReturn _ => {}
  | .networkQuiet _ => {}
  | .networkDrainTimeout _ => {}
  | .hostStationLost _ => {}
  | .readRequest _ _ => {}
  | .readResponse _ => {}
  | .write _ _ => {}
  | .byteMaskedWrite _ _ => {}
  | .atomicRequest _ _ => {}
  | .writeResponse _ => {}
  | .signal _ => {}
  | .channelWord _ _ _ => {}
  | .channelAcknowledgement _ => {}
  | .copyOrGatherData _ => {}
  | .collectiveChunk _ => {}
  | .broadcastData _ _ _ => {}
  | .broadcastReturn _ _ => {}
  | .takeToken _ => {}
  | .collectiveStatus _ => {}
  | .collectiveDrop _ => {}
  | .returnedCell _ _ => {}
  | .directionTimeout _ _ => {}
  | .cellCrcFail _ _ => {}
  | .segmentTrainedUp _ => {}
  | .requestReissue _ => {}
  | .destinationUnreachable _ => {}
  | .escapeCellRemoved _ _ => {}
  | .backInvalidate _ _ => {}
  | .cxlRequestFailed _ _ => {}
  | .cxlLinkLoss _ _ => {}
  | .counterHalving _ => {}
  | .swap _ _ _ => {}
  | .swapComplete _ _ _ => {}
  | .ident _ => {}
  | .attest _ _ _ => {}
  | .loadimg _ _ _ _ _ _ => {}
  | .psetdesc _ _ _ _ _ => {}
  | .ptroot _ _ _ => {}
  | .handle _ _ _ _ _ => {}
  | .launch _ _ _ _ _ => {}
  | .kill _ _ => {}
  | .preempt _ _ _ _ => {}
  | .resume _ _ _ _ => {}
  | .mbxwrite _ _ _ => {}
  | .flagset _ _ _ => {}
  | .cnconfig _ _ _ _ _ _ => {}
  | .cnsave _ _ _ _ => {}
  | .cnrestore _ _ _ _ => {}
  | .collcfg _ _ _ _ => {}
  | .arbset _ _ _ => {}
  | .ctrsel _ _ _ _ _ => {}
  | .ctrread _ _ _ _ => {}
  | .liferead _ _ _ _ _ => {}
  | .plystat _ _ => {}
  | .powercap _ _ _ _ => {}
  | .reset _ => {}
  | .powerOn => {}
  | .ring0Retrain _ => {}
  | .lifetimeSample _ _ => {}
  | .snapshotCommit => {}
  | .powerLoss => {}
  | .pipelineResult _ _ => {}
  | .rqRefill _ _ => {}
  | .spillSpaceAllocated _ _ _ => {}
  | .correctedError _ _ => {}
  | .droopEvent _ _ => {}
  | .portRetrained _ _ => {}

/-- The hold bit and the qualifying predicate of a word (R68). -/
def holdPred : Instr → BitVec 1 × BitVec 3
  | .nopS h p => (h, p)
  | .add h p _ _ _ => (h, p)
  | .sub h p _ _ _ => (h, p)
  | .mul h p _ _ _ => (h, p)
  | .mulh h p _ _ _ => (h, p)
  | .mulhu h p _ _ _ => (h, p)
  | .div h p _ _ _ => (h, p)
  | .divu h p _ _ _ => (h, p)
  | .rem h p _ _ _ => (h, p)
  | .and h p _ _ _ => (h, p)
  | .or h p _ _ _ => (h, p)
  | .xor h p _ _ _ => (h, p)
  | .andn h p _ _ _ => (h, p)
  | .shl h p _ _ _ => (h, p)
  | .shr h p _ _ _ => (h, p)
  | .sar h p _ _ _ => (h, p)
  | .min h p _ _ _ => (h, p)
  | .max h p _ _ _ => (h, p)
  | .minu h p _ _ _ => (h, p)
  | .maxu h p _ _ _ => (h, p)
  | .clz h p _ _ => (h, p)
  | .popc h p _ _ => (h, p)
  | .sel h p _ _ _ => (h, p)
  | .addi h p _ _ _ => (h, p)
  | .andi h p _ _ _ => (h, p)
  | .ori h p _ _ _ => (h, p)
  | .xori h p _ _ _ => (h, p)
  | .shli h p _ _ _ => (h, p)
  | .shri h p _ _ _ => (h, p)
  | .sari h p _ _ _ => (h, p)
  | .lim h p _ _ => (h, p)
  | .lims h p _ _ => (h, p)
  | .cmp h p _ _ _ _ => (h, p)
  | .cmpi h p _ _ _ _ => (h, p)
  | .pand h p _ _ _ => (h, p)
  | .por h p _ _ _ => (h, p)
  | .pxor h p _ _ _ => (h, p)
  | .pandn h p _ _ _ => (h, p)
  | .pnot h p _ _ => (h, p)
  | .bfx h p _ _ _ _ => (h, p)
  | .bfi h p _ _ _ _ => (h, p)
  | .padr h p _ _ _ => (h, p)
  | .pcrel h p _ _ => (h, p)
  | .br h p _ => (h, p)
  | .call h p _ => (h, p)
  | .jmpr h p _ => (h, p)
  | .loop h p _ _ _ => (h, p)
  | .lexit h p _ => (h, p)
  | .wsel h p _ _ _ _ _ => (h, p)
  | .sig h p _ _ => (h, p)
  | .syncd h p _ => (h, p)
  | .yield h p => (h, p)
  | .retire h p => (h, p)
  | .fork h p _ _ _ => (h, p)
  | .csrr h p _ _ => (h, p)
  | .csrw h p _ _ => (h, p)
  | .csrs h p _ _ => (h, p)
  | .csrc h p _ _ => (h, p)
  | .trap h p _ => (h, p)
  | .rte h p => (h, p)
  | .brk h p _ => (h, p)
  | .qcfg h p _ _ _ => (h, p)
  | .qcfgKeep h p _ _ _ => (h, p)
  | .qrel h p _ => (h, p)
  | .qstat h p _ _ => (h, p)
  | .aset h p _ _ => (h, p)
  | .adim h p _ _ _ _ _ => (h, p)
  | .aget h p _ _ _ => (h, p)
  | .mbxr h p _ _ => (h, p)
  | .mbxw h p _ _ => (h, p)
  | .pcrt h p _ _ _ _ => (h, p)
  | .pdel h p _ _ => (h, p)
  | .pprt h p _ _ _ _ => (h, p)
  | .chbind h p _ _ => (h, p)
  | .chrd h p _ _ => (h, p)
  | .chwr h p _ _ => (h, p)
  | .idle _ _ _ _ _ _ _ _ => (0, 0)
  | .nopL h p => (h, p)
  | .lds h p _ _ _ _ _ _ => (h, p)
  | .ldg h p _ _ _ _ _ _ => (h, p)
  | .ldv h p _ _ _ _ => (h, p)
  | .ldvt h p _ _ _ _ => (h, p)
  | .lgv h p _ _ _ _ _ => (h, p)
  | .pld h p _ _ _ _ _ => (h, p)
  | .tld h p _ _ _ _ _ _ => (h, p)
  | .ldx h p _ _ _ _ _ => (h, p)
  | .nopT h p => (h, p)
  | .sts h p _ _ _ _ _ _ => (h, p)
  | .stg h p _ _ _ _ _ _ => (h, p)
  | .stv h p _ _ _ _ => (h, p)
  | .sgv h p _ _ _ _ _ _ => (h, p)
  | .pst h p _ _ _ _ => (h, p)
  | .tst h p _ _ _ _ _ _ => (h, p)
  | .stx h p _ _ _ _ _ => (h, p)
  | .atom h p _ _ _ _ _ => (h, p)
  | .redv h p _ _ _ _ _ => (h, p)
  | .sigst h p _ _ _ _ _ => (h, p)
  | .fence h p _ => (h, p)
  | .fencex h p _ _ _ => (h, p)
  | .drain h p _ => (h, p)
  | .cpy h p _ _ _ => (h, p)
  | .coll h p _ _ _ _ _ => (h, p)
  | .gath h p _ _ _ => (h, p)
  | .take h p _ _ => (h, p)
  | .arrw h p _ _ _ => (h, p)
  | .nopM h p => (h, p)
  | .mlw h p _ _ => (h, p)
  | .mswp h p => (h, p)
  | .mma h p _ _ => (h, p)
  | .mmac h p _ _ _ => (h, p)
  | .mchn h p _ => (h, p)
  | .mdrn h p => (h, p)
  | .msts h p _ => (h, p)
  | .mzer h p => (h, p)
  | .nopAb h p => (h, p)
  | .vadd h p _ _ _ _ _ _ _ => (h, p)
  | .vsub h p _ _ _ _ _ _ _ => (h, p)
  | .vmul h p _ _ _ _ _ _ _ => (h, p)
  | .vfma h p _ _ _ _ _ _ _ => (h, p)
  | .vfms h p _ _ _ _ _ _ _ => (h, p)
  | .vmin h p _ _ _ _ _ _ _ => (h, p)
  | .vmax h p _ _ _ _ _ _ _ => (h, p)
  | .vabs h p _ _ _ _ _ => (h, p)
  | .vneg h p _ _ _ _ _ => (h, p)
  | .vcmp h p _ _ _ _ _ _ _ _ => (h, p)
  | .vsel h p _ _ _ _ _ _ _ => (h, p)
  | .viadd h p _ _ _ _ _ _ _ => (h, p)
  | .visub h p _ _ _ _ _ _ _ => (h, p)
  | .vimul h p _ _ _ _ _ _ _ => (h, p)
  | .vimac h p _ _ _ _ _ _ _ => (h, p)
  | .vand h p _ _ _ _ _ _ _ => (h, p)
  | .vor h p _ _ _ _ _ _ _ => (h, p)
  | .vxor h p _ _ _ _ _ _ _ => (h, p)
  | .vshl h p _ _ _ _ _ _ _ => (h, p)
  | .vshr h p _ _ _ _ _ _ _ => (h, p)
  | .vsar h p _ _ _ _ _ _ _ => (h, p)
  | .vicmp h p _ _ _ _ _ _ _ _ => (h, p)
  | .vcvt h p _ _ _ _ _ _ _ _ => (h, p)
  | .vqnt h p _ _ _ _ _ _ _ => (h, p)
  | .vdq h p _ _ _ _ _ _ _ => (h, p)
  | .vscl h p _ _ _ _ _ _ => (h, p)
  | .vamax h p _ _ _ _ _ => (h, p)
  | .vospl h p _ _ _ _ _ _ => (h, p)
  | .vaddsub h p _ _ _ _ _ _ _ => (h, p)
  | .vunpk3 h p _ _ _ _ _ => (h, p)
  | .vmov h p _ _ _ _ => (h, p)
  | .vbcst h p _ _ _ _ _ _ => (h, p)
  | .vext h p _ _ _ _ _ _ => (h, p)
  | .vins h p _ _ _ _ _ _ => (h, p)
  | .vperm h p _ _ _ _ _ _ _ => (h, p)
  | .vsld h p _ _ _ _ _ _ => (h, p)
  | .vzip h p _ _ _ _ _ _ _ => (h, p)
  | .vuzp h p _ _ _ _ _ _ _ => (h, p)
  | .vrsum h p _ _ _ _ _ => (h, p)
  | .vrmax h p _ _ _ _ _ => (h, p)
  | .vrnd h p _ _ _ _ _ => (h, p)
  | .vdrp h p _ _ _ _ _ _ _ => (h, p)
  | .mand h p _ _ _ => (h, p)
  | .mor h p _ _ _ => (h, p)
  | .mnot h p _ _ => (h, p)
  | .viota h p _ _ _ _ => (h, p)
  | .vmsk h p _ _ => (h, p)
  | .nopX h p => (h, p)
  | .xexp2 h p _ _ _ _ _ => (h, p)
  | .xlog2 h p _ _ _ _ _ => (h, p)
  | .xrcp h p _ _ _ _ _ => (h, p)
  | .xrsq h p _ _ _ _ _ => (h, p)
  | .xsqrt h p _ _ _ _ _ => (h, p)
  | .xtab h p _ _ _ _ _ _ => (h, p)
  | .xtld h p _ _ _ _ => (h, p)
  | .xcvt h p _ _ _ _ _ _ _ _ => (h, p)
  | .nopK h p => (h, p)
  | .kld h p _ _ _ _ => (h, p)
  | .ktab h p _ _ _ => (h, p)
  | .kset h p _ _ _ => (h, p)
  | .kout h p _ _ _ _ => (h, p)
  | .kskp h p _ _ _ => (h, p)
  | .krng h p _ => (h, p)
  | .bundleDispatch _ => (0, 0)
  | .bundleRetire _ _ => (0, 0)
  | .contextSwitch _ => (0, 0)
  | .waitCounterRaise _ => (0, 0)
  | .freewheelWake _ => (0, 0)
  | .waitBundlePresent _ => (0, 0)
  | .landingPush _ _ => (0, 0)
  | .landingLateArrival _ _ => (0, 0)
  | .freezeTimeout _ => (0, 0)
  | .globalLoadReturn _ _ => (0, 0)
  | .scalePush _ _ => (0, 0)
  | .translationComplete _ _ => (0, 0)
  | .pagingComplete _ => (0, 0)
  | .planeAgentAnswer _ _ => (0, 0)
  | .faultTaken _ _ => (0, 0)
  | .asyncTrapTaken _ _ => (0, 0)
  | .queueWaitLimit _ _ _ => (0, 0)
  | .mlwStarved _ => (0, 0)
  | .mlwLoadStart _ => (0, 0)
  | .mlwComplete _ => (0, 0)
  | .matrixRowPush _ => (0, 0)
  | .tandemRowArrival _ _ => (0, 0)
  | .plyUpdate _ _ _ => (0, 0)
  | .plyFailure _ _ => (0, 0)
  | .weightParityError _ _ => (0, 0)
  | .uncorrectableError _ => (0, 0)
  | .domainArrival _ _ => (0, 0)
  | .mbrChange _ _ _ => (0, 0)
  | .domainBreakNotice _ _ => (0, 0)
  | .channelBreakNotice _ _ => (0, 0)
  | .brokenWait _ _ _ => (0, 0)
  | .probeSend _ _ => (0, 0)
  | .probeReceive _ _ => (0, 0)
  | .saveComplete _ _ => (0, 0)
  | .sigstNotify _ _ => (0, 0)
  | .collHead _ => (0, 0)
  | .collComplete _ => (0, 0)
  | .copyCommandStart _ _ _ => (0, 0)
  | .engineCommandFail _ _ => (0, 0)
  | .arrivalUpdate _ _ _ => (0, 0)
  | .takeReturn _ => (0, 0)
  | .networkQuiet _ => (0, 0)
  | .networkDrainTimeout _ => (0, 0)
  | .hostStationLost _ => (0, 0)
  | .readRequest _ _ => (0, 0)
  | .readResponse _ => (0, 0)
  | .write _ _ => (0, 0)
  | .byteMaskedWrite _ _ => (0, 0)
  | .atomicRequest _ _ => (0, 0)
  | .writeResponse _ => (0, 0)
  | .signal _ => (0, 0)
  | .channelWord _ _ _ => (0, 0)
  | .channelAcknowledgement _ => (0, 0)
  | .copyOrGatherData _ => (0, 0)
  | .collectiveChunk _ => (0, 0)
  | .broadcastData _ _ _ => (0, 0)
  | .broadcastReturn _ _ => (0, 0)
  | .takeToken _ => (0, 0)
  | .collectiveStatus _ => (0, 0)
  | .collectiveDrop _ => (0, 0)
  | .returnedCell _ _ => (0, 0)
  | .directionTimeout _ _ => (0, 0)
  | .cellCrcFail _ _ => (0, 0)
  | .segmentTrainedUp _ => (0, 0)
  | .requestReissue _ => (0, 0)
  | .destinationUnreachable _ => (0, 0)
  | .escapeCellRemoved _ _ => (0, 0)
  | .backInvalidate _ _ => (0, 0)
  | .cxlRequestFailed _ _ => (0, 0)
  | .cxlLinkLoss _ _ => (0, 0)
  | .counterHalving _ => (0, 0)
  | .swap _ _ _ => (0, 0)
  | .swapComplete _ _ _ => (0, 0)
  | .ident _ => (0, 0)
  | .attest _ _ _ => (0, 0)
  | .loadimg _ _ _ _ _ _ => (0, 0)
  | .psetdesc _ _ _ _ _ => (0, 0)
  | .ptroot _ _ _ => (0, 0)
  | .handle _ _ _ _ _ => (0, 0)
  | .launch _ _ _ _ _ => (0, 0)
  | .kill _ _ => (0, 0)
  | .preempt _ _ _ _ => (0, 0)
  | .resume _ _ _ _ => (0, 0)
  | .mbxwrite _ _ _ => (0, 0)
  | .flagset _ _ _ => (0, 0)
  | .cnconfig _ _ _ _ _ _ => (0, 0)
  | .cnsave _ _ _ _ => (0, 0)
  | .cnrestore _ _ _ _ => (0, 0)
  | .collcfg _ _ _ _ => (0, 0)
  | .arbset _ _ _ => (0, 0)
  | .ctrsel _ _ _ _ _ => (0, 0)
  | .ctrread _ _ _ _ => (0, 0)
  | .liferead _ _ _ _ _ => (0, 0)
  | .plystat _ _ => (0, 0)
  | .powercap _ _ _ _ => (0, 0)
  | .reset _ => (0, 0)
  | .powerOn => (0, 0)
  | .ring0Retrain _ => (0, 0)
  | .lifetimeSample _ _ => (0, 0)
  | .snapshotCommit => (0, 0)
  | .powerLoss => (0, 0)
  | .pipelineResult _ _ => (0, 0)
  | .rqRefill _ _ => (0, 0)
  | .spillSpaceAllocated _ _ _ => (0, 0)
  | .correctedError _ _ => (0, 0)
  | .droopEvent _ _ => (0, 0)
  | .portRetrained _ _ => (0, 0)

/-! ### Address streams (R88, R116, R169) -/

/-- The index of a dimension: its use index, or LIDX of its level modulo its bound (R88). -/
def Arch.dimIdx (a : Arch) (d : Dim) : Nat :=
  if h : d.bind.toNat < 6 then (a.lidx[d.bind.toNat]'h).toNat % (max 1 d.bound.toNat) else d.idx.toNat

/-- The address the next naming of stream `n` receives: base + Σ index × stride (R88). -/
def Arch.streamAddr (a : Arch) (n : BitVec 4) : Dword :=
  (a.str[n.toNat]'n.isLt).dims.toList.foldl (fun x d => x + BitVec.ofNat 64 (a.dimIdx d) * d.stride) (a.str[n.toNat]'n.isLt).base

/-- The use counter of a stream: the use indices as one counter in ascending dimension number (R88). -/
def useCount : List Dim → Nat
  | [] => 0
  | d :: r => if d.bind = 6 then d.idx.toNat + d.bound.toNat * useCount r else useCount r

/-- The next value of the use counter: 1 added to the lowest use dimension, carrying at its bound (R88, R342). -/
def stepDims : List Dim → List Dim
  | [] => []
  | d :: r =>
    if d.bind = 6 then
      (if d.idx.toNat + 1 < d.bound.toNat then { d with idx := d.idx + 1 } :: r else { d with idx := 0 } :: stepDims r)
    else d :: stepDims r

/-- Stream `n` after one naming. -/
def Arch.stepStream (a : Arch) (n : BitVec 4) : Arch :=
  let st := a.str[n.toNat]'n.isLt
  let l := stepDims st.dims.toList
  { a with str := a.str.set n.toNat { st with dims := Vector.ofFn fun i : Fin 6 => l.getD i Dim.reset } n.isLt }

/-- Whether a stream has a use dimension (R73, R336). -/
def Arch.streamUses (a : Arch) (n : BitVec 4) : Bool := (a.str[n.toNat]'n.isLt).dims.toList.any fun d => d.bind == 6

/-- The scalars and the address that travel with a word (R69): read before the bundle's S word writes (R138). -/
def Arch.capture (a : Arch) (i : Info) : Captured :=
  { x := a.getS (i.srcs.getD 0 0), y := a.getS (i.srcs.getD 1 0), z := a.getS (i.srcs.getD 2 0)
    addr := match i.addr with | .none => 0 | .reg r => a.getS r | .stream n => a.streamAddr n
    tag := match i.addr with
      | .stream n => BitVec.ofNat 4 (useCount (a.str[n.toNat]'n.isLt).dims.toList)
      | _ => 0 }

/-- The scalar operands a word reads, its address register included (R336). -/
def Info.scalars (i : Info) : List (BitVec 5) :=
  i.srcs ++ (match i.addr with | .reg r => [r] | _ => [])

/-! ### Random bits (R119) -/

/-- One Philox-4×32 round on the four words with the two key words. -/
def philoxRound (x : Nat × Nat × Nat × Nat) (k : Nat × Nat) : Nat × Nat × Nat × Nat :=
  let m0 := 0xD2511F53 * x.1
  let m1 := 0xCD9E8D57 * x.2.2.1
  ((m1 / 2 ^ 32) ^^^ x.2.1 ^^^ k.1, m1 % 2 ^ 32, (m0 / 2 ^ 32) ^^^ x.2.2.2 ^^^ k.2, m0 % 2 ^ 32)

/-- `n` rounds, the key raised between them. -/
def philoxRounds : Nat → Nat × Nat × Nat × Nat → Nat × Nat → Nat × Nat × Nat × Nat
  | 0, x, _ => x
  | n + 1, x, k => philoxRounds n (philoxRound x k) ((k.1 + 0x9E3779B9) % 2 ^ 32, (k.2 + 0xBB67AE85) % 2 ^ 32)

/-- One block of 128 bits: the Philox-4×32-10 output for a 64-bit counter, word 0 lowest. -/
def philoxBlock (key : Nat × Nat) (ctr : Nat) : Nat :=
  let o := philoxRounds 10 (ctr % 2 ^ 32, ctr / 2 ^ 32 % 2 ^ 32, 0, 0) key
  o.1 + 2 ^ 32 * o.2.1 + 2 ^ 64 * o.2.2.1 + 2 ^ 96 * o.2.2.2

/-- Row position `q` of a context's random bits. -/
def randomRow (seed : Dword) (n k q : Nat) : Row :=
  let key := (fld seed 0 32, (fld seed 32 32) ^^^ (4 * n + k))
  BitVec.ofNat 2048 ((List.range 16).foldl (fun x j => x + philoxBlock key ((16 * q + j) % 2 ^ 64) * 2 ^ (128 * j)) 0)

/-! ### Vector queues (R79 to R84) -/

/-- Queue `q` of a context: `v0` to `v27`, 28 `fl`. -/
def Arch.queue (a : Arch) (q : BitVec 5) : VQueue := a.vq[q.toNat]'q.isLt

/-- Queue `q` replaced. -/
def Arch.setQueue (a : Arch) (q : BitVec 5) (v : VQueue) : Arch := { a with vq := a.vq.set q.toNat v q.isLt }

/-- The row of number `id` removed, the peek cursor staying on its row (R80). -/
def VQueue.popId (v : VQueue) (id : Nat) : VQueue :=
  if v.rows.any (fun r => r.id == id) then { v with rows := v.rows.filter (fun r => r.id != id), cur := v.cur - 1 } else v

/-- The peek cursor moved on (R80). -/
def VQueue.peekNext (v : VQueue) : VQueue := { v with cur := (v.cur + 1) % max 1 v.rows.length }

/-- A row at the tail, cut or extended to the queue's width (R80, R133). -/
def VQueue.push (v : VQueue) (id : Nat) (x : Row) (wait : Option Nat) : VQueue :=
  { v with rows := v.rows ++ [{ id := id, data := lowBits (rowWidth v.wd) x, wait := wait }] }

/-- The low `w` bits of a source: pop, or peek with the peek bit; `rq` gives random rows and `zq` zeros (R83, R133). -/
def State.src (s : State) (pk : Bool) (q : BitVec 5) (w : Nat) : Row × State :=
  if q = 30 then (0, s)
  else if q = 29 then
    let a := s.arch
    let x := randomRow a.csr.seed s.act.core s.act.ctx a.csr.rngpos.toNat
    (lowBits w x, if pk then s else s.onArch fun a =>
      { a with rqn := a.rqn - 1, csr := { a.csr with rngpos := a.csr.rngpos + 1 } })
  else
    let v := s.arch.queue q
    if pk then
      match v.rows[v.cur]? with
      | none => (0, s)
      | some r => (lowBits w r.data, s.onArch fun a => a.setQueue q (a.queue q).peekNext)
    else
      match v.rows with
      | [] => (0, s)
      | r :: _ => (lowBits w r.data, s.onArch fun a => a.setQueue q ((a.queue q).popId r.id))

/-- The sources of a word, in order. -/
def State.srcs (s : State) : List (Bool × BitVec 5) → Nat → List Row × State
  | [], _ => ([], s)
  | (pk, q) :: r, w =>
    let (x, s1) := s.src pk q w
    let (xs, s2) := s1.srcs r w
    (x :: xs, s2)

/-- Whether a flight pushes queue `q` of context `k` when it is due. -/
def Flight.pushes (f : Flight) (k : Nat) (q : BitVec 5) : Bool :=
  f.ctx == k && (match f.kind with | .push d _ _ => d == q | .ret d _ _ => d == q | .land d _ _ late => d == q && !late | _ => false)

/-- The rows reserved in queue `q` by pushes scheduled and not made (R79 PEND, R339). -/
def Core.reserved (c : Core) (k : Nat) (q : BitVec 5) : Nat := (c.flights.filter fun f => f.pushes k q).length

/-- Whether the sources stand: each reads a row that the pops before it leave (R81). -/
def standing (a : Arch) : List (Bool × BitVec 5) → List (BitVec 5) → Bool
  | [], _ => true
  | (pk, q) :: r, popped =>
    (if q = 30 then true
     else if q = 29 then decide (popped.count q < a.rqn)
     else decide (popped.count q < (a.queue q).rows.length)) && standing a r (if pk then popped else q :: popped)

/-- The queues of a context after a word has read one source (R80). -/
def Arch.afterSrc (a : Arch) (pk : Bool) (q : BitVec 5) : Arch :=
  let v := a.queue q
  if pk then a.setQueue q v.peekNext else match v.rows with | [] => a | r :: _ => a.setQueue q (v.popId r.id)

/-- The flight of a landing whose data is absent among the rows a word would read, each source reading the row that the
ones before it leave (R57, R80, R81). -/
def absentRow (a : Arch) : List (Bool × BitVec 5) → Option Nat
  | [] => none
  | (pk, q) :: r =>
    let v := a.queue q
    match (if pk then v.rows[v.cur]? else v.rows.head?).bind QRow.wait with
    | some f => some f
    | none => absentRow (a.afterSrc pk q) r

/-- A queue number of `v0` to `v27`. -/
def isV (q : BitVec 5) : Bool := q.ult 28

/-- The rows that a word pops from queue `q` as it issues: by its sources (R224), or as the index row of an `LDX` (R77). -/
def Info.pops (i : Info) (q : BitVec 5) : Nat :=
  (i.vsrc.filter fun x => x == (false, q)).length + (if i.idxq = some q ∧ (i.vsrc.all fun x => x != (false, q)) = true then 1 else 0)

/-- Whether the destination queues have room for the word's rows, its own pops counted first (R224, R339, log 19). -/
def Core.room (c : Core) (k : Nat) (i : Info) (rows : Nat) : Bool :=
  i.vdst.all fun q =>
    let v := (c.ctx k).arch.queue q
    !isV q || decide (v.rows.length + c.reserved k q + rows ≤ v.depth + i.pops q)

/-- Whether a word names a queue of depth 0 (R339, cause 20). -/
def depthZero (a : Arch) (i : Info) : Bool :=
  ((i.vsrc.map (·.2)) ++ i.vdst ++ i.idxq.toList ++ i.wq.toList).any fun q => isV q && (a.queue q).depth == 0

/-- Whether a word would push more rows into a queue than its depth (R339, cause 20). -/
def tooMany (a : Arch) (i : Info) (rows : Nat) : Bool := i.vdst.any fun q => isV q && decide ((a.queue q).depth < rows)

/-- The row width of a queue named as an index or activation source: `fl`, `rq` and `zq` have rows of 2048 bits. -/
def Arch.widthOfQueue (a : Arch) (q : BitVec 5) : Nat := if isV q then rowWidth (a.queue q).wd else 2048

/-- Bits of an activation or weight code of type T (R208); T = 0 is refused beforehand (R347). -/
def arrayBits (t : BitVec 3) : Nat := if t.toNat < 3 then 16 else 8

/-- Whether an activation operand of the array breaks R347. -/
def Arch.actBad (a : Arch) (q : BitVec 5) (t : BitVec 3) : Bool :=
  t = 0 || q = 28 || q = 29 || decide (a.widthOfQueue q < 64 * arrayBits t)

/-- Whether a word breaks a limit on what it names (R332, R345, R347, R349, R350), cause 17: a destination other than
`v0` to `v27`, or what its own row of the tables asks. -/
def limitBad (a : Arch) (i : Instr) : Bool :=
  ((info i).vdst.any fun q => !isV q) ||
  (match i with
   | .mlw _ _ q t => t = 0 || !isV q || decide (a.widthOfQueue q < 64 * arrayBits t)
   | .mma _ _ q t => a.actBad q t
   | .mmac _ _ q c t => a.actBad q t || c = 29 || decide (a.widthOfQueue c < 2048)
   | .vdq _ _ _ t _ _ _ _ _ => t == 1 || t == 2
   | .vscl _ _ _ ks _ _ _ q => q == ks
   | .vospl _ _ _ _ d _ _ _ => !d.ult 27
   | .vaddsub _ _ _ t _ _ _ _ _ => !t.ult 2
   | .vunpk3 _ _ _ t _ _ _ => !t.ult 3
   | .pld _ _ d _ _ _ m => m = 0 || decide (27 < d.toNat + popCount 4 m.toNat - 1)
   | .kout _ _ _ _ _ n => decide (15 < n.toNat)
   | .pst _ _ d _ _ m => m = 0 || decide (27 < d.toNat + popCount 4 m.toNat - 1)
   | _ => false)

/-- A word's checks at issue that are made of every engine's words: cause 17 for a limit broken (R332), `bad` being one on
a captured operand, cause 20 for a queue of depth 0 or too shallow for the word's rows (R339). -/
def State.issueChecked (s : State) (bad : Bool) (i : Instr) (rows : Nat) (f : State → State) : State :=
  if bad || limitBad s.arch i then s.raiseWord 17
  else if depthZero s.arch (info i) || tooMany s.arch (info i) rows then s.raiseWord 20
  else f s

/-- The read ports a word needs: its queue sources other than `fl`, `rq` and `zq` (R76, R337). -/
def Info.portCount (i : Info) : Nat := (i.vsrc.filter fun x => isV x.2).length

/-! ### Scale queues (R86, R226) -/

/-- Scale queue `k`. -/
def Arch.kqueue (a : Arch) (k : BitVec 3) : KQueue := a.kq[k.toNat]'k.isLt

/-- Scale queue `k` replaced. -/
def Arch.setKqueue (a : Arch) (k : BitVec 3) (v : KQueue) : Arch := { a with kq := a.kq.set k.toNat v k.isLt }

/-- The entry at the head position as it stands (R86). -/
def KQueue.top (v : KQueue) : KEntry := v.ring[v.head % 8]'(Nat.mod_lt _ (by decide))

/-- The head moved past a pushed entry; without one it stays (R86). -/
def KQueue.advance (v : KQueue) : KQueue :=
  if v.held = 0 then v else { v with head := (v.head + 1) % 8, held := v.held - 1 }

/-- An entry at the tail (R86). -/
def KQueue.push (v : KQueue) (e : KEntry) : KQueue :=
  { v with ring := v.ring.set ((v.head + v.held) % 8) e (Nat.mod_lt _ (by decide)), held := v.held + 1 }

/-- Entry `j` of a scale row: 32 bits (R86). -/
def KEntry.get (e : KEntry) (j : Nat) : Nat := fld e.data (32 * j) 32

/-- A popped scale operand (R226). -/
def State.popK (s : State) (k : BitVec 3) : KEntry × State :=
  ((s.arch.kqueue k).top, s.onArch fun a => a.setKqueue k (a.kqueue k).advance)

/-- The scale entries due and not yet pushed, of queue `k` of context `c` (R352); one pushed late is held already. -/
def Core.kReserved (c : Core) (ctx : Nat) (k : BitVec 3) : Nat :=
  (c.flights.filter fun f => f.ctx == ctx && (match f.kind with | .scale d _ _ late => d == k && !late | _ => false)).length

/-- The run record of a slot. -/
def Arch.runOf (a : Arch) (slot : Nat) : RunRec := a.runs[slot % 8]'(Nat.mod_lt _ (by decide))

/-- The run record of a slot replaced. -/
def Arch.setRun (a : Arch) (slot : Nat) (r : RunRec) : Arch :=
  { a with runs := a.runs.set (slot % 8) r (Nat.mod_lt _ (by decide)) }

/-- A standing scale operand (R226): read without advancing; the head advances when the run ends. -/
def State.standK (s : State) (k : BitVec 3) : KEntry × State :=
  ((s.arch.kqueue k).top,
   s.onArch fun a => a.setRun (slotNum s.act.entry.slot) { a.runOf (slotNum s.act.entry.slot) with stand := some k })

/-- A slot's run ends: a standing scale queue's head advances (R226). -/
def Arch.endRun (a : Arch) (slot : Nat) : Arch :=
  (match (a.runOf slot).stand with | none => a | some k => a.setKqueue k (a.kqueue k).advance).setRun slot RunRec.reset

/-- The issue of a word of a slot as to runs (R226): a repeat goes on with the run of its held word; any other word ends the run
in progress and begins its own, named by the bundle `run`. -/
def Arch.beginWord (a : Arch) (slot run : Nat) : Arch :=
  if (a.runOf slot).of = some run then a else (a.endRun slot).setRun slot { RunRec.reset with of := some run }

/-- After the word has read its operands: one more word of the run; a word that holds nothing ends it (R226). -/
def Arch.endWord (a : Arch) (slot : Nat) (held : Bool) : Arch :=
  if held then a.setRun slot { a.runOf slot with n := (a.runOf slot).n + 1 } else a.endRun slot

end Sys2Proof.Machine
end

