-- ==== Sys2Proof/Machine/Scalar.lean ====
section
/-!
DEFINITION. The S words that compute on scalars and predicates (R138 to R145): read at dispatch, written in the same
cycle, except multiplies and divides, whose results are ready 3 and 20 cycles later (R139).
-/

namespace Sys2Proof.Machine

/-! ### Shared operations -/

/-- A single-cycle word: `sD` := f of the state before (R138). -/
def sSet (p : BitVec 3) (d : BitVec 5) (f : State → Dword) (s : State) : Out1 := sWord p (fun s => s.setS d (f s)) s

/-- A word whose result is ready `lat` cycles after dispatch (R139): `sD` is marked until then (R69). -/
def sSlow (lat : Nat) (p : BitVec 3) (d : BitVec 5) (f : State → Dword) (s : State) : Out1 :=
  sWord p (fun s =>
    if d = 0 then s
    else (s.onArch fun a => { a with rdy := (d, s.myCore.cyc + lat) :: a.rdy }).later lat (.sreg d (f s))) s

/-- A word that writes a predicate. -/
def sPred (p : BitVec 3) (d : BitVec 4) (f : State → Bool) (s : State) : Out1 := sWord p (fun s => s.setP d (f s)) s

/-- The high 64 bits of a product. -/
def mulHi (x y : Int) : Dword := BitVec.ofInt 64 (x * y / 2 ^ 64)

/-- `DIV` (R140): rounded toward zero; by 0 gives −1; −2^63 by −1 gives −2^63. -/
def divS (a b : Dword) : Dword := if b = 0 then BitVec.allOnes 64 else BitVec.ofInt 64 (a.toInt.tdiv b.toInt)

/-- `DIVU` (R140): by 0 gives all ones. -/
def divU (a b : Dword) : Dword := if b = 0 then BitVec.allOnes 64 else BitVec.ofNat 64 (a.toNat / b.toNat)

/-- Leading zero bits of `a`. -/
def clz (a : Dword) : Nat := if a = 0 then 64 else 63 - Nat.log2 a.toNat

/-- A comparison by condition code (R144): 0 eq, 1 ne, 2 lt, 3 le, 4 ltu, 5 leu; 6 and 7 are unassigned (R330). -/
def ccHolds (c : BitVec 3) (a b : Dword) : Bool :=
  match c.toNat with
  | 0 => a == b
  | 1 => a != b
  | 2 => a.slt b
  | 3 => a.sle b
  | 4 => a.ult b
  | _ => a.ule b

/-- The address immediately after the running bundle (R146): header + 4 + 4 for each word. -/
def afterBundle (pc : Dword) (hdr : Word) : Dword := pc + BitVec.ofNat 64 (4 + 4 * popCount 8 hdr.toNat)

/-! ### The ALU group (R140) -/

/-- `NOP.s` (R68). -/
def execNopS (_h : BitVec 1) (_p : BitVec 3) (s : State) : Out1 := .next s
/-- `ADD`. -/
def execAdd (_h : BitVec 1) (p : BitVec 3) (d a b : BitVec 5) (s : State) : Out1 :=
  sSet p d (fun s => s.getS a + s.getS b) s
/-- `SUB`. -/
def execSub (_h : BitVec 1) (p : BitVec 3) (d a b : BitVec 5) (s : State) : Out1 :=
  sSet p d (fun s => s.getS a - s.getS b) s
/-- `MUL`. -/
def execMul (_h : BitVec 1) (p : BitVec 3) (d a b : BitVec 5) (s : State) : Out1 :=
  sSlow 3 p d (fun s => s.getS a * s.getS b) s
/-- `MULH`. -/
def execMulh (_h : BitVec 1) (p : BitVec 3) (d a b : BitVec 5) (s : State) : Out1 :=
  sSlow 3 p d (fun s => mulHi (s.getS a).toInt (s.getS b).toInt) s
/-- `MULHU`. -/
def execMulhu (_h : BitVec 1) (p : BitVec 3) (d a b : BitVec 5) (s : State) : Out1 :=
  sSlow 3 p d (fun s => mulHi (s.getS a).toNat (s.getS b).toNat) s
/-- `DIV`. -/
def execDiv (_h : BitVec 1) (p : BitVec 3) (d a b : BitVec 5) (s : State) : Out1 :=
  sSlow 20 p d (fun s => divS (s.getS a) (s.getS b)) s
/-- `DIVU`. -/
def execDivu (_h : BitVec 1) (p : BitVec 3) (d a b : BitVec 5) (s : State) : Out1 :=
  sSlow 20 p d (fun s => divU (s.getS a) (s.getS b)) s
/-- `REM`: a − b × `DIV`(a, b); by 0 gives a. -/
def execRem (_h : BitVec 1) (p : BitVec 3) (d a b : BitVec 5) (s : State) : Out1 :=
  sSlow 20 p d (fun s => if s.getS b = 0 then s.getS a else s.getS a - s.getS b * divS (s.getS a) (s.getS b)) s
/-- `AND`. -/
def execAnd (_h : BitVec 1) (p : BitVec 3) (d a b : BitVec 5) (s : State) : Out1 :=
  sSet p d (fun s => s.getS a &&& s.getS b) s
/-- `OR`. -/
def execOr (_h : BitVec 1) (p : BitVec 3) (d a b : BitVec 5) (s : State) : Out1 :=
  sSet p d (fun s => s.getS a ||| s.getS b) s
/-- `XOR`. -/
def execXor (_h : BitVec 1) (p : BitVec 3) (d a b : BitVec 5) (s : State) : Out1 :=
  sSet p d (fun s => s.getS a ^^^ s.getS b) s
/-- `ANDN`. -/
def execAndn (_h : BitVec 1) (p : BitVec 3) (d a b : BitVec 5) (s : State) : Out1 :=
  sSet p d (fun s => s.getS a &&& ~~~ s.getS b) s
/-- `SHL`. -/
def execShl (_h : BitVec 1) (p : BitVec 3) (d a b : BitVec 5) (s : State) : Out1 :=
  sSet p d (fun s => s.getS a <<< fld (s.getS b) 0 6) s
/-- `SHR`. -/
def execShr (_h : BitVec 1) (p : BitVec 3) (d a b : BitVec 5) (s : State) : Out1 :=
  sSet p d (fun s => s.getS a >>> fld (s.getS b) 0 6) s
/-- `SAR`. -/
def execSar (_h : BitVec 1) (p : BitVec 3) (d a b : BitVec 5) (s : State) : Out1 :=
  sSet p d (fun s => (s.getS a).sshiftRight (fld (s.getS b) 0 6)) s
/-- `MIN`. -/
def execMin (_h : BitVec 1) (p : BitVec 3) (d a b : BitVec 5) (s : State) : Out1 :=
  sSet p d (fun s => if (s.getS a).sle (s.getS b) then s.getS a else s.getS b) s
/-- `MAX`. -/
def execMax (_h : BitVec 1) (p : BitVec 3) (d a b : BitVec 5) (s : State) : Out1 :=
  sSet p d (fun s => if (s.getS a).sle (s.getS b) then s.getS b else s.getS a) s
/-- `MINU`. -/
def execMinu (_h : BitVec 1) (p : BitVec 3) (d a b : BitVec 5) (s : State) : Out1 :=
  sSet p d (fun s => if (s.getS a).ule (s.getS b) then s.getS a else s.getS b) s
/-- `MAXU`. -/
def execMaxu (_h : BitVec 1) (p : BitVec 3) (d a b : BitVec 5) (s : State) : Out1 :=
  sSet p d (fun s => if (s.getS a).ule (s.getS b) then s.getS b else s.getS a) s
/-- `CLZ`. -/
def execClz (_h : BitVec 1) (p : BitVec 3) (d a : BitVec 5) (s : State) : Out1 :=
  sSet p d (fun s => BitVec.ofNat 64 (clz (s.getS a))) s
/-- `POPC`. -/
def execPopc (_h : BitVec 1) (p : BitVec 3) (d a : BitVec 5) (s : State) : Out1 :=
  sSet p d (fun s => BitVec.ofNat 64 (popCount 64 (s.getS a).toNat)) s
/-- `SEL`. -/
def execSel (_h : BitVec 1) (p : BitVec 3) (d a b : BitVec 5) (s : State) : Out1 :=
  sSet p d (fun s => if s.getS d ≠ 0 then s.getS a else s.getS b) s

/-! ### Immediates and bit fields (R141 to R143) -/

/-- `ADDI`. -/
def execAddi (_h : BitVec 1) (p : BitVec 3) (d a : BitVec 5) (i : BitVec 12) (s : State) : Out1 :=
  sSet p d (fun s => s.getS a + i.signExtend 64) s
/-- `ANDI`. -/
def execAndi (_h : BitVec 1) (p : BitVec 3) (d a : BitVec 5) (i : BitVec 12) (s : State) : Out1 :=
  sSet p d (fun s => s.getS a &&& i.signExtend 64) s
/-- `ORI`. -/
def execOri (_h : BitVec 1) (p : BitVec 3) (d a : BitVec 5) (i : BitVec 12) (s : State) : Out1 :=
  sSet p d (fun s => s.getS a ||| i.signExtend 64) s
/-- `XORI`. -/
def execXori (_h : BitVec 1) (p : BitVec 3) (d a : BitVec 5) (i : BitVec 12) (s : State) : Out1 :=
  sSet p d (fun s => s.getS a ^^^ i.signExtend 64) s
/-- `SHLI`. -/
def execShli (_h : BitVec 1) (p : BitVec 3) (d a : BitVec 5) (n : BitVec 6) (s : State) : Out1 :=
  sSet p d (fun s => s.getS a <<< n.toNat) s
/-- `SHRI`. -/
def execShri (_h : BitVec 1) (p : BitVec 3) (d a : BitVec 5) (n : BitVec 6) (s : State) : Out1 :=
  sSet p d (fun s => s.getS a >>> n.toNat) s
/-- `SARI`. -/
def execSari (_h : BitVec 1) (p : BitVec 3) (d a : BitVec 5) (n : BitVec 6) (s : State) : Out1 :=
  sSet p d (fun s => (s.getS a).sshiftRight n.toNat) s
/-- `LIM`. -/
def execLim (_h : BitVec 1) (p : BitVec 3) (d : BitVec 5) (i : BitVec 17) (s : State) : Out1 :=
  sSet p d (fun _ => i.signExtend 64) s
/-- `LIMS`. -/
def execLims (_h : BitVec 1) (p : BitVec 3) (d : BitVec 5) (i : BitVec 17) (s : State) : Out1 :=
  sSet p d (fun s => (s.getS d <<< 17) ||| i.setWidth 64) s
/-- `BFX`: `n` holds the length minus 1; bits of sA numbered 64 or above read as zero. -/
def execBfx (_h : BitVec 1) (p : BitVec 3) (d a : BitVec 5) (l n : BitVec 6) (s : State) : Out1 :=
  sSet p d (fun s => BitVec.ofNat 64 (fld (s.getS a) l.toNat (n.toNat + 1))) s
/-- `BFI`: bits lo + i of sD, i from 0 to the length − 1 and lo + i not above 63, from bit i of sA. -/
def execBfi (_h : BitVec 1) (p : BitVec 3) (d a : BitVec 5) (l n : BitVec 6) (s : State) : Out1 :=
  sSet p d (fun s => setFld (s.getS d) l.toNat (n.toNat + 1) (s.getS a).toNat) s
/-- `PADR`: the plane field, bits 63:60. -/
def execPadr (_h : BitVec 1) (p : BitVec 3) (d a : BitVec 5) (q : BitVec 4) (s : State) : Out1 :=
  sSet p d (fun s => setFld (s.getS a) 60 4 q.toNat) s
/-- `PCREL`: header address + imm × 4 on bits 56:0. -/
def execPcrel (_h : BitVec 1) (p : BitVec 3) (d : BitVec 5) (i : BitVec 17) (s : State) : Out1 :=
  sSet p d (fun s => setFld s.act.entry.pc 0 57 (s.act.entry.pc + (i.signExtend 64 <<< 2)).toNat) s

/-! ### Compares and predicates (R144, R145) -/

/-- `CMP.cc`. -/
def execCmp (_h : BitVec 1) (p : BitVec 3) (d : BitVec 4) (c : BitVec 3) (a b : BitVec 5) (s : State) : Out1 :=
  sPred p d (fun s => ccHolds c (s.getS a) (s.getS b)) s
/-- `CMPI.cc`. -/
def execCmpi (_h : BitVec 1) (p : BitVec 3) (d : BitVec 4) (c : BitVec 3) (a : BitVec 5) (i : BitVec 10) (s : State) :
    Out1 := sPred p d (fun s => ccHolds c (s.getS a) (i.signExtend 64)) s
/-- `PAND`. -/
def execPand (_h : BitVec 1) (p : BitVec 3) (d a b : BitVec 4) (s : State) : Out1 :=
  sPred p d (fun s => s.getP a && s.getP b) s
/-- `POR`. -/
def execPor (_h : BitVec 1) (p : BitVec 3) (d a b : BitVec 4) (s : State) : Out1 :=
  sPred p d (fun s => s.getP a || s.getP b) s
/-- `PXOR`. -/
def execPxor (_h : BitVec 1) (p : BitVec 3) (d a b : BitVec 4) (s : State) : Out1 :=
  sPred p d (fun s => s.getP a != s.getP b) s
/-- `PANDN`. -/
def execPandn (_h : BitVec 1) (p : BitVec 3) (d a b : BitVec 4) (s : State) : Out1 :=
  sPred p d (fun s => s.getP a && !s.getP b) s
/-- `PNOT`. -/
def execPnot (_h : BitVec 1) (p : BitVec 3) (d a : BitVec 4) (s : State) : Out1 :=
  sPred p d (fun s => !s.getP a) s

end Sys2Proof.Machine
end

