-- ==== Sys2Proof/Machine/Control.lean ====
section
/-!
DEFINITION. The S words that steer dispatch: transfers and the handler (R146 to R148, R324), loops (R87, R149, R150),
waits, flags and domains (R75, R152, R153, R60), and the life of contexts (R53, R154 to R156).
-/

namespace Sys2Proof.Machine

/-! ### Transfers (R146 to R148) -/

/-- A transfer target off this bundle's header by `off` words. -/
def State.target (s : State) (off : BitVec 22) : Dword := s.act.entry.pc + (off.signExtend 64 <<< 2)

/-- The link of the running bundle (R146). -/
def State.link (s : State) : Dword := afterBundle s.act.entry.pc s.act.entry.hdr

/-- `BR`. -/
def execBr (_h : BitVec 1) (p : BitVec 3) (o : BitVec 22) (s : State) : Out1 :=
  sWord p (fun s => s.transfer (s.target o)) s

/-- `CALL`. -/
def execCall (_h : BitVec 1) (p : BitVec 3) (o : BitVec 22) (s : State) : Out1 :=
  sWord p (fun s => (s.setS 31 s.link).transfer (s.target o)) s

/-- `JMPR`: a target that is not a multiple of 4 raises cause 17 (R334). -/
def execJmpr (_h : BitVec 1) (p : BitVec 3) (a : BitVec 5) (s : State) : Out1 :=
  sWord p (fun s => if fld (s.getS a) 0 2 ≠ 0 then s.raiseWord 17 else s.transfer (s.getS a)) s

/-- The first bundle of a handler or of a target dispatches 3 cycles on (R139). -/
def State.delay3 (s : State) : State := s.updMe fun c => { c with from_ := s.myCore.cyc + 3 }

/-- `TRAP` (R148): cause 1. -/
def execTrap (_h : BitVec 1) (p : BitVec 3) (i : BitVec 17) (s : State) : Out1 :=
  sWord p (fun s => (s.onArch fun a => a.request s.link 1 (i.setWidth 64)).delay3) s

/-- `BRK` (R148): cause 2. -/
def execBrk (_h : BitVec 1) (p : BitVec 3) (i : BitVec 17) (s : State) : Out1 :=
  sWord p (fun s => (s.onArch fun a => a.request s.link 2 (i.setWidth 64)).delay3) s

/-! ### Loops (R87, R149, R150) -/

/-- Whether level `v` is open. -/
def Arch.openLevel (a : Arch) (v : BitVec 3) : Bool := a.loops.any fun r => r.lv == v

/-- Whether a body of `len` bundles after this one ends beyond the body that encloses it (R342). -/
def Arch.beyond (a : Arch) (len : Nat) : Bool :=
  match a.loops with | [] => false | r :: _ => decide (r.len < r.pos + len)

/-- `LOOP` opened: trip count 0 passes over the body (R87). The pc already stands after the `LOOP` bundle. -/
def Arch.openLoop (a : Arch) (v : BitVec 3) (trip : BitVec 32) (len : Nat) : Arch :=
  let b := a.setLidx v 0
  if trip = 0 then { b with skip := len }
  else { b with loops := { lv := v, trip := trip, idx := 0, len := len, start := a.pc, pos := 0, adv := false } :: a.loops }

/-- `LOOP`: `l` holds the length minus 1. -/
def execLoop (_h : BitVec 1) (p v : BitVec 3) (r : BitVec 5) (l : BitVec 6) (s : State) : Out1 :=
  sWord p (fun s =>
    if s.arch.openLevel v || s.arch.beyond (l.toNat + 1) then s.raiseWord 22
    else
      let trip := (s.getS r).setWidth 32
      s.onArch fun a => a.openLoop v trip (l.toNat + 1)) s

/-- `LEXIT` taken: level `v` and the levels inside it close; the rest of v's body is passed over (R150). -/
def Arch.exitLoop (a : Arch) (v : BitVec 3) : Arch :=
  match a.loops.dropWhile fun r => r.lv != v with
  | [] => a
  | r :: rest => { a with loops := rest, skip := r.len - r.pos }

/-- `LEXIT`. -/
def execLexit (_h : BitVec 1) (p v : BitVec 3) (s : State) : Out1 :=
  sWord p (fun s =>
    if s.arch.openLevel v then (s.onArch fun a => a.exitLoop v).delay3 else s.raiseWord 22) s

/-- The first bundle of a new iteration dispatches: its index shows (R149). -/
def Arch.showIndex (a : Arch) : Arch :=
  match a.loops with
  | r :: rest => if r.adv then
      { a.setLidx r.lv (r.idx + 1) with loops := { r with idx := r.idx + 1, adv := false } :: rest } else a
  | [] => a

/-- A bundle has dispatched: every open body counts it. -/
def Arch.countBundle (a : Arch) : Arch := { a with loops := a.loops.map fun r => { r with pos := r.pos + 1 } }

/-- After a bundle: a body at its end returns to its first bundle, or closes after its last iteration (R87). The
bodies around a body that returns count its bundles once. -/
def Arch.settleLoops : List LoopRec → Arch → Arch
  | [], a => { a with loops := [] }
  | r :: rest, a =>
    if r.pos < r.len then { a with loops := r :: rest }
    else if r.idx.toNat + 1 < r.trip.toNat then
      { a with pc := r.start,
               loops := { r with pos := 0, adv := true } :: rest.map fun q => { q with pos := q.pos - r.len } }
    else settleLoops rest a

/-- A bundle passed over counts in every open body. -/
def Arch.passBundle (a : Arch) (next : Dword) : Arch :=
  { a with pc := next, skip := a.skip - 1, loops := a.loops.map fun r => { r with pos := r.pos + 1 } }

/-! ### Flags (R151, R152) -/

/-- `WSEL` (R151): the front end reads it in a wait bundle; elsewhere it does nothing. -/
def execWsel (_h : BitVec 1) (_p : BitVec 3) (_x : BitVec 1) (_a _b _c _d : BitVec 5) (s : State) : Out1 := .next s

/-- Whether a `SIG` target breaks the layout of R152 or names a core above 191 (R343). -/
def sigBad (a : Dword) : Bool :=
  if a.getLsbD 32 then fld a 33 31 != 0 || fld a 28 4 != 0 || fld a 8 8 != 0 || decide (191 < fld a 0 8)
  else a != 0

/-- `SIG`: the own core's flag at the end of the cycle, however it is named, or a signal cell to another core; the cell's ADDR names the
flag (log 21). -/
def execSig (_h : BitVec 1) (p : BitVec 3) (f : BitVec 6) (a : BitVec 5) (s : State) : Out1 :=
  sWord p (fun s =>
    let x := s.getS a
    if sigBad x then s.raiseWord 17
    else if x.getLsbD 32 && decide (fld x 16 12 * 256 + fld x 0 8 ≠ peerOf (stackOf s.act.core) * 256 + s.act.core % 192) then
      s.sendMine (fld x 16 12) (.cell (ringCell (fld x 16 12) (peerOf (stackOf s.act.core)) (fld x 0 8) 6 f.toNat 0 []))
    else s.updMyCore fun c => c.setFlags (BitVec.ofNat 64 (2 ^ f.toNat))) s

/-! ### Domains (R58 to R61, R153) -/

/-- `DMLn`, levels 1 to 5; level 0 reads 0. -/
def Arch.dml (a : Arch) (lv : Nat) : Dword := a.csr.dml.toList.getD (lv - 1) 0

/-- The domain object that a membership register names (R59). -/
def dmlObj (d : Dword) : DomRef := { peer := fld d 52 12, obj := fld d 32 12 }

/-- The objects of a context's domains, by level. -/
def Arch.domains (a : Arch) : List DomRef := (a.csr.dml.toList.filter fun d => fld d 0 3 != 0).map dmlObj

/-- `SYNCD` (R60): level 0 completes; a level without a domain raises cause 17; else the context is blocked, and its
arrival leaves once every earlier access has performed at the level's scope. -/
def execSyncd (_h : BitVec 1) (p v : BitVec 3) (s : State) : Out1 :=
  sWord p (fun s =>
    if v = 0 then s
    else
      let d := s.arch.dml v.toNat
      if fld d 0 3 = 0 then s.raiseWord 17
      else
        (s.updMe fun c => { c with sync := some { obj := dmlObj d, lv := v, seq := s.act.entry.seq, sent := false } }).block
          .sync) s

/-! ### The life of contexts (R53, R154 to R156) -/

/-- `YIELD` (R154): the context is Ready and no longer current; the choice of R55 follows. R54 counts it among the causes of blocking,
so `EVCNT` source 5 counts it (R317). -/
def execYield (_h : BitVec 1) (p : BitVec 3) (s : State) : Out1 :=
  sWord p (fun s => s.updMyCore fun o => (o.count 5 (some s.act.ctx) 1).updCtx s.act.ctx fun c => { c with st := .ready, waitCnt := 0 }) s

/-- `RETIRE` (R155): no later bundle dispatches; the context ends when every earlier word has completed. -/
def execRetire (_h : BitVec 1) (p : BitVec 3) (s : State) : Out1 :=
  sWord p (fun s => s.updMe fun c => { c with st := .retired }) s

/-- The lowest Reserved context of an instance (R53). -/
def Core.reservedOf (c : Core) (b : Bind) : Option Nat :=
  (List.range 4).find? fun k => (c.ctx k).st == .reserved && (match (c.ctx k).bnd with
    | some x => x.launch == b.launch && x.inst == b.inst | none => false)

/-- The registers of a context that `FORK` starts (R49, R53, R156, R164). -/
def forkArch (a : Arch) (b : Bind) (arg entry : Dword) : Arch :=
  let r := (((Arch.reset.setS 1 (BitVec.ofNat 64 b.inst)).setS 2 (BitVec.ofNat 64 b.icount)).setS 3
    (BitVec.ofNat 64 b.iix)).setS 4 arg
  { r with pc := entry
           csr := { Csrs.reset with
             arbw := a.csr.arbw, trapvec := a.csr.trapvec, syncmode := a.csr.syncmode
             dml := vmap (fun d => setFld d 3 1 0) a.csr.dml } }

/-- An increment or decrement of MBR sent to each domain object of a context (R61). -/
def State.sendMbr (s : State) (n k : Nat) (inc : Bool) : List DomRef → State
  | [] => s
  | o :: r => (s.sendFrom n k o.peer (.event (.mbrChange o inc (ctxRef n k)))).sendMbr n k inc r

/-- `FORK` (R156): the new context is Ready from the next cycle; each of its domains gains a member. The launch's `FLG` bits stay as they
are, since other contexts of the launch wait on them (DEDUCED, log 28). -/
def execFork (_h : BitVec 1) (p : BitVec 3) (a b c : BitVec 5) (s : State) : Out1 :=
  sWord p (fun s =>
    let arg := s.getS b
    let entry := s.getS c
    if fld entry 0 2 ≠ 0 then s.raiseWord 17
    else
      match s.me.bnd with
      | none => s.setS a (BitVec.allOnes 64)
      | some mine =>
        match s.myCore.reservedOf mine with
        | none => s.setS a (BitVec.allOnes 64)
        | some k =>
          let b2 := ((s.myCore.ctx k).bnd).getD mine
          let arch := forkArch s.arch b2 arg entry
          let incs := s.arch.domains.length
          let s1 := s.updCtx s.act.core k fun x =>
            { Ctx.reset with st := .ready, bnd := x.bnd, arch := arch, seq := x.seq, from_ := s.myCore.cyc + 1,
                             incs := incs, parent := s.act.ctx }
          let s2 := s1.updMe fun x => { x with incs := x.incs + incs }
          (s2.sendMbr s.act.core k true s.arch.domains).setS a (BitVec.ofNat 64 b2.iix)) s

end Sys2Proof.Machine
end

