-- ==== Sys2Proof/Machine/Flags.lean ====
section
/-!
DEFINITION. Number formats, rounding and every flag computation (R97 to R114, R119, R227 to R236, R248): exact values,
decoding of every format, `round(x, fmt, rm)` with its `VSTAT` flags, conversions, the special functions and the
pack of lanes into rows.
-/

namespace Sys2Proof.Machine

/-! ### Exact values -/

/-- An exact value: NaN, a signed infinity, or ± m × 2^e (R101). -/
inductive Val where
  | nan
  | inf (neg : Bool)
  | fin (neg : Bool) (m : Nat) (e : Int)
  deriving DecidableEq, Repr

/-- The floating formats of R97. -/
inductive Fmt where
  | f32 | bf16 | f16 | tf8 | tf6 | e4m3 | e5m2
  deriving DecidableEq, Repr

/-- The F table of R122. -/
def fmtOf (t : BitVec 3) : Fmt :=
  match t.toNat with | 0 => .f32 | 1 => .bf16 | 2 => .f16 | 3 => .tf8 | 4 => .tf6 | 5 => .e4m3 | _ => .e5m2

/-- Lane bits of a floating type (R122). -/
def fmtBits : Fmt → Nat | .f32 => 32 | .bf16 => 16 | .f16 => 16 | _ => 8

/-- Lane bits of an integer type (R122). -/
def intBits (t : BitVec 3) : Nat := match t.toNat with | 0 => 32 | 1 => 16 | 2 => 8 | 3 => 8 | _ => 64

/-- Exponent bits, fraction bits and bias (R97). -/
def fmtShape : Fmt → Nat × Nat × Nat
  | .f32 => (8, 23, 127) | .bf16 => (8, 7, 127) | .f16 => (5, 10, 15) | .e4m3 => (4, 3, 7) | .e5m2 => (5, 2, 15)
  | .tf8 => (0, 0, 0) | .tf6 => (0, 0, 0)

/-- The canonical NaN (R101). -/
def canonNan : Fmt → Nat
  | .f32 => 0x7FC00000 | .bf16 => 0x7FC0 | .f16 => 0x7E00 | .e4m3 => 0x7F | .e5m2 => 0x7F | .tf8 => 0x80 | .tf6 => 0x20

def flNV : Flags := 1
def flDZ : Flags := 2
def flOF : Flags := 4
def flUF : Flags := 8
def flNX : Flags := 16
def flSAT : Flags := 32

/-- The number of bits of a natural number. -/
def bitLen (n : Nat) : Nat := if n = 0 then 0 else Nat.log2 n + 1

/-- Comparison of magnitudes m × 2^e. -/
def magLt (m : Nat) (e : Int) (n : Nat) (f : Int) : Bool :=
  if e ≤ f then decide (m < n * 2 ^ (f - e).toNat) else decide (m * 2 ^ (e - f).toNat < n)

/-- `x < y` for finite values and infinities, zeros equal (R231). -/
def Val.lt : Val → Val → Bool
  | .nan, _ => false
  | _, .nan => false
  | .inf a, .inf b => a && !b
  | .inf a, .fin _ _ _ => a
  | .fin _ _ _, .inf b => !b
  | .fin a m e, .fin b n f =>
    if m = 0 ∧ n = 0 then false
    else if m = 0 then !b
    else if n = 0 then a
    else match a, b with
      | true, false => true
      | false, true => false
      | false, false => magLt m e n f
      | true, true => magLt n f m e

/-- Whether a value is NaN. -/
def Val.isNan : Val → Bool | .nan => true | _ => false

/-- Whether two values compare equal (R231). -/
def Val.eq (x y : Val) : Bool := !x.isNan && !y.isNan && !x.lt y && !y.lt x

/-- The value with its sign inverted. -/
def Val.neg : Val → Val | .nan => .nan | .inf a => .inf !a | .fin a m e => .fin (!a) m e

/-- The sign bit, false for NaN. -/
def Val.sign : Val → Bool | .nan => false | .inf a => a | .fin a _ _ => a

/-- The sum; NV for ∞ − ∞; an exact zero signed by R101 under `rm`. -/
def Val.add (rm : Nat) : Val → Val → Val × Flags
  | .nan, _ => (.nan, 0)
  | _, .nan => (.nan, 0)
  | .inf a, .inf b => if a = b then (.inf a, 0) else (.nan, flNV)
  | .inf a, .fin _ _ _ => (.inf a, 0)
  | .fin _ _ _, .inf b => (.inf b, 0)
  | .fin a m e, .fin b n f =>
    let g := min e f
    let x : Int := (if a then -1 else 1) * (m * 2 ^ (e - g).toNat : Nat)
    let y : Int := (if b then -1 else 1) * (n * 2 ^ (f - g).toNat : Nat)
    let z := x + y
    if z = 0 then (.fin (if m = 0 ∧ n = 0 ∧ a = b then a else rm == 3) 0 0, 0)
    else (.fin (decide (z < 0)) z.natAbs g, 0)

/-- The product; NV for 0 × ∞ (R229). -/
def Val.mul : Val → Val → Val × Flags
  | .nan, _ => (.nan, 0)
  | _, .nan => (.nan, 0)
  | .inf a, .inf b => (.inf (a != b), 0)
  | .inf a, .fin b n _ => if n = 0 then (.nan, flNV) else (.inf (a != b), 0)
  | .fin a m _, .inf b => if m = 0 then (.nan, flNV) else (.inf (a != b), 0)
  | .fin a m e, .fin b n f => (.fin (a != b) (m * n) (e + f), 0)

/-! ### Decoding (R97, R104, R105) -/

/-- The run length of equal bits from bit `i` − 1 down (R105). -/
def runLen (m : Nat) (b : Nat) : Nat → Nat
  | 0 => 0
  | i + 1 => if m / 2 ^ i % 2 = b then runLen m b i + 1 else 0

/-- `decode_tf` for `nb` bits (R105). -/
def decodeTf (c nb : Nat) : Val :=
  if c = 0 then .fin false 0 0
  else if c = 2 ^ (nb - 1) then .nan
  else
    let mb := nb - 1
    let m := c % 2 ^ mb
    let b := m / 2 ^ (mb - 1) % 2
    let n := runLen m b mb
    let k : Int := if b = 1 then n - 1 else - (n : Int)
    let rest := mb - 1 - n
    let e := if 1 ≤ rest then m / 2 ^ (rest - 1) % 2 else 0
    let fb := rest - 1
    .fin (c / 2 ^ mb % 2 == 1) (2 ^ fb + m % 2 ^ fb) (2 * k + e - fb)

/-- The value of a code (R97, R98: bits 7:6 of a TF6 lane are ignored). -/
def decode (f : Fmt) (c : Nat) : Val :=
  match f with
  | .tf8 => decodeTf (c % 256) 8
  | .tf6 => decodeTf (c % 64) 6
  | _ =>
    let (eb, mb, bias) := fmtShape f
    let s := c / 2 ^ (eb + mb) % 2 == 1
    let x := c / 2 ^ mb % 2 ^ eb
    let m := c % 2 ^ mb
    let top := 2 ^ eb - 1
    if x = top ∧ f ≠ .e4m3 then (if m = 0 then .inf s else .nan)
    else if f = .e4m3 ∧ x = top ∧ m = 7 then .nan
    else if x = 0 then .fin s m (1 - (bias : Int) - mb)
    else .fin s (2 ^ mb + m) ((x : Int) - bias - mb)

/-- The value of an E8M0 code (R104). -/
def decodeE8 (c : Nat) : Val := if c % 256 = 255 then .nan else .fin false 1 ((c % 256 : Nat) - 127)

/-- Whether a code is subnormal (R97). -/
def subnormal (f : Fmt) (c : Nat) : Bool :=
  match f with
  | .tf8 => false | .tf6 => false
  | _ => let (eb, mb, _) := fmtShape f; c / 2 ^ mb % 2 ^ eb == 0 && c % 2 ^ mb != 0

/-! ### `FPC` (R99) -/

/-- The rounding mode of an `FPC` value. -/
def fpcRm (fpc : Dword) : Nat := fld fpc 0 2

/-- Whether `FPC` flushes a format: FZ32 for binary32 and bfloat16, FZ16 for binary16 (R99). -/
def fpcFlush (fpc : Dword) (f : Fmt) : Bool :=
  match f with | .f32 => fpc.getLsbD 3 | .bf16 => fpc.getLsbD 3 | .f16 => fpc.getLsbD 2 | _ => false

/-- An operand's value, a subnormal flushed when `FPC` flushes its format (R227). -/
def operand (fpc : Dword) (f : Fmt) (c : Nat) : Val :=
  match decode f c with
  | .fin s m e => if fpcFlush fpc f && subnormal f c then .fin s 0 0 else .fin s m e
  | v => v

/-! ### Rounding (R101, R102, R109) -/

/-- `m` × 2^`e` in units of 2^`q`, rounded under `rm`: the count and whether it is inexact. -/
def roundAt (rm : Nat) (neg : Bool) (m : Nat) (e q : Int) : Nat × Bool :=
  if q ≤ e then (m * 2 ^ (e - q).toNat, false)
  else
    let s := (q - e).toNat
    let hi := m / 2 ^ s
    let lo := m % 2 ^ s
    let up := match rm with
      | 0 => decide (2 ^ s < 2 * lo) || (2 * lo == 2 ^ s && hi % 2 == 1)
      | 1 => false
      | 2 => !neg && lo != 0
      | _ => neg && lo != 0
    (if up then hi + 1 else hi, lo != 0)

/-- Rounding into a sign, exponent and fraction format: code and flags (R101, R102). -/
def roundBin (f : Fmt) (rm : Nat) (fz satn : Bool) (neg : Bool) (m : Nat) (e : Int) : Nat × Flags :=
  let (eb, mb, bias) := fmtShape f
  let sb := if neg then 2 ^ (eb + mb) else 0
  if m = 0 then (sb, 0)
  else
    let emin : Int := 1 - (bias : Int)
    let top := e + bitLen m - 1
    let free := roundAt rm neg m e (top - mb)
    let tiny := magLt free.1 (top - mb) 1 emin
    if tiny && fz then (sb, flUF ||| flNX)
    else
      let q := max (top - mb) (emin - mb)
      let (c, nx) := roundAt rm neg m e q
      let fl := (if nx then flNX else 0) ||| (if tiny && nx then flUF else 0)
      let q' := if c = 2 ^ (mb + 1) then q + 1 else q
      let c' := if c = 2 ^ (mb + 1) then c / 2 else c
      let x : Int := if c' < 2 ^ mb then 0 else q' + mb + bias
      let maxX : Int := if f = .e4m3 then 15 else 2 ^ eb - 2
      let maxM : Nat := if f = .e4m3 then 6 else 2 ^ mb - 1
      if maxX < x ∨ (x = maxX ∧ maxM < c' - 2 ^ mb) then
        let big := sb + maxX.toNat * 2 ^ mb + maxM
        let inf := sb + (2 ^ eb - 1) * 2 ^ mb
        match f with
        | .e4m3 => if satn then (big, fl ||| flNX ||| flSAT) else (sb + 0x7F, fl ||| flNX ||| flOF)
        | .e5m2 => if satn then (big, fl ||| flNX ||| flSAT) else (inf, fl ||| flNX ||| flOF)
        | _ => (if rm = 0 ∨ (rm = 2 ∧ !neg) ∨ (rm = 3 ∧ neg) then inf else big, flOF ||| flNX)
      else (sb + x.toNat * 2 ^ mb + (if c' < 2 ^ mb then c' else c' - 2 ^ mb), fl)

/-- The magnitude of a positive tapered code. -/
def tfMag (c nb : Nat) : Nat × Int := match decodeTf c nb with | .fin _ m e => (m, e) | _ => (0, 0)

/-- The largest positive tapered code whose value is not above m × 2^e, found bit by bit from bit `i` − 1 down. -/
def tfBelow (nb m : Nat) (e : Int) : Nat → Nat → Nat
  | 0, c => c
  | i + 1, c =>
    let d := c + 2 ^ i
    let (n, f) := tfMag d nb
    if magLt m e n f then tfBelow nb m e i c else tfBelow nb m e i d

/-- Rounding into TF8 or TF6 (R109), whatever the rounding mode. -/
def roundTf (nb : Nat) (neg : Bool) (m : Nat) (e : Int) : Nat × Flags :=
  if m = 0 then (0, 0)
  else
    let maxc := 2 ^ (nb - 1) - 1
    let (pm, pe) := tfMag maxc nb
    let sb := if neg then 2 ^ (nb - 1) else 0
    if magLt pm pe m e then (sb + maxc, flSAT ||| flNX)
    else
      let c := tfBelow nb m e (nb - 1) 0
      let (lm, le) := tfMag c nb
      let exact := !magLt lm le m e
      if exact then (sb + c, 0)
      else
        let (um, ue) := tfMag (c + 1) nb
        -- twice x against the sum of the neighbours
        let g := min le ue
        let sum := lm * 2 ^ (le - g).toNat + um * 2 ^ (ue - g).toNat
        let r := if magLt (2 * m) e sum g then c
          else if magLt sum g (2 * m) e then c + 1
          else if c % 2 = 0 then c else c + 1
        (if r = 0 then 0 else sb + r, flNX)

/-- `round(x, fmt, rm)` with `FPC` giving mode, flushing and narrow saturation: the code and the flags (R101, R102,
R109). -/
def round (f : Fmt) (fpc : Dword) (x : Val) : Nat × Flags :=
  match x with
  | .nan => (canonNan f, 0)
  | .inf s =>
    match f with
    | .tf8 => (if s then 0xFF else 0x7F, flSAT)
    | .tf6 => (if s then 0x3F else 0x1F, flSAT)
    | .e4m3 => if fpc.getLsbD 4 then (if s then 0xFE else 0x7E, flSAT) else (if s then 0xFF else 0x7F, flOF)
    | .e5m2 => if fpc.getLsbD 4 then (if s then 0xFB else 0x7B, flSAT) else (if s then 0xFC else 0x7C, flOF)
    | _ => let (eb, mb, _) := fmtShape f
           ((if s then 2 ^ (eb + mb) else 0) + (2 ^ eb - 1) * 2 ^ mb, 0)
  | .fin s m e =>
    match f with
    | .tf8 => roundTf 8 s m e
    | .tf6 => roundTf 6 s m e
    | _ => roundBin f (fpcRm fpc) (fpcFlush fpc f) (fpc.getLsbD 4) s m e

/-- `round_ne(x, fmt)` (R101): nearest, ties to even, nothing flushed, the code alone. -/
def roundNe (f : Fmt) (x : Val) : Nat := (round f 0x10 x).1

/-- `FPC` with its mode alone, for binary32 intermediate results. -/
def Val.roundedTo (f : Fmt) (x : Val) : Val := decode f (roundNe f x)

/-! ### Integers (R103, R234) -/

/-- Whether integer type `t` is signed (R122). -/
def intSigned (t : BitVec 3) : Bool := t != 3

/-- The value of a lane of integer type `t`. -/
def intVal (t : BitVec 3) (c : Nat) : Int :=
  let n := intBits t
  let c := c % 2 ^ n
  if intSigned t && decide (2 ^ (n - 1) ≤ c) then (c : Int) - 2 ^ n else c

/-- The code of an integer in `n` bits. -/
def intCode (n : Nat) (x : Int) : Nat := (x % (2 ^ n : Int)).toNat

/-- The range of an integer type (R97). -/
def intRange (t : BitVec 3) : Int × Int :=
  let n := intBits t
  if intSigned t then (- 2 ^ (n - 1), 2 ^ (n - 1) - 1) else (0, 2 ^ n - 1)

/-- Floating to integer (R103). -/
def toInt (t : BitVec 3) (rm : Nat) (x : Val) : Nat × Flags :=
  let (lo, hi) := intRange t
  match x with
  | .nan => (0, flNV)
  | .inf s => (intCode (intBits t) (if s then lo else hi), flSAT)
  | .fin s m e =>
    let (c, nx) := roundAt rm s m e 0
    let v : Int := if s then - (c : Int) else c
    if v < lo then (intCode (intBits t) lo, flSAT ||| flNX)
    else if hi < v then (intCode (intBits t) hi, flSAT ||| flNX)
    else (intCode (intBits t) v, if nx then flNX else 0)

/-- An integer as an exact value. -/
def Val.ofInt (x : Int) : Val := .fin (decide (x < 0)) x.natAbs 0

/-- The value rounded to an integral one under `rm`, keeping its sign (R230 `VRND`). -/
def Val.integral (rm : Nat) : Val → Val
  | .fin s m e => .fin s (roundAt rm s m e 0).1 0
  | v => v

/-! ### The special functions (R248), correctly rounded (log 10) -/

/-- ⌊√n⌋ built from bit `i` − 1 down. -/
def isqrtAux (n : Nat) : Nat → Nat → Nat
  | 0, r => r
  | i + 1, r => if (r + 2 ^ i) * (r + 2 ^ i) ≤ n then isqrtAux n i (r + 2 ^ i) else isqrtAux n i r

/-- ⌊√n⌋. -/
def isqrt (n : Nat) : Nat := isqrtAux n (bitLen n / 2 + 1) 0

/-- A quotient n / d to 64 bits and more, its lowest bit odd when inexact: value × 2^`k`. -/
def sticky (q : Nat) (inexact : Bool) (k : Int) (neg : Bool) : Val :=
  .fin neg (2 * q + (if inexact then 1 else 0)) (k - 1)

/-- 1 / x. -/
def Val.rcp : Val → Val × Flags
  | .nan => (.nan, 0)
  | .inf s => (.fin s 0 0, 0)
  | .fin s m e =>
    if m = 0 then (.inf s, flDZ)
    else
      let n := bitLen m + 64
      (sticky (2 ^ n / m) (2 ^ n % m != 0) (- e - n) s, 0)

/-- √x. -/
def Val.sqrt : Val → Val × Flags
  | .nan => (.nan, 0)
  | .inf s => if s then (.nan, flNV) else (.inf false, 0)
  | .fin s m e =>
    if m = 0 then (.fin s 0 0, 0)
    else if s then (.nan, flNV)
    else
      let (m, e) := if e % 2 = 0 then (m, e) else (2 * m, e - 1)
      let x := m * 2 ^ 128
      let r := isqrt x
      (sticky r (r * r != x) (e / 2 - 64) false, 0)

/-- 1 / √x. -/
def Val.rsqrt : Val → Val × Flags
  | .nan => (.nan, 0)
  | .inf s => if s then (.nan, flNV) else (.fin false 0 0, 0)
  | .fin s m e =>
    if m = 0 then (.inf s, flDZ)
    else if s then (.nan, flNV)
    else
      let (m, e) := if e % 2 = 0 then (m, e) else (2 * m, e - 1)
      let n := bitLen m + bitLen m % 2 + 128
      let x := 2 ^ n / m
      let r := isqrt x
      (sticky r (r * r * m != 2 ^ n) (- (e / 2) - (n / 2 : Nat)) false, 0)

/-- Fraction bits of the series. -/
def serBits : Nat := 320

/-- ln 2 × 2^320. -/
def ln2Fix : Nat := 0xb17217f7d1cf79abc9e3b39803f2f6af40f343267298b62d8a0d175b8baafa2be7b876206debac98

/-- Σ from term n of y^n / n!, given the term: `k` terms. -/
def expSeries (y : Nat) : Nat → Nat → Nat → Nat
  | 0, _, _ => 0
  | k + 1, n, t => t + expSeries y k (n + 1) (t * y / 2 ^ serBits / (n + 1))

/-- 2^x (R248). A finite x beyond ±4096 rounds as ±4096 does, in every format. -/
def Val.exp2 : Val → Val × Flags
  | .nan => (.nan, 0)
  | .inf s => (if s then .fin false 0 0 else .inf false, 0)
  | .fin s m e =>
    if m = 0 then (.fin false 1 0, 0)
    else if magLt 4096 0 m e then (.fin false 1 (if s then -4096 else 4096), 0)
    else
      let whole := (m * 2 ^ serBits * 2 ^ e.toNat) / 2 ^ (-e).toNat
      let k : Int := whole / 2 ^ serBits
      let f := whole % 2 ^ serBits
      if f = 0 then (.fin false 1 (if s then -k else k), 0)
      else
        let (k, f) := if s then (-k - 1, 2 ^ serBits - f) else (k, f)
        let y := f * ln2Fix / 2 ^ serBits
        (sticky (expSeries y 90 0 (2 ^ serBits)) true (k - serBits) false, 0)

/-- Σ z^(2n+1)/(2n+1), given z² and the power: `k` terms. -/
def atanhSeries (z2 : Nat) : Nat → Nat → Nat → Nat
  | 0, _, _ => 0
  | k + 1, n, t => t / (2 * n + 1) + atanhSeries z2 k (n + 1) (t * z2 / 2 ^ serBits)

/-- log2 x (R248). -/
def Val.log2 : Val → Val × Flags
  | .nan => (.nan, 0)
  | .inf s => if s then (.nan, flNV) else (.inf false, 0)
  | .fin s m e =>
    if m = 0 then (.inf true, flDZ)
    else if s then (.nan, flNV)
    else
      let b := bitLen m - 1
      let k : Int := e + b
      let g := m * 2 ^ serBits / 2 ^ b - 2 ^ serBits
      if g = 0 then (Val.ofInt k, 0)
      else
        let z := g * 2 ^ serBits / (2 * 2 ^ serBits + g)
        let ln := 2 * atanhSeries (z * z / 2 ^ serBits) 110 0 z
        let t : Int := k * 2 ^ serBits + (ln * 2 ^ serBits / ln2Fix : Nat)
        (sticky t.natAbs true (- serBits) (decide (t < 0)), 0)

/-! ### Lanes (R133, R223) -/

/-- The `n` lanes of `lb` bits of a row, lane 0 first. -/
def lanes (lb n : Nat) (x : Row) : List Nat := (List.range n).map fun i => nbits x.toNat (lb * i) lb

/-- The number whose lanes of `lb` bits are `l`. -/
def lanesNat (lb : Nat) : List Nat → Nat
  | [] => 0
  | v :: r => v % 2 ^ lb + 2 ^ lb * lanesNat lb r

/-- The row whose lanes of `lb` bits are `l`. -/
def ofLanes (lb : Nat) (l : List Nat) : Row := BitVec.ofNat 2048 (lanesNat lb l)

/-- Flags of several lanes. -/
def orFlags (l : List (Nat × Flags)) : Flags := l.foldl (fun a x => a ||| x.2) 0

/-- Lanes with flags as a row and their flags. -/
def packLanes (lb : Nat) (l : List (Nat × Flags)) : Row × Flags := (ofLanes lb (l.map (·.1)), orFlags l)

/-- −0 below +0, numbers by value, a NaN losing (R230, R194, R244): whether `x` is chosen as the greater of x and y. -/
def maxFirst (x y : Val) : Bool :=
  match x, y with
  | .nan, _ => false
  | _, .nan => true
  | x, y => if x.eq y then !(x.sign && !y.sign) else y.lt x

/-- The code that a lane holds: of TF6 bits 5:0 (R98). -/
def laneCode (f : Fmt) (c : Nat) : Nat := match f with | .tf6 => c % 64 | _ => c

/-- `VMAX` of two codes; two NaNs give the canonical NaN. -/
def codeMax (f : Fmt) (fpc : Dword) (a b : Nat) : Nat :=
  let x := operand fpc f a
  let y := operand fpc f b
  if x.isNan && y.isNan then canonNan f
  else if maxFirst x y then flushed f fpc a else flushed f fpc b
where
  /-- a code, a flushed subnormal as the zero of its sign -/
  flushed (f : Fmt) (fpc : Dword) (c : Nat) : Nat :=
    if fpcFlush fpc f && subnormal f c then c / 2 ^ (fmtBits f - 1) % 2 * 2 ^ (fmtBits f - 1) else laneCode f c

/-- `VMIN` of two codes. -/
def codeMin (f : Fmt) (fpc : Dword) (a b : Nat) : Nat :=
  let x := operand fpc f a
  let y := operand fpc f b
  if x.isNan && y.isNan then canonNan f
  else if x.isNan then codeMax.flushed f fpc b
  else if y.isNan then codeMax.flushed f fpc a
  else if maxFirst x y && !(x.eq y && x.sign == y.sign) then codeMax.flushed f fpc b else codeMax.flushed f fpc a

/-! ### Power-of-two scales (R114) -/

/-- The smallest s with a / 2^s ≤ M, clamped to −127 … 127; 0 when a = 0 (R114). -/
def scaleExp (am : Nat) (ae : Int) (mm : Nat) : Int :=
  if am = 0 then 0
  else
    -- s starts where a / 2^s has M's leading bit, one below or above
    let s0 : Int := ae + bitLen am - bitLen mm
    let s := if magLt mm s0 am ae then s0 + 1 else s0
    max (-127) (min 127 s)

/-- The largest magnitude of a quantising target: `i8` 127, E4M3 448, E5M2 57344, TF8 4096, TF6 256 (R114). -/
def quantMax (t : BitVec 3) : Nat :=
  match t.toNat with | 0 => 127 | 3 => 4096 | 4 => 256 | 5 => 448 | _ => 57344

/-- An element of a set that holds a NaN (R114): the target's NaN, or 0 for INT8, where an element that is itself a NaN sets NV
(R103, R236). -/
def quantNan (t : BitVec 3) (x : Val) : Nat × Flags :=
  if t = 0 then (0, if x.isNan then flNV else 0) else (canonNan (fmtOf t), 0)

/-- One element quantised: round(x / 2^s, target, rm), ±∞ to ±M with SAT (R114). -/
def quantElem (t : BitVec 3) (fpc : Dword) (s : Int) (x : Val) : Nat × Flags :=
  match x with
  | .nan => quantNan t x
  | .inf n =>
    if t = 0 then (intCode 8 (if n then -127 else 127), flSAT)
    else ((round (fmtOf t) (fpc ||| 0x10) (.fin n (quantMax t) 0)).1, flSAT)
  | .fin n m e =>
    if t = 0 then toInt 2 (fpcRm fpc) (.fin n m (e - s))
    else round (fmtOf t) fpc (.fin n m (e - s))

end Sys2Proof.Machine
end

