-- ==== Sys2Proof/Machine/Vector.lean ====
section
/-!
DEFINITION. The A/B instructions (R222 to R246): each definition is the word's issue. Its predicate was read at
dispatch (R68), its sources are popped or peeked here, and its result is pushed at issue plus latency (R90).
-/

namespace Sys2Proof.Machine

/-! ### Shared operations -/

/-- The running word's captured `FPC` (R89). -/
def State.fpc (s : State) : Dword := s.act.entry.fpc

/-- An A, B or X word at issue (R226, R349): its checks raise cause 17 for a limit broken and 20 for a queue of depth
0 (R339); otherwise the run of its slot goes on, `f` reads the sources and schedules the result. -/
def vWord (i : Instr) (f : State → State) (s : State) : Out1 :=
  .next (s.issueChecked false i (info i).rows fun s =>
    let sl := slotNum s.act.entry.slot
    let s1 := s.onArch fun a => a.beginWord sl s.act.entry.run
    (f s1).onArch fun a => a.endWord sl s.act.entry.held)

/-- Pushes a row with its flags `lat` cycles after issue. -/
def State.pushLater (s : State) (lat : Nat) (d : BitVec 5) (x : Row × Flags) : State := s.later lat (.push d x.1 x.2)

/-- One source, lane by lane, one result (R223). -/
def vec1 (w : BitVec 2) (lb lat : Nat) (d : BitVec 5) (j : BitVec 1) (a : BitVec 5)
    (g : Dword → Nat → Nat × Flags) (s : State) : State :=
  let (x, s1) := s.src (j == 1) a (rowWidth w)
  s1.pushLater lat d (packLanes lb ((lanes lb (rowWidth w / lb) x).map (g s.fpc)))

/-- Two sources, lane by lane, one result (R223). -/
def vec2 (w : BitVec 2) (lb lat : Nat) (d : BitVec 5) (j : BitVec 1) (a : BitVec 5) (k : BitVec 1) (b : BitVec 5)
    (g : Dword → Nat → Nat → Nat × Flags) (s : State) : State :=
  let (x, s1) := s.src (j == 1) a (rowWidth w)
  let (y, s2) := s1.src (k == 1) b (rowWidth w)
  let n := rowWidth w / lb
  s2.pushLater lat d (packLanes lb (List.zipWith (g s.fpc) (lanes lb n x) (lanes lb n y)))

/-- Two sources and the accumulator popped from the destination queue (R224). -/
def vec3 (w : BitVec 2) (lb lat : Nat) (d : BitVec 5) (j : BitVec 1) (a : BitVec 5) (k : BitVec 1) (b : BitVec 5)
    (g : Dword → Nat → Nat → Nat → Nat × Flags) (s : State) : State :=
  let (x, s1) := s.src (j == 1) a (rowWidth w)
  let (y, s2) := s1.src (k == 1) b (rowWidth w)
  let (z, s3) := s2.src false d (rowWidth w)
  let n := rowWidth w / lb
  s3.pushLater lat d (packLanes lb
    (List.zipWith (fun (p : Nat × Nat) c => g s.fpc p.1 p.2 c) (List.zip (lanes lb n x) (lanes lb n y)) (lanes lb n z)))

/-- Two sources compared lane by lane into a lane mask, bits n to 255 clear (R231). -/
def vecMask (w : BitVec 2) (lb : Nat) (m : BitVec 3) (j : BitVec 1) (a : BitVec 5) (k : BitVec 1) (b : BitVec 5)
    (g : Dword → Nat → Nat → Bool × Flags) (s : State) : State :=
  let (x, s1) := s.src (j == 1) a (rowWidth w)
  let (y, s2) := s1.src (k == 1) b (rowWidth w)
  let n := rowWidth w / lb
  let r := List.zipWith (g s.fpc) (lanes lb n x) (lanes lb n y)
  s2.later 2 (.mask m (BitVec.ofNat 256 (lanesNat 1 (r.map fun p => if p.1 then 1 else 0)))
    (r.foldl (fun f p => f ||| p.2) 0))

/-- A floating operation on two codes: exact on the values, one rounding (R229). -/
def fop2 (f : Fmt) (op : Nat → Val → Val → Val × Flags) (fpc : Dword) (a b : Nat) : Nat × Flags :=
  let (v, fl) := op (fpcRm fpc) (operand fpc f a) (operand fpc f b)
  let (c, fl2) := round f fpc v
  (c, fl ||| fl2)

/-- A fused operation x · y then added to or subtracted from z (R229). -/
def ffma (f : Fmt) (sub : Bool) (fpc : Dword) (a b c : Nat) : Nat × Flags :=
  let (p, f1) := (operand fpc f a).mul (operand fpc f b)
  let (v, f2) := Val.add (fpcRm fpc) (operand fpc f c) (if sub then p.neg else p)
  let (r, f3) := round f fpc v
  (r, f1 ||| f2 ||| f3)

/-- An integer operation on lanes of `lb` bits (R233): the low `lb` bits, no flag. -/
def iop2 (lb : Nat) (op : Nat → Nat → Nat) (_ : Dword) (a b : Nat) : Nat × Flags := (op a b % 2 ^ lb, 0)

/-- The condition of `VCMP` and `VICMP` (R228): 0 eq, 1 ne, 2 lt, 3 le. -/
def ccOf (c : BitVec 2) (eq lt : Bool) : Bool :=
  match c.toNat with | 0 => eq | 1 => !eq | 2 => lt | _ => lt || eq

/-- Bit `i` of a lane mask of the running word's context. -/
def State.laneMask (s : State) (m : BitVec 3) : Mask := s.arch.masks[m.toNat]'m.isLt

/-! ### Floating arithmetic (R229, R230) -/

/-- `NOP.a`, `NOP.b` (R68). -/
def execNopAb (h : BitVec 1) (p : BitVec 3) (s : State) : Out1 := vWord (.nopAb h p) (fun s => s) s

/-- `VADD`. -/
def execVadd (h : BitVec 1) (p : BitVec 3) (w : BitVec 2) (t : BitVec 3) (d : BitVec 5) (j : BitVec 1) (a : BitVec 5)
    (k : BitVec 1) (b : BitVec 5) (s : State) : Out1 :=
  vWord (.vadd h p w t d j a k b) (vec2 w (fmtBits (fmtOf t)) 4 d j a k b (fop2 (fmtOf t) Val.add)) s

/-- `VSUB`. -/
def execVsub (h : BitVec 1) (p : BitVec 3) (w : BitVec 2) (t : BitVec 3) (d : BitVec 5) (j : BitVec 1) (a : BitVec 5)
    (k : BitVec 1) (b : BitVec 5) (s : State) : Out1 :=
  vWord (.vsub h p w t d j a k b)
    (vec2 w (fmtBits (fmtOf t)) 4 d j a k b (fop2 (fmtOf t) fun rm x y => Val.add rm x y.neg)) s

/-- `VMUL`. -/
def execVmul (h : BitVec 1) (p : BitVec 3) (w : BitVec 2) (t : BitVec 3) (d : BitVec 5) (j : BitVec 1) (a : BitVec 5)
    (k : BitVec 1) (b : BitVec 5) (s : State) : Out1 :=
  vWord (.vmul h p w t d j a k b)
    (vec2 w (fmtBits (fmtOf t)) 4 d j a k b (fop2 (fmtOf t) fun _ x y => x.mul y)) s

/-- `VFMA`. -/
def execVfma (h : BitVec 1) (p : BitVec 3) (w : BitVec 2) (t : BitVec 3) (d : BitVec 5) (j : BitVec 1) (a : BitVec 5)
    (k : BitVec 1) (b : BitVec 5) (s : State) : Out1 :=
  vWord (.vfma h p w t d j a k b) (vec3 w (fmtBits (fmtOf t)) 4 d j a k b (ffma (fmtOf t) false)) s

/-- `VFMS`. -/
def execVfms (h : BitVec 1) (p : BitVec 3) (w : BitVec 2) (t : BitVec 3) (d : BitVec 5) (j : BitVec 1) (a : BitVec 5)
    (k : BitVec 1) (b : BitVec 5) (s : State) : Out1 :=
  vWord (.vfms h p w t d j a k b) (vec3 w (fmtBits (fmtOf t)) 4 d j a k b (ffma (fmtOf t) true)) s

/-- `VMIN`. -/
def execVmin (h : BitVec 1) (p : BitVec 3) (w : BitVec 2) (t : BitVec 3) (d : BitVec 5) (j : BitVec 1) (a : BitVec 5)
    (k : BitVec 1) (b : BitVec 5) (s : State) : Out1 :=
  vWord (.vmin h p w t d j a k b)
    (vec2 w (fmtBits (fmtOf t)) 2 d j a k b fun fpc x y => (codeMin (fmtOf t) fpc x y, 0)) s

/-- `VMAX`. -/
def execVmax (h : BitVec 1) (p : BitVec 3) (w : BitVec 2) (t : BitVec 3) (d : BitVec 5) (j : BitVec 1) (a : BitVec 5)
    (k : BitVec 1) (b : BitVec 5) (s : State) : Out1 :=
  vWord (.vmax h p w t d j a k b)
    (vec2 w (fmtBits (fmtOf t)) 2 d j a k b fun fpc x y => (codeMax (fmtOf t) fpc x y, 0)) s

/-- The sign bit of a code changed (R230): a tapered zero or NaN is returned as it is. -/
def signCode (t : BitVec 3) (inv : Bool) (c : Nat) : Nat :=
  let sb := match fmtOf t with | .tf6 => 32 | f => 2 ^ (fmtBits f - 1)
  let c := match fmtOf t with | .tf6 => c % 64 | _ => c
  let tapered := match fmtOf t with | .tf8 => true | .tf6 => true | _ => false
  if tapered && (c == 0 || c == sb) then c
  else if inv then (if c / sb % 2 = 1 then c - sb else c + sb) else (if c / sb % 2 = 1 then c - sb else c)

/-- `VABS`. -/
def execVabs (h : BitVec 1) (p : BitVec 3) (w : BitVec 2) (t : BitVec 3) (d : BitVec 5) (j : BitVec 1) (a : BitVec 5)
    (s : State) : Out1 :=
  vWord (.vabs h p w t d j a) (vec1 w (fmtBits (fmtOf t)) 2 d j a fun _ c => (signCode t false c, 0)) s

/-- `VNEG`. -/
def execVneg (h : BitVec 1) (p : BitVec 3) (w : BitVec 2) (t : BitVec 3) (d : BitVec 5) (j : BitVec 1) (a : BitVec 5)
    (s : State) : Out1 :=
  vWord (.vneg h p w t d j a) (vec1 w (fmtBits (fmtOf t)) 2 d j a fun _ c => (signCode t true c, 0)) s

/-- `VCMP` (R231). -/
def execVcmp (h : BitVec 1) (p : BitVec 3) (w : BitVec 2) (t : BitVec 3) (c : BitVec 2) (m : BitVec 3) (j : BitVec 1)
    (a : BitVec 5) (k : BitVec 1) (b : BitVec 5) (s : State) : Out1 :=
  vWord (.vcmp h p w t c m j a k b)
    (vecMask w (fmtBits (fmtOf t)) m j a k b fun fpc x y =>
      let u := operand fpc (fmtOf t) x
      let v := operand fpc (fmtOf t) y
      let nan := u.isNan || v.isNan
      (if nan then c == 1 else ccOf c (u.eq v) (u.lt v), if nan && decide (2 ≤ c.toNat) then flNV else 0)) s

/-- `VSEL` (R232): lane i of a where bit i of `m0` is set. -/
def execVsel (h : BitVec 1) (p : BitVec 3) (w : BitVec 2) (t : BitVec 3) (d : BitVec 5) (j : BitVec 1) (a : BitVec 5)
    (k : BitVec 1) (b : BitVec 5) (s : State) : Out1 :=
  vWord (.vsel h p w t d j a k b)
    (fun s =>
      let lb := fmtBits (fmtOf t)
      let n := rowWidth w / lb
      let m := s.laneMask 0
      let (x, s1) := s.src (j == 1) a (rowWidth w)
      let (y, s2) := s1.src (k == 1) b (rowWidth w)
      s2.pushLater 2 d (ofLanes lb ((List.range n).map fun i =>
        nbits (if m.getLsbD i then x else y).toNat (lb * i) lb), 0)) s

/-! ### Integer and logical lanes (R233) -/

/-- `VIADD`. -/
def execViadd (h : BitVec 1) (p : BitVec 3) (w : BitVec 2) (t : BitVec 3) (d : BitVec 5) (j : BitVec 1) (a : BitVec 5)
    (k : BitVec 1) (b : BitVec 5) (s : State) : Out1 :=
  vWord (.viadd h p w t d j a k b) (vec2 w (intBits t) 2 d j a k b (iop2 (intBits t) fun x y => x + y)) s

/-- `VISUB`. -/
def execVisub (h : BitVec 1) (p : BitVec 3) (w : BitVec 2) (t : BitVec 3) (d : BitVec 5) (j : BitVec 1) (a : BitVec 5)
    (k : BitVec 1) (b : BitVec 5) (s : State) : Out1 :=
  vWord (.visub h p w t d j a k b)
    (vec2 w (intBits t) 2 d j a k b (iop2 (intBits t) fun x y => x + 2 ^ intBits t - y)) s

/-- `VIMUL`. -/
def execVimul (h : BitVec 1) (p : BitVec 3) (w : BitVec 2) (t : BitVec 3) (d : BitVec 5) (j : BitVec 1) (a : BitVec 5)
    (k : BitVec 1) (b : BitVec 5) (s : State) : Out1 :=
  vWord (.vimul h p w t d j a k b) (vec2 w (intBits t) 2 d j a k b (iop2 (intBits t) fun x y => x * y)) s

/-- `VIMAC`: c + a × b. -/
def execVimac (h : BitVec 1) (p : BitVec 3) (w : BitVec 2) (t : BitVec 3) (d : BitVec 5) (j : BitVec 1) (a : BitVec 5)
    (k : BitVec 1) (b : BitVec 5) (s : State) : Out1 :=
  vWord (.vimac h p w t d j a k b)
    (vec3 w (intBits t) 2 d j a k b fun _ x y c => ((c + x * y) % 2 ^ intBits t, 0)) s

/-- `VAND`. -/
def execVand (h : BitVec 1) (p : BitVec 3) (w : BitVec 2) (t : BitVec 3) (d : BitVec 5) (j : BitVec 1) (a : BitVec 5)
    (k : BitVec 1) (b : BitVec 5) (s : State) : Out1 :=
  vWord (.vand h p w t d j a k b) (vec2 w (intBits t) 2 d j a k b (iop2 (intBits t) fun x y => x &&& y)) s

/-- `VOR`. -/
def execVor (h : BitVec 1) (p : BitVec 3) (w : BitVec 2) (t : BitVec 3) (d : BitVec 5) (j : BitVec 1) (a : BitVec 5)
    (k : BitVec 1) (b : BitVec 5) (s : State) : Out1 :=
  vWord (.vor h p w t d j a k b) (vec2 w (intBits t) 2 d j a k b (iop2 (intBits t) fun x y => x ||| y)) s

/-- `VXOR`. -/
def execVxor (h : BitVec 1) (p : BitVec 3) (w : BitVec 2) (t : BitVec 3) (d : BitVec 5) (j : BitVec 1) (a : BitVec 5)
    (k : BitVec 1) (b : BitVec 5) (s : State) : Out1 :=
  vWord (.vxor h p w t d j a k b) (vec2 w (intBits t) 2 d j a k b (iop2 (intBits t) fun x y => x ^^^ y)) s

/-- `VSHL`: zero when the count reaches the lane size. -/
def execVshl (h : BitVec 1) (p : BitVec 3) (w : BitVec 2) (t : BitVec 3) (d : BitVec 5) (j : BitVec 1) (a : BitVec 5)
    (k : BitVec 1) (b : BitVec 5) (s : State) : Out1 :=
  vWord (.vshl h p w t d j a k b)
    (vec2 w (intBits t) 2 d j a k b (iop2 (intBits t) fun x y => if intBits t ≤ y then 0 else x * 2 ^ y)) s

/-- `VSHR`: zeros enter. -/
def execVshr (h : BitVec 1) (p : BitVec 3) (w : BitVec 2) (t : BitVec 3) (d : BitVec 5) (j : BitVec 1) (a : BitVec 5)
    (k : BitVec 1) (b : BitVec 5) (s : State) : Out1 :=
  vWord (.vshr h p w t d j a k b)
    (vec2 w (intBits t) 2 d j a k b (iop2 (intBits t) fun x y => if intBits t ≤ y then 0 else x / 2 ^ y)) s

/-- `VSAR`: copies of the lane's top bit enter. -/
def execVsar (h : BitVec 1) (p : BitVec 3) (w : BitVec 2) (t : BitVec 3) (d : BitVec 5) (j : BitVec 1) (a : BitVec 5)
    (k : BitVec 1) (b : BitVec 5) (s : State) : Out1 :=
  vWord (.vsar h p w t d j a k b)
    (vec2 w (intBits t) 2 d j a k b (iop2 (intBits t) fun x y =>
      let n := intBits t
      let y := min y n
      if x / 2 ^ (n - 1) % 2 = 1 then x / 2 ^ y + (2 ^ y - 1) * 2 ^ (n - y) else x / 2 ^ y)) s

/-- `VICMP` (R231): unsigned for `u8`, signed for the others, no flag. -/
def execVicmp (h : BitVec 1) (p : BitVec 3) (w : BitVec 2) (t : BitVec 3) (c : BitVec 2) (m : BitVec 3) (j : BitVec 1)
    (a : BitVec 5) (k : BitVec 1) (b : BitVec 5) (s : State) : Out1 :=
  vWord (.vicmp h p w t c m j a k b)
    (vecMask w (intBits t) m j a k b fun _ x y =>
      (ccOf c (x == y) (decide (intVal t x < intVal t y)), 0)) s

/-! ### Conversion (R234, R103) -/

/-- One lane converted: `st` and `dt` with their table bits, 0 F and 1 I. DESIGN CHOICE (log 66): between `i8` and `u8` it saturates
as a narrowing does. -/
def convLane (fpc : Dword) (sx dx : BitVec 1) (st dt : BitVec 3) (c : Nat) : Nat × Flags :=
  if sx = 0 then
    let v := operand fpc (fmtOf st) c
    if dx = 0 then round (fmtOf dt) fpc v else toInt dt (fpcRm fpc) v
  else
    let v := intVal st c
    if dx = 0 then round (fmtOf dt) fpc (Val.ofInt v)
    else
      let (lo, hi) := intRange dt
      let n := intBits dt
      if v < lo then (intCode n lo, flSAT) else if hi < v then (intCode n hi, flSAT) else (intCode n v, 0)

/-- Lane bits of a type of either table. -/
def typeBits (x : BitVec 1) (t : BitVec 3) : Nat := if x = 0 then fmtBits (fmtOf t) else intBits t

/-- `VCVT` and `XCVT` on a row: n = W / max(size(st), size(dt)) lanes of the low bits (R234). -/
def convert (w : BitVec 2) (lat : Nat) (t : BitVec 3) (d : BitVec 5) (j : BitVec 1) (a : BitVec 5) (st : BitVec 3)
    (x y : BitVec 1) (s : State) : State :=
  let sb := typeBits x st
  let db := typeBits y t
  let n := rowWidth w / max sb db
  let (r, s1) := s.src (j == 1) a (rowWidth w)
  s1.pushLater lat d (packLanes db ((lanes sb n r).map (convLane s.fpc x y st t)))

/-- `VCVT`. -/
def execVcvt (h : BitVec 1) (p : BitVec 3) (w : BitVec 2) (t : BitVec 3) (d : BitVec 5) (j : BitVec 1) (a : BitVec 5)
    (st : BitVec 3) (x y : BitVec 1) (s : State) : Out1 :=
  vWord (.vcvt h p w t d j a st x y) (convert w 3 t d j a st x y) s

/-! ### Quantising, dequantising, rescaling (R235 to R239) -/

/-- The largest finite magnitude of a list of values, and whether it holds a NaN or an infinity (R114, R235). -/
def amax : List Val → (Nat × Int) × Bool × Bool
  | [] => ((0, 0), false, false)
  | v :: r =>
    let (x, n, i) := amax r
    match v with
    | .nan => (x, true, i)
    | .inf _ => (x, n, true)
    | .fin _ m e => (if magLt x.1 x.2 m e then (m, e) else x, n, i)

/-- A set of values quantised under the scale of R114: the codes with flags, and the scale code. -/
def quantSet (t : BitVec 3) (fpc : Dword) (big : Nat × Int) (nan : Bool) (l : List Val) : List (Nat × Flags) × Nat :=
  if nan then (l.map (quantNan t), 0xFF)
  else
    let e := if big.1 = 0 then 0 else scaleExp big.1 big.2 (quantMax t)
    (l.map (quantElem t fpc e), (e + 127).toNat)

/-- A list cut into blocks of `n`, `k` of them. -/
def blocks {α : Type} (n : Nat) : Nat → List α → List (List α)
  | 0, _ => []
  | k + 1, l => l.take n :: blocks n k (l.drop n)

/-- `VQNT` (R236, R94): row mode with a queue for B, block mode with `zq`. DESIGN CHOICE (log 65): a B row whose bits 31:0 are no
finite binary32, which no `VAMAX` pushes, gives a = 0. -/
def execVqnt (h : BitVec 1) (p : BitVec 3) (w : BitVec 2) (t : BitVec 3) (d : BitVec 5) (j : BitVec 1) (a : BitVec 5)
    (k : BitVec 1) (b : BitVec 5) (s : State) : Out1 :=
  vWord (.vqnt h p w t d j a k b)
    (fun s =>
      let n := rowWidth w / 32
      let (x, s1) := s.src (j == 1) a (rowWidth w)
      let vals := (lanes 32 n x).map (operand s.fpc .f32)
      if b = 30 then
        let bs := (blocks (min n 32) (max 1 (n / 32)) vals).map fun l =>
          let (big, nan, _) := amax l
          quantSet t s.fpc big nan l
        let els := (bs.map (·.1)).flatten
        let scs := bs.map fun q => (q.2, (0 : Flags))
        s1.pushLater 3 d (packLanes 8 (els ++ scs))
      else
        let (y, s2) := s1.src (k == 1) b (rowWidth w)
        let big := match operand s.fpc .f32 (fld y 0 32) with | .fin _ m e => (m, e) | _ => (0, 0)
        let (els, sc) := quantSet t s.fpc big (y.getLsbD 32) vals
        s2.pushLater 3 d (packLanes 8 (els ++ [(sc, 0)]))) s

/-- An element of `VDQ`: the decoded value × 2^(c − 127), rounded into binary32 (R114, R237). -/
def dequant (t : BitVec 3) (fpc : Dword) (c : Nat) (x : Nat) : Nat × Flags :=
  let v := if t = 0 then Val.ofInt (intVal 2 x) else operand fpc (fmtOf t) x
  let (m, fl) := v.mul (decodeE8 c)
  let (r, fl2) := round .f32 fpc m
  (r, fl ||| fl2)

/-- `VDQ` (R237, R387): scales from the row itself, or popped from a scale queue whose tag must equal the block
counter of the run; a difference raises cause 49. -/
def execVdq (h : BitVec 1) (p : BitVec 3) (w : BitVec 2) (t : BitVec 3) (d : BitVec 5) (j : BitVec 1) (a : BitVec 5)
    (k : BitVec 1) (b : BitVec 5) (s : State) : Out1 :=
  vWord (.vdq h p w t d j a k b)
    (fun s =>
      let n := rowWidth w / 32
      let (x, s1) := s.src (j == 1) a (rowWidth w)
      let els := lanes 8 n x
      if b = 30 then
        s1.pushLater 3 d (packLanes 32 (els.map (dequant t s.fpc (nbits x.toNat (8 * n) 8))))
      else
        let kq : BitVec 3 := b.setWidth 3
        let cnt := (s.arch.runOf (slotNum s.act.entry.slot)).n % 16
        let (e, s2) := s1.popK kq
        if e.tag.toNat ≠ cnt then
          s2.raise 49 (BitVec.ofNat 64 (kq.toNat * 256 + e.tag.toNat * 16 + cnt))
        else
          s2.pushLater 3 d (packLanes 32 ((List.range n).map fun i =>
            dequant t s.fpc (e.get (i / 32) % 256) (els.getD i 0)))) s

/-- `VSCL` (R117, R238): lane × table entry rounded, × 2^(c − 127) rounded. -/
def execVscl (h : BitVec 1) (p : BitVec 3) (w : BitVec 2) (ks : BitVec 3) (d : BitVec 5) (j : BitVec 1) (a : BitVec 5)
    (q : BitVec 3) (s : State) : Out1 :=
  vWord (.vscl h p w ks d j a q)
    (fun s =>
      let n := rowWidth w / 32
      let (x, s1) := s.src (j == 1) a (rowWidth w)
      let (tab, s2) := s1.standK q
      let (sc, s3) := s2.popK ks
      s3.pushLater 3 d (packLanes 32 ((List.range n).map fun i =>
        let (m, f0) := (operand s.fpc .f32 (nbits x.toNat (32 * i) 32)).mul (operand s.fpc .f32 (tab.get i))
        let (r1, f1) := round .f32 s.fpc m
        let (m2, f2) := (operand s.fpc .f32 r1).mul (decodeE8 (sc.get 0 % 256))
        let (r2, f3) := round .f32 s.fpc m2
        (r2, f0 ||| f1 ||| f2 ||| f3)))) s

/-- `VAMAX` (R235). -/
def execVamax (h : BitVec 1) (p : BitVec 3) (w : BitVec 2) (t : BitVec 3) (d : BitVec 5) (j : BitVec 1) (a : BitVec 5)
    (s : State) : Out1 :=
  vWord (.vamax h p w t d j a)
    (fun s =>
      let lb := fmtBits (fmtOf t)
      let (x, s1) := s.src (j == 1) a (rowWidth w)
      let (big, nan, inf) := amax ((lanes lb (rowWidth w / lb) x).map (operand s.fpc (fmtOf t)))
      s1.pushLater 3 d (BitVec.ofNat 2048 (roundNe .f32 (.fin false big.1 big.2) + (if nan then 2 ^ 32 else 0) +
        (if inf then 2 ^ 33 else 0)), 0)) s

/-- The outlier lanes of `VOSPL` moved to the side row (R239): codes with lanes cleared, side codes with flags. -/
def splitOut (f : Fmt) (fpc : Dword) : List Nat → List Nat → List Nat → List Nat × List (Nat × Flags)
  | _, [], r => (r, [])
  | orig, i :: is, r =>
    let side := match orig[i]? with | some c => round .bf16 fpc (operand fpc f c) | none => (0, 0)
    let (r', sd) := splitOut f fpc orig is (r.set i 0)
    (r', side :: sd)

/-- `VOSPL` (R239, R118): two pushes, into vD at issue + 3 and v(D + 1) at issue + 4, each with the
flags of its own roundings (R100). -/
def execVospl (h : BitVec 1) (p : BitVec 3) (w : BitVec 2) (t : BitVec 3) (d : BitVec 5) (j : BitVec 1) (a : BitVec 5)
    (q : BitVec 3) (s : State) : Out1 :=
  vWord (.vospl h p w t d j a q)
    (fun s =>
      let lb := fmtBits (fmtOf t)
      let n := rowWidth w / lb
      let (x, s1) := s.src (j == 1) a (rowWidth w)
      let (e, s2) := s1.standK q
      let l := lanes lb n x
      let (r, side) := splitOut (fmtOf t) s.fpc l ((List.range (min e.count 16)).map fun i => e.get i % 256) l
      (s2.pushLater 3 d (ofLanes lb (r.map (laneCode (fmtOf t))), 0)).pushLater 4 (d + 1) (packLanes 16 side)) s

/-! ### Ternary (R110, R240, R241, R350) -/

/-- The stored digits of a packed-ternary byte, least significant trit first, from the top digit down (R110). -/
def unpack3Aux : Nat → Nat → List Nat → List Nat
  | 0, _, acc => acc
  | n + 1, f, acc => unpack3Aux n (f * 3 % 256) (f * 3 / 256 :: acc)

/-- The five trits of byte b as digit − 1; a byte of 243 or more gives zeros (R350). -/
def unpack3 (b : Nat) : List Int :=
  if 243 ≤ b then [0, 0, 0, 0, 0] else (unpack3Aux 5 ((b * 256 + 242) / 243) []).map fun (d : Nat) => (d : Int) - 1

/-- `VADDSUB` (R241): c ± x by the sign of y, both INT8. -/
def execVaddsub (h : BitVec 1) (p : BitVec 3) (w : BitVec 2) (t : BitVec 3) (d : BitVec 5) (j : BitVec 1)
    (a : BitVec 5) (k : BitVec 1) (b : BitVec 5) (s : State) : Out1 :=
  vWord (.vaddsub h p w t d j a k b)
    (fun s =>
      let lb := intBits t
      let n := rowWidth w / lb
      let (x, s1) := s.src (j == 1) a (rowWidth w)
      let (y, s2) := s1.src (k == 1) b (rowWidth w)
      let (z, s3) := s2.src false d (rowWidth w)
      s3.pushLater 2 d (ofLanes lb ((List.range n).map fun i =>
        let c : Int := nbits z.toNat (lb * i) lb
        let u := intVal 2 (nbits x.toNat (8 * i) 8)
        let v := intVal 2 (nbits y.toNat (8 * i) 8)
        intCode lb (if 0 < v then c + u else if v < 0 then c - u else c)), 0)) s

/-- `VUNPK3` (R240): lane i is trit i mod 5 of byte i div 5; a byte that is no code sets NV (R350). -/
def execVunpk3 (h : BitVec 1) (p : BitVec 3) (w : BitVec 2) (t : BitVec 3) (d : BitVec 5) (j : BitVec 1) (a : BitVec 5)
    (s : State) : Out1 :=
  vWord (.vunpk3 h p w t d j a)
    (fun s =>
      let lb := intBits t
      let n := rowWidth w / lb
      let (x, s1) := s.src (j == 1) a (rowWidth w)
      let bytes := lanes 8 ((n + 4) / 5) x
      s1.pushLater 3 d (ofLanes lb (((bytes.map unpack3).flatten.take n).map (intCode lb)),
        if bytes.any fun b => decide (243 ≤ b) then flNV else 0)) s

/-! ### Data movement (R242, R243) -/

/-- A row of `n` lanes whose lane i is `g` of a's lanes and i. -/
def moveLanes (w : BitVec 2) (t : BitVec 3) (d : BitVec 5) (j : BitVec 1) (a : BitVec 5)
    (g : List Nat → Nat → Nat) (s : State) : State :=
  let lb := intBits t
  let n := rowWidth w / lb
  let (x, s1) := s.src (j == 1) a (rowWidth w)
  s1.pushLater 2 d (ofLanes lb ((List.range n).map (g (lanes lb n x))), 0)

/-- `VMOV`: the W bits of a. -/
def execVmov (h : BitVec 1) (p : BitVec 3) (w : BitVec 2) (d : BitVec 5) (j : BitVec 1) (a : BitVec 5) (s : State) :
    Out1 :=
  vWord (.vmov h p w d j a)
    (fun s => let (x, s1) := s.src (j == 1) a (rowWidth w); s1.pushLater 2 d (x, 0)) s

/-- `VBCST`: lane k of a in every lane, zero when k ≥ n. -/
def execVbcst (h : BitVec 1) (p : BitVec 3) (w : BitVec 2) (t : BitVec 3) (d : BitVec 5) (j : BitVec 1) (a : BitVec 5)
    (k : BitVec 6) (s : State) : Out1 :=
  vWord (.vbcst h p w t d j a k) (moveLanes w t d j a fun l _ => l.getD k.toNat 0) s

/-- `VEXT`: lane k of a in lane 0, every other lane zero. -/
def execVext (h : BitVec 1) (p : BitVec 3) (w : BitVec 2) (t : BitVec 3) (d : BitVec 5) (j : BitVec 1) (a : BitVec 5)
    (k : BitVec 6) (s : State) : Out1 :=
  vWord (.vext h p w t d j a k) (moveLanes w t d j a fun l i => if i = 0 then l.getD k.toNat 0 else 0) s

/-- `VINS`: the accumulator with lane k replaced by lane 0 of a. -/
def execVins (h : BitVec 1) (p : BitVec 3) (w : BitVec 2) (t : BitVec 3) (d : BitVec 5) (j : BitVec 1) (a : BitVec 5)
    (k : BitVec 6) (s : State) : Out1 :=
  vWord (.vins h p w t d j a k)
    (fun s =>
      let lb := intBits t
      let n := rowWidth w / lb
      let (x, s1) := s.src (j == 1) a (rowWidth w)
      let (c, s2) := s1.src false d (rowWidth w)
      s2.pushLater 2 d (ofLanes lb ((lanes lb n c).set k.toNat (nbits x.toNat 0 lb)), 0)) s

/-- `VPERM`: lane i is a's lane numbered by b's lane i, zero when that is n or more. -/
def execVperm (h : BitVec 1) (p : BitVec 3) (w : BitVec 2) (t : BitVec 3) (d : BitVec 5) (j : BitVec 1) (a : BitVec 5)
    (k : BitVec 1) (b : BitVec 5) (s : State) : Out1 :=
  vWord (.vperm h p w t d j a k b)
    (fun s =>
      let lb := intBits t
      let n := rowWidth w / lb
      let (x, s1) := s.src (j == 1) a (rowWidth w)
      let (y, s2) := s1.src (k == 1) b (rowWidth w)
      let l := lanes lb n x
      s2.pushLater 2 d (ofLanes lb ((lanes lb n y).map fun i => l.getD i 0), 0)) s

/-- `VSLD`: lane i is a's lane i + k, k signed, zero outside. -/
def execVsld (h : BitVec 1) (p : BitVec 3) (w : BitVec 2) (t : BitVec 3) (d : BitVec 5) (j : BitVec 1) (a : BitVec 5)
    (k : BitVec 6) (s : State) : Out1 :=
  vWord (.vsld h p w t d j a k)
    (moveLanes w t d j a fun l i =>
      let x : Int := i + k.toInt
      if x < 0 then 0 else l.getD x.toNat 0) s

/-- Two sources rearranged into two rows, pushed at issue + 2 and + 3 (R243). -/
def twoRows (w : BitVec 2) (t : BitVec 3) (d : BitVec 5) (j : BitVec 1) (a : BitVec 5) (k : BitVec 1) (b : BitVec 5)
    (g : Nat → List Nat → List Nat → List Nat × List Nat) (s : State) : State :=
  let lb := intBits t
  let n := rowWidth w / lb
  let (x, s1) := s.src (j == 1) a (rowWidth w)
  let (y, s2) := s1.src (k == 1) b (rowWidth w)
  let (r0, r1) := g n (lanes lb n x) (lanes lb n y)
  (s2.pushLater 2 d (ofLanes lb r0, 0)).pushLater 3 d (ofLanes lb r1, 0)

/-- Lanes of two lists taken in turn. -/
def interleave : List Nat → List Nat → List Nat
  | x :: xs, y :: ys => x :: y :: interleave xs ys
  | _, _ => []

/-- The even lanes, and the odd lanes. -/
def evens : List Nat → List Nat | [] => [] | [x] => [x] | x :: _ :: r => x :: evens r

/-- `VZIP`. -/
def execVzip (h : BitVec 1) (p : BitVec 3) (w : BitVec 2) (t : BitVec 3) (d : BitVec 5) (j : BitVec 1) (a : BitVec 5)
    (k : BitVec 1) (b : BitVec 5) (s : State) : Out1 :=
  vWord (.vzip h p w t d j a k b)
    (twoRows w t d j a k b fun n x y =>
      (interleave (x.take (n / 2)) (y.take (n / 2)), interleave (x.drop (n / 2)) (y.drop (n / 2)))) s

/-- `VUZP`. -/
def execVuzp (h : BitVec 1) (p : BitVec 3) (w : BitVec 2) (t : BitVec 3) (d : BitVec 5) (j : BitVec 1) (a : BitVec 5)
    (k : BitVec 1) (b : BitVec 5) (s : State) : Out1 :=
  vWord (.vuzp h p w t d j a k b)
    (twoRows w t d j a k b fun _ x y => (evens (x ++ y), evens ((x ++ y).drop 1))) s

/-! ### Reductions, rounding, dropout (R230, R244, R245) -/

/-- One level of the pairwise tree: neighbours added and rounded into binary32. -/
def pairSums (fpc : Dword) : List (Nat × Flags) → List (Nat × Flags)
  | (x, f) :: (y, g) :: r =>
    let (z, fl) := fop2 .f32 Val.add fpc x y
    (z, f ||| g ||| fl) :: pairSums fpc r
  | l => l

/-- `k` levels of the tree. -/
def treeSum (fpc : Dword) : Nat → List (Nat × Flags) → List (Nat × Flags)
  | 0, l => l
  | k + 1, l => treeSum fpc k (pairSums fpc l)

/-- The lanes of a row widened to binary32 codes (R244). -/
def widen (f : Fmt) (fpc : Dword) (n : Nat) (x : Row) : List Nat :=
  (lanes (fmtBits f) n x).map fun c => roundNe .f32 (operand fpc f c)

/-- `VRSUM`: a fixed pairwise tree of binary32 additions. -/
def execVrsum (h : BitVec 1) (p : BitVec 3) (w : BitVec 2) (t : BitVec 3) (d : BitVec 5) (j : BitVec 1) (a : BitVec 5)
    (s : State) : Out1 :=
  vWord (.vrsum h p w t d j a)
    (fun s =>
      let (x, s1) := s.src (j == 1) a (rowWidth w)
      let r := treeSum s.fpc 8 ((widen (fmtOf t) s.fpc (rowWidth w / fmtBits (fmtOf t)) x).map fun c => (c, 0))
      s1.pushLater 4 d (packLanes 32 (r.take 1))) s

/-- `VRMAX`: the greatest lane under the rule of `VMAX`. -/
def execVrmax (h : BitVec 1) (p : BitVec 3) (w : BitVec 2) (t : BitVec 3) (d : BitVec 5) (j : BitVec 1) (a : BitVec 5)
    (s : State) : Out1 :=
  vWord (.vrmax h p w t d j a)
    (fun s =>
      let (x, s1) := s.src (j == 1) a (rowWidth w)
      let l := widen (fmtOf t) s.fpc (rowWidth w / fmtBits (fmtOf t)) x
      s1.pushLater 4 d (ofLanes 32 [l.foldl (codeMax .f32 s.fpc) (canonNan .f32)], 0)) s

/-- `VRND`: each lane to an integral value of its format. -/
def execVrnd (h : BitVec 1) (p : BitVec 3) (w : BitVec 2) (t : BitVec 3) (d : BitVec 5) (j : BitVec 1) (a : BitVec 5)
    (s : State) : Out1 :=
  vWord (.vrnd h p w t d j a)
    (vec1 w (fmtBits (fmtOf t)) 3 d j a fun fpc c =>
      let v := (operand fpc (fmtOf t) c).integral (fpcRm fpc)
      match v with
      | .inf _ => (c, 0)
      | _ => ((round (fmtOf t) fpc v).1, 0)) s

/-- `VDRP` (R245): lane × keep-scale where its random number lies below the threshold, +0 elsewhere. -/
def execVdrp (h : BitVec 1) (p : BitVec 3) (w : BitVec 2) (t : BitVec 3) (d : BitVec 5) (j : BitVec 1) (a : BitVec 5)
    (k : BitVec 1) (b : BitVec 5) (s : State) : Out1 :=
  vWord (.vdrp h p w t d j a k b)
    (fun s =>
      let f := fmtOf t
      let lb := fmtBits f
      let n := rowWidth w / lb
      let (x, s1) := s.src (j == 1) a (rowWidth w)
      let (y, s2) := s1.src (k == 1) b (rowWidth w)
      let (r, s3) := s2.src false 29 2048
      let keep := operand s.fpc .f32 (fld y 32 32)
      s3.pushLater 3 d (packLanes lb ((List.range n).map fun i =>
        let ri := if n ≤ 128 then nbits r.toNat (16 * i) 16 else 256 * nbits r.toNat (8 * i) 8
        if ri < fld y 0 16 then
          let (v, f0) := (operand s.fpc f (nbits x.toNat (lb * i) lb)).mul keep
          let (c, f1) := round f s.fpc v
          (c, f0 ||| f1)
        else (0, 0)))) s

/-! ### Lane masks (R246) -/

/-- `MAND`. -/
def execMand (h : BitVec 1) (p d a b : BitVec 3) (s : State) : Out1 :=
  vWord (.mand h p d a b) (fun s => s.later 2 (.mask d (s.laneMask a &&& s.laneMask b) 0)) s

/-- `MOR`. -/
def execMor (h : BitVec 1) (p d a b : BitVec 3) (s : State) : Out1 :=
  vWord (.mor h p d a b) (fun s => s.later 2 (.mask d (s.laneMask a ||| s.laneMask b) 0)) s

/-- `MNOT`. -/
def execMnot (h : BitVec 1) (p d a : BitVec 3) (s : State) : Out1 :=
  vWord (.mnot h p d a) (fun s => s.later 2 (.mask d (~~~ s.laneMask a) 0)) s

/-- `VIOTA`: lane i is the number of set bits below bit i of the mask. -/
def execViota (h : BitVec 1) (p : BitVec 3) (w : BitVec 2) (t : BitVec 3) (d : BitVec 5) (m : BitVec 3) (s : State) :
    Out1 :=
  vWord (.viota h p w t d m)
    (fun s =>
      let lb := intBits t
      s.pushLater 2 d (ofLanes lb ((List.range (rowWidth w / lb)).map fun i => popCount i (s.laneMask m).toNat), 0)) s

/-- `VMSK`: bit i set where i is below entry 0 of the popped scale row. -/
def execVmsk (h : BitVec 1) (p d q : BitVec 3) (s : State) : Out1 :=
  vWord (.vmsk h p d q)
    (fun s =>
      let (e, s1) := s.popK q
      s1.later 2 (.mask d (BitVec.ofNat 256 (2 ^ min 256 (e.get 0) - 1)) 0)) s

end Sys2Proof.Machine
end

