-- ==== Sys2Proof/Machine/Special.lean ====
section
/-!
DEFINITION. The X instructions (R247 to R250, R234): the words' issue; results are pushed 12 cycles later.
-/

namespace Sys2Proof.Machine

/-- `NOP.x` (R68). -/
def execNopX (h : BitVec 1) (p : BitVec 3) (s : State) : Out1 := vWord (.nopX h p) (fun s => s) s

/-- A function word (R248): f of the exact operand, rounded once into the lane's format. -/
def xfun (w : BitVec 2) (t : BitVec 3) (d : BitVec 5) (j : BitVec 1) (a : BitVec 5) (g : Val → Val × Flags)
    (s : State) : State :=
  vec1 w (fmtBits (fmtOf t)) 12 d j a (fun fpc c =>
    let (v, fl) := g (operand fpc (fmtOf t) c)
    let (r, fl2) := round (fmtOf t) fpc v
    (r, fl ||| fl2)) s

/-- `XEXP2`. -/
def execXexp2 (h : BitVec 1) (p : BitVec 3) (w : BitVec 2) (t : BitVec 3) (d : BitVec 5) (j : BitVec 1) (a : BitVec 5)
    (s : State) : Out1 := vWord (.xexp2 h p w t d j a) (xfun w t d j a Val.exp2) s

/-- `XLOG2`. -/
def execXlog2 (h : BitVec 1) (p : BitVec 3) (w : BitVec 2) (t : BitVec 3) (d : BitVec 5) (j : BitVec 1) (a : BitVec 5)
    (s : State) : Out1 := vWord (.xlog2 h p w t d j a) (xfun w t d j a Val.log2) s

/-- `XRCP`. -/
def execXrcp (h : BitVec 1) (p : BitVec 3) (w : BitVec 2) (t : BitVec 3) (d : BitVec 5) (j : BitVec 1) (a : BitVec 5)
    (s : State) : Out1 := vWord (.xrcp h p w t d j a) (xfun w t d j a Val.rcp) s

/-- `XRSQ`. -/
def execXrsq (h : BitVec 1) (p : BitVec 3) (w : BitVec 2) (t : BitVec 3) (d : BitVec 5) (j : BitVec 1) (a : BitVec 5)
    (s : State) : Out1 := vWord (.xrsq h p w t d j a) (xfun w t d j a Val.rsqrt) s

/-- `XSQRT`. -/
def execXsqrt (h : BitVec 1) (p : BitVec 3) (w : BitVec 2) (t : BitVec 3) (d : BitVec 5) (j : BitVec 1) (a : BitVec 5)
    (s : State) : Out1 := vWord (.xsqrt h p w t d j a) (xfun w t d j a Val.sqrt) s

/-! ### Tables (R249, R250) -/

/-- A binary32 field of a table header at bit `lo`. -/
def Table.f32 (t : Table) (lo : Nat) : Val := decode .f32 (fld t.header lo 32)

/-- c0 and c1 of segment `j`. -/
def Table.seg (t : Table) (j : Nat) : Val × Val :=
  let x := t.segs.getD j 0
  (decode .f32 (fld x 0 32), decode .f32 (fld x 32 32))

/-- x + y and x · y exactly; the steps of R250 set no flag. -/
def exactAdd (x y : Val) : Val := (Val.add 0 x y).1
def exactMul (x y : Val) : Val := (Val.mul x y).1

/-- The value outside the range under policy `p` with constant `k` (R250 `side`); R351 lets policy 3 into no slot. -/
def Table.side (t : Table) (p : Nat) (k : Val) (low : Bool) (x : Val) : Val :=
  match p with
  | 0 => k
  | 1 => x
  | _ =>
    let n := fld t.header 192 8
    if low then (t.seg 0).1
    else (exactAdd (t.seg n).1 (exactMul (t.seg n).2 (t.f32 64))).roundedTo .f32

/-- The segment of an operand inside the range (R250); R351 keeps the product at 0 or above. -/
def Table.index (t : Table) (x : Val) : Nat :=
  let n := fld t.header 192 8
  match (exactMul ((exactAdd x (t.f32 0).neg).roundedTo .f32) (t.f32 96)).roundedTo .f32 with
  | .fin _ m e => min (roundAt 1 false m e 0).1 n
  | _ => n

/-- `XTAB`'s y for an operand (R250). -/
def Table.eval (t : Table) (x : Val) : Val :=
  if x.isNan then .nan
  else if x.lt (t.f32 0) then t.side (fld t.header 200 2) (t.f32 128) true x
  else if (t.f32 32).lt x || (t.f32 32).eq x then t.side (fld t.header 202 2) (t.f32 160) false x
  else
    let j := t.index x
    let at_ := exactAdd (t.f32 0) (exactMul (Val.ofInt j) (t.f32 64))
    let u := (exactAdd x at_.neg).roundedTo .f32
    (exactAdd (t.seg j).1 (exactMul (t.seg j).2 u)).roundedTo .f32

/-- `XTAB`. -/
def execXtab (h : BitVec 1) (p : BitVec 3) (w : BitVec 2) (t : BitVec 3) (d : BitVec 5) (j : BitVec 1) (a : BitVec 5)
    (n : BitVec 2) (s : State) : Out1 :=
  vWord (.xtab h p w t d j a n)
    (fun s =>
      let tb := s.arch.tb[n.toNat]'n.isLt
      vec1 w (fmtBits (fmtOf t)) 12 d j a (fun fpc c => round (fmtOf t) fpc (tb.eval (decode (fmtOf t) c))) s) s

/-- The rows that an `XTLD` pops for a header row: the header and ceil(N / (W / 64)) rows of coefficients (R249). -/
def xtldRows (w : BitVec 2) (header : Row) : Nat :=
  let per := rowWidth w / 64
  1 + (fld header 192 8 + 1 + per - 1) / per

/-- The table of an `XTLD`'s rows, header first (R249). -/
def tableOf (w : BitVec 2) : List Row → Table
  | [] => Table.reset
  | hd :: rs =>
    let per := rowWidth w / 64
    { header := BitVec.ofNat 256 hd.toNat
      segs := (List.range (fld hd 192 8 + 1)).map fun j => BitVec.ofNat 64 (fld (rs.getD (j / per) 0) (64 * (j % per)) 64) }

/-- Whether R351 refuses a header row: a policy of 3, a bit of 255:204, bounds not finite or crossed, or a width or
reciprocal that is not a finite value above 0 where the range is not empty. -/
def headerBad (hd : Row) : Bool :=
  let t : Table := { header := BitVec.ofNat 256 hd.toNat, segs := [] }
  let finite (v : Val) := match v with | .fin _ _ _ => true | _ => false
  let above (v : Val) := match v with | .fin neg m _ => !neg && m != 0 | _ => false
  fld hd 202 2 == 3 || fld hd 200 2 == 3 || fld hd 204 52 != 0 ||
  !finite (t.f32 0) || !finite (t.f32 32) || (t.f32 32).lt (t.f32 0) ||
  ((t.f32 0).lt (t.f32 32) && !(above (t.f32 64) && above (t.f32 96)))

/-- `XTLD`: pops the header row, whatever its peek bit (R249), checked by R351; the rows after it follow one a cycle, and X issues nothing else until
the last. -/
def execXtld (h : BitVec 1) (p : BitVec 3) (w n : BitVec 2) (j : BitVec 1) (a : BitVec 5) (s : State) : Out1 :=
  vWord (.xtld h p w n j a)
    (fun s =>
      let (x, s1) := s.src false a (rowWidth w)
      if headerBad x then s1.raiseWord 17
      else s1.updMyCore fun c =>
        { c with multi := c.multi ++ [{ entry := s.act.entry, need := xtldRows w x, rows := [x] }] }) s

/-- `XCVT`: as `VCVT`, 12 cycles later. -/
def execXcvt (h : BitVec 1) (p : BitVec 3) (w : BitVec 2) (t : BitVec 3) (d : BitVec 5) (j : BitVec 1) (a : BitVec 5)
    (st : BitVec 3) (x y : BitVec 1) (s : State) : Out1 :=
  vWord (.xcvt h p w t d j a st x y) (convert w 12 t d j a st x y) s

end Sys2Proof.Machine
end

