-- ==== Sys2Proof/Machine/Matrix.lean ====
section
/-!
DEFINITION. The folded matrix array (R205 to R221, R111, R112): the M words' issue, and the array's own steps, a weight
load's start and end (R211, R213, R399), a row's delivery (R207), a forwarded row's arrival (R220), and the ply governor
and its failures (R209, R389 to R391).
-/

namespace Sys2Proof.Machine

/-! ### Masks, hosts, records (R210, R163, R217) -/

/-- The host of displaced group `q` under a mask, given the hosts taken before (R210): the nearest active ply below that
hosts no other group, else the nearest above. -/
def hostFor (mask : BitVec 4) (taken : List Nat) (q : Nat) : Nat :=
  let free (p : Nat) : Bool := mask.getLsbD p && !taken.contains p
  match ((List.range q).reverse.find? free) with
  | some p => p
  | none => (((List.range 4).filter fun p => decide (q < p)).find? free).getD q

/-- The hosts of the groups `l`, in ascending order of displaced group. -/
def hostsFrom (mask : BitVec 4) : List Nat → List Nat → List Nat
  | [], _ => []
  | q :: r, taken =>
    if mask.getLsbD q then q :: hostsFrom mask r taken
    else let p := hostFor mask taken q; p :: hostsFrom mask r (p :: taken)

/-- The ply that holds each group's weights (R163 HOST). -/
def hosts (mask : BitVec 4) : List Nat := hostsFrom mask [0, 1, 2, 3] []

/-- The order in which the groups are added (R112): active groups from 3 down, then displaced ones. -/
def orderOf (mask : BitVec 4) : List Nat :=
  [3, 2, 1, 0].filter (fun q => mask.getLsbD q) ++ [3, 2, 1, 0].filter (fun q => !mask.getLsbD q)

/-- 2-bit fields, first lowest. -/
def twoBits (l : List Nat) : Nat := l.foldr (fun x acc => x % 4 + 4 * acc) 0

/-- A completion record (R163). -/
def mRecord (opc rows : Nat) (mask : BitVec 4) : Dword :=
  BitVec.ofNat 64 (opc % 256 * 2 ^ 56 + rows % 2 ^ 24 * 2 ^ 24 + twoBits (hosts mask) * 2 ^ 16 +
    twoBits (orderOf mask) * 2 ^ 8 + (if mask = 15 then 1 else 2) * 2 ^ 6 + mask.toNat)

/-- The word of a record. -/
def MRec.word (r : MRec) : Dword := mRecord r.opc r.rows.n r.mask

/-- Whether a record stands in the queue. -/
def MRec.stands (r : MRec) : Bool := r.popped.isNone && r.dropBy.isNone

/-- Whether bundle `seq` of context `k` may still be undone. -/
def Core.unretired (c : Core) (k seq : Nat) : Bool := (c.ctx k).ckpts.any fun q => q.seq == seq

/-- Rows whose bundles have retired are no longer told apart. -/
def RowCount.settle (r : RowCount) (f : Nat → Bool) : RowCount :=
  { old := r.old + (r.live.filter fun q => !f q).length, live := r.live.filter f }

/-- The oldest standing record dropped by the push of record `id` (R218). -/
def dropOldest (id : Nat) : List MRec → List MRec
  | [] => []
  | r :: l => if r.stands then { r with dropBy := some id } :: l else r :: dropOldest id l

/-- At most 8 records stand (R218): older ones are dropped by the last. -/
def atMost8 (l : List MRec) : List MRec :=
  let id := match l.getLast? with | some r => r.id | none => 0
  (List.range ((l.filter MRec.stands).length - 8)).foldl (fun l _ => dropOldest id l) l

/-- Whether no undo can put a record back, of the records `l`. -/
def Core.gone (c : Core) (l : List MRec) (r : MRec) : Bool :=
  !r.stands &&
  (match r.ctx, r.popped with | some k, some q => !c.unretired k q | _, _ => true) &&
  (match r.dropBy with | some i => !(l.any fun x => x.id == i && !x.rows.live.isEmpty) | none => true)

/-- Records that nothing can put back are forgotten, but for the newest, whose word `MSTAT` reads. -/
def Core.forget (c : Core) : Core :=
  let l := c.recs.map fun r => match r.ctx with | some k => { r with rows := r.rows.settle (c.unretired k) } | none => r
  let last := match l.getLast? with | some r => r.id | none => 0
  { c with recs := l.filter fun r => r.id == last || !c.gone l r }

/-- A record pushed for context `k` (R218): a ninth drops the oldest. -/
def Core.record (c : Core) (k opc : Nat) (rows : RowCount) (mask : BitVec 4) : Core :=
  let r : MRec := { id := c.nextId, ctx := some k, opc := opc, rows := rows, mask := mask, popped := none, dropBy := none }
  Core.forget
    { c with nextId := c.nextId + 1, recs := atMost8 (c.recs ++ [r]), mstat := r.word, recAt := assocSet k c.cyc c.recAt }

/-- After an undo that changed records: those left without a row are no records, what they had dropped stands again, and
`MSTAT` reads the newest. -/
def Core.mendRecs (c : Core) : Core :=
  let empty (r : MRec) : Bool := r.opc != 1 && r.rows.n == 0
  let l := atMost8 ((c.recs.filter fun r => !empty r).map fun r =>
    { r with dropBy := r.dropBy.filter fun i => !(c.recs.any fun x => x.id == i && empty x) })
  { c with recs := l, mstat := match l.getLast? with | some r => r.word | none => 0 }

/-- The records of an ended context belong to no context any more. -/
def Core.orphan (c : Core) (k : Nat) : Core :=
  { c with recs := c.recs.map fun r =>
      if r.ctx = some k then { r with ctx := none, rows := { old := r.rows.n, live := [] } } else r }

/-- Runs that have ended and whose rows are all pushed: their records are pushed, oldest first (R217). -/
def Core.settleRuns (c : Core) : Core :=
  let done (r : Run) : Bool := r.ended && r.rows.n == r.pushed.n
  (c.runs.filter done).foldl
    (fun c r => if r.rows.n = 0 then c else c.record r.ctx r.opc r.rows r.mask)
    { c with runs := c.runs.filter fun r => !done r }

/-- The run in progress of a context ends (R217). -/
def Core.endRunOf (c : Core) (k : Nat) : Core :=
  Core.settleRuns { c with runs := c.runs.map fun r => if r.ctx = k then { r with ended := true } else r }

/-! ### Losses (R389 to R391) -/

/-- The low bits of `TRAPVAL` of causes 50 and 67. -/
def lossVal (why : Nat) (failed ply : BitVec 4) : Dword :=
  BitVec.ofNat 64 (why % 4 * 256 + failed.toNat * 16 + ply.toNat)

/-! ### The sums (R111, R112) -/

/-- `group_sum` of exact products. -/
def groupSum (l : List Val) : Val :=
  if l.any Val.isNan || (l.any (fun v => v == .inf false) && l.any (fun v => v == .inf true)) then .nan
  else
    match l.find? fun v => match v with | .inf _ => true | _ => false with
    | some v => v
    | none =>
      let tops := l.filterMap fun v => match v with
        | .fin _ m e => if m = 0 then none else some ((bitLen m : Int) - 1 + e) | _ => none
      match tops with
      | [] => .fin false 0 0
      | t :: r =>
        let q := r.foldl max t - 27
        let sum : Int := l.foldl (fun acc v => match v with
          | .fin neg m e =>
            let x : Nat := if q ≤ e then m * 2 ^ (e - q).toNat else m / 2 ^ (q - e).toNat
            if neg then acc - x else acc + x
          | _ => acc) 0
        if sum = 0 then .fin false 0 0 else (Val.fin (decide (sum < 0)) sum.natAbs q).roundedTo .f32

/-- `chain` (R112). -/
def chainSum (acc : Val) (g : List Val) (mask : BitVec 4) : Val :=
  (orderOf mask).foldl (fun s q => (exactAdd s (g.getD q (.fin false 0 0))).roundedTo .f32) acc

/-- One output row (R215). -/
def matRow (ws : WSet) (t : BitVec 3) (a : Row) (acc : Option Row) : Row :=
  let lb := fmtBits (fmtOf t)
  let xs := (List.range 64).map fun k => decode (fmtOf t) (fld a (lb * k) lb)
  ofLanes 32 ((List.range 64).map fun n =>
    let p := (List.range 64).map fun k =>
      exactMul (xs.getD k (.fin false 0 0))
        (decode (fmtOf ws.ty) (nbits ((ws.w.getD k 0).toNat) (fmtBits (fmtOf ws.ty) * n) (fmtBits (fmtOf ws.ty))))
    let g := (List.range 4).map fun q => groupSum ((p.drop (16 * q)).take 16)
    let x := match acc with | some r => decode .f32 (fld r (32 * n) 32) | none => .fin false 0 0
    roundNe .f32 (chainSum x g ws.mask))

/-! ### Issue of the M words -/

/-- Rows of the array and of `fl` before an `MMA` may issue (R208). -/
def Core.rowCount (c : Core) (k : Nat) : Nat := c.rows.length + ((c.ctx k).arch.queue 28).rows.length

/-- The row interval of an activation type on a set (R208). -/
def rowInterval (ws : WSet) (t : BitVec 3) : Nat :=
  (if 3 ≤ t.toNat ∧ 3 ≤ ws.ty.toNat then 1 else 4) * (if ws.mask = 15 then 1 else 2)

/-- An M word: checks at issue (R347), then cause 50 where the array is out of service (R391); an original word ends the
run before it. -/
def mWord (bad : Bool) (i : Instr) (f : State → State) (s : State) : Out1 :=
  let s1 := if s.act.entry.orig then s.updMyCore fun c => c.endRunOf s.act.ctx else s
  .next (s1.issueChecked bad i 0 fun s =>
    if s.myCore.oos then s.raise 50 (lossVal 3 s.myCore.failed s.myCore.ply) else f s)

/-- An M word that the array's service does not bear on (R391). -/
def mPlain (f : State → State) (s : State) : Out1 :=
  .next (f (if s.act.entry.orig then s.updMyCore fun c => c.endRunOf s.act.ctx else s))

/-- `NOP.m` (R68, R217): ends the run. -/
def execNopM (_h : BitVec 1) (_p : BitVec 3) (s : State) : Out1 := mPlain (fun s => s) s

/-- `MLW.type`: a load that starts once R211 and R320 let it. -/
def execMlw (h : BitVec 1) (p : BitVec 3) (q : BitVec 5) (t : BitVec 3) (s : State) : Out1 :=
  mWord false (.mlw h p q t)
    (fun s => s.updMyCore fun c =>
      let exposed := c.ply != 15 || c.active.mask != 15
      let l : WLoad := { entry := s.act.entry, exposed := exposed, started := false, start := 0, mask := 0, rows := [], waited := 0, lost := none }
      { (if exposed then c.countWord 11 s.act.ctx s.act.entry.seq 3 else c) with load := some l }) s

/-- `MSWP`: the sets are exchanged; an invalid shadow set raises cause 50 (R390). -/
def execMswp (h : BitVec 1) (p : BitVec 3) (s : State) : Out1 :=
  mWord false (.mswp h p)
    (fun s =>
      match s.myCore.shadow.lost with
      | some v => s.raise 50 v
      | none => s.updMyCore fun c =>
        { c with active := c.shadow, shadow := c.active, swapAt := c.cyc
                 rows := c.rows.map fun r => { r with act := !r.act } }) s

/-- The run that a row of the running word joins, made anew where none is in progress (R217). -/
def Core.joinRun (c : Core) (k seq opc : Nat) (held : Bool) : Core × Nat :=
  let grown (x : Run) : Run :=
    let r := x.rows.settle (c.unretired k)
    { x with rows := { r with live := r.live ++ [seq] }, pushed := x.pushed.settle (c.unretired k), ended := !held }
  match c.runs.find? fun r => r.ctx == k && !r.ended with
  | some r => ({ c with runs := c.runs.map fun x => if x.id = r.id then grown x else x }, r.id)
  | none =>
    let r : Run := { id := c.nextId, opc := opc, ctx := k, rows := { old := 0, live := [seq] }, pushed := { old := 0, live := [] }
                     mask := c.active.mask, ended := !held }
    ({ c with nextId := c.nextId + 1, runs := c.runs ++ [r] }, c.nextId)

/-- A core that takes rows from its tandem buffer (R219). -/
def Core.follower (c : Core) : Bool := decide (2 ≤ c.chainN) && decide (0 < c.chainP)

/-- A core that forwards its rows (R220). -/
def Core.forwards (c : Core) : Bool := decide (2 ≤ c.chainN) && decide (c.chainP + 1 < c.chainN)

/-- The activation row of an `MMA` or `MMAC` (R95, R215, R220). -/
def State.activation (s : State) (q : BitVec 5) (bits : Nat) : Row × State :=
  if q = 30 ∧ s.myCore.follower then
    match s.myCore.tandem with
    | [] => (0, s)
    | r :: l => (lowBits bits (r.row.setWidth 2048), s.updMyCore fun c =>
      { c with tandem := l, taken := c.taken ++ [(s.act.ctx, s.act.entry.seq, r)] })
  else s.src false q bits

/-- A row forwarded to the east member's buffer, where it arrives 2 cycles on (R220). -/
def State.forward (s : State) (row : BitVec 1024) : State :=
  let n := s.act.core
  (s.updCore (eastOf n) fun c =>
    { c with tandem := c.tandem ++ [{ due := s.now + 2, ctx := n * 4 + s.act.ctx, seq := s.act.entry.seq, row := row }] }).after
    2 (.tandemRowArrival (eastOf n) row)

/-- A row entered into the array (R207, R215). -/
def State.enterRow (s : State) (opc : Nat) (q : BitVec 5) (t : BitVec 3) (acc : Option (BitVec 5)) : State :=
  match s.myCore.active.lost with
  | some v => s.raise 50 v
  | none =>
    let bits := 64 * fmtBits (fmtOf t)
    let (a, s1) := s.activation q bits
    let (x, s2) := match acc with | none => (none, s1) | some c => let r := s1.src false c 2048; (some r.1, r.2)
    let out := matRow s.myCore.active t a x
    let s3 := s2.updMyCore fun c =>
      let (c1, run) := (c.countWord 9 s.act.ctx s.act.entry.seq 3).joinRun s.act.ctx s.act.entry.seq opc s.act.entry.held
      { c1 with rowFrom := c.cyc + rowInterval c.active t
                rows := c.rows ++ [{ ctx := s.act.ctx, seq := s.act.entry.seq, instr := s.act.entry.instr, iss := c.cyc
                                     out := out, run := run, act := true }] }
    if s.myCore.forwards then s3.forward (BitVec.ofNat 1024 a.toNat) else s3

/-- `MMA.type`. -/
def execMma (h : BitVec 1) (p : BitVec 3) (q : BitVec 5) (t : BitVec 3) (s : State) : Out1 :=
  mWord false (.mma h p q t) (fun s => s.enterRow 3 q t none) s

/-- `MMAC.type`. -/
def execMmac (h : BitVec 1) (p : BitVec 3) (q c : BitVec 5) (t : BitVec 3) (s : State) : Out1 :=
  mWord false (.mmac h p q c t)
    (fun s => s.enterRow 4 q t (some c)) s

/-- Whether an `MCHN` operand breaks R219 for member `m` (R347). -/
def chainBad (m : Nat) (a : Dword) : Bool :=
  fld a 7 57 != 0 || (decide (2 ≤ fld a 0 4) && decide (fld a 0 4 ≤ fld a 4 3)) ||
  decide (m < fld a 4 3) || decide (8 < m - fld a 4 3 + fld a 0 4)

/-- `MCHN`. -/
def execMchn (h : BitVec 1) (p : BitVec 3) (r : BitVec 5) (s : State) : Out1 :=
  let a := s.act.entry.ops.x
  mWord (chainBad (s.act.core % 8) a) (.mchn h p r)
    (fun s => s.updMyCore fun c =>
      if fld a 0 4 < 2 then { c with chainN := 0, chainP := 0 } else { c with chainN := fld a 0 4, chainP := fld a 4 3 }) s

/-- `MDRN`: it has waited until the array is empty (R216). -/
def execMdrn (_h : BitVec 1) (_p : BitVec 3) (s : State) : Out1 := mPlain (fun s => s) s

/-- `MSTS`: the oldest record of the context, or 0 (R218). -/
def execMsts (_h : BitVec 1) (_p : BitVec 3) (d : BitVec 5) (s : State) : Out1 :=
  mPlain (fun s =>
    let k := s.act.ctx
    let mine := s.myCore.recs.find? fun r => r.ctx == some k && r.stands
    (s.updMyCore fun c => { c with recs := c.recs.map fun r =>
        if (mine.map (·.id)) = some r.id then { r with popped := some s.act.entry.seq } else r }).onArch fun a =>
      a.land d ((mine.map MRec.word).getD 0)) s

/-- `MZER`: code 0 of E4M3 under `PLY` in both sets (R216). -/
def execMzer (h : BitVec 1) (p : BitVec 3) (s : State) : Out1 :=
  mWord false (.mzer h p)
    (fun s => s.updMyCore fun c =>
      { c with active := { WSet.zero with mask := c.ply }, shadow := { WSet.zero with mask := c.ply }, rowFrom := c.cyc + 2 }) s

/-! ### A weight load (R211, R213, R399) -/

/-- `MLW_LOAD_START`: `PLY` is captured and rows are popped from now on. -/
def execMlwLoadStart (n : Nat) (s : State) : Out1 :=
  .next (s.updCore n fun c =>
    match c.load with
    | none => c
    | some l => { c.countWord 10 l.entry.ctx l.entry.seq 3 with load := some { l with started := true, start := c.cyc, mask := c.ply } })

/-- The set a load leaves: the rows loaded, code 0 in the others. -/
def WLoad.toSet (l : WLoad) : WSet :=
  let t := match l.entry.instr with | .mlw _ _ _ t => t | _ => 5
  { ty := t, mask := l.mask, w := l.rows ++ List.replicate (64 - l.rows.length) 0, lost := l.lost, owner := some l.entry.ctx }

/-- The load's end: the shadow set and the completion record. -/
def Core.endLoad (c : Core) (l : WLoad) : Core :=
  ({ c with load := none, shadow := l.toSet }).record l.entry.ctx 1 { old := l.rows.length, live := [] } l.mask

/-- `MLW_COMPLETE` (R213). -/
def execMlwComplete (n : Nat) (s : State) : Out1 :=
  .next (s.updCore n fun c => match c.load with | none => c | some l => c.endLoad l)

/-- `MLW_STARVED` (R399): the load is abandoned, the issuing context takes cause 68. A set that a failed ply holds a group of
stays invalid (R389). -/
def execMlwStarved (n : Nat) (s : State) : Out1 :=
  .next (match (s.core n).load with
    | none => s
    | some l =>
      (s.updCore n fun c => c.endLoad l).raiseAsync n l.entry.ctx 68
        (BitVec.ofNat 64 (l.entry.raw.toNat + l.rows.length % 128 * 2 ^ 32)))

/-! ### Rows leaving and arriving (R207, R217, R220) -/

/-- A row that falls due after C_f of a context being saved: it goes to the snapshot latches, as a push into `fl` (R62). -/
def Core.latchRow (c : Core) (r : ARow) : Core :=
  { c with nextId := c.nextId + 1
           flights := c.flights ++ [{ id := c.nextId, ctx := r.ctx, seq := r.seq, slot := 3, due := c.cyc, quiet := false,
                                      instr := r.instr, acq := none, kind := .push 28 r.out 0 }] }

/-- `MATRIX_ROW_PUSH`: the oldest row into the `fl` of its context; the record with a run's last row. -/
def execMatrixRowPush (n : Nat) (s : State) : Out1 :=
  .next (match (s.core n).rows with
    | [] => s
    | r :: rest =>
      let id := (s.core n).nextId
      let s1 := s.updCore n fun c =>
        { c with rows := rest, nextId := id + 1, rowPushed := c.cyc + 1
                 runs := c.runs.map fun x => if x.id = r.run then { x with pushed := { x.pushed with live := x.pushed.live ++ [r.seq] } } else x }
      (if (s.ctx n r.ctx).st = .saving ∧ (s.ctx n r.ctx).cf ≤ (s.core n).time then s1.updCore n fun c => c.latchRow r
       else s1.onArchAt n r.ctx r.seq fun a => a.setQueue 28 ((a.queue 28).push id r.out none)).updCore n fun c =>
        Core.settleRuns { c with recAt := assocSet r.ctx c.cyc c.recAt })

/-- `TANDEM_ROW_ARRIVAL`: the row in transit may be taken; one that has been discarded does not arrive. -/
def execTandemRowArrival (n : Nat) (row : BitVec 1024) (s : State) : Out1 :=
  .next (s.updCore n fun c =>
    { c with tandem := c.tandem.map fun t => if t.due = s.now ∧ t.row = row then { t with due := 0 } else t })

/-! ### The governor and failures (R209, R389 to R391) -/

/-- `PLY` while two usable plies are left, failed plies read as clear; 0 out of service. -/
def Core.setPly (c : Core) (m : BitVec 4) : Core :=
  { c with ply := if c.oos then 0 else m &&& ~~~c.failed }

/-- The cause numbers of region 3 (R395). -/
def skipIndex : SkipCause → Nat | .temperature => 0 | .droop => 1 | .powercap => 2

/-- A ply skip of a core counted (R395). -/
def State.countSkip (s : State) (n q c : Nat) : State := s.lifeCount 3 ((4 * stackOf n + q) * 4 + c)

/-- The governor's change of a core's ply mask is counted at its stack (R318). -/
def State.govChange (s : State) (n : Nat) (old : BitVec 4) : State :=
  if (s.core n).ply = old then s else s.updStack (stackOf n) fun t => t.count 12 1

/-- `PLY_UPDATE`: at most two bits are clear (R209); a mask that would clear more is not the governor's and nothing
happens. Each bit newly cleared is counted in the lifetime record. -/
def execPlyUpdate (n : Nat) (mask : BitVec 4) (why : SkipCause) (s : State) : Out1 :=
  let c := s.core n
  let m := mask &&& ~~~c.failed
  if c.oos ∨ popCount 4 m.toNat < 2 then .next s
  else
    let fresh := (List.range 4).filter fun q => c.ply.getLsbD q && !m.getLsbD q
    .next (fresh.foldl (fun s q => s.countSkip n q (skipIndex why))
      ((s.updCore n fun c =>
        { c.setPly m with cleared := fresh.map (BitVec.ofNat 2) ++ c.cleared.filter fun q => !m.getLsbD q.toNat }).govChange n c.ply))

/-- Rows that a loss cancels (R390): issued later than f − 14 on a set that is now invalid. -/
def ARow.cancelled (r : ARow) (f : Nat) (active shadow : Bool) : Bool :=
  (if r.act then active else shadow) && decide (f < r.iss + 14)

/-- A loss detected: the sets `active` and `shadow` name become invalid, their rows not yet through the product stage are
cancelled, and each context with a cancelled row takes cause 67. -/
def State.lose (s : State) (n : Nat) (v : Dword) (active shadow : Bool) : State :=
  let c := s.core n
  let gone := c.rows.filter fun r => r.cancelled c.cyc active shadow
  let lostOf (id : Nat) : List ARow := gone.filter fun r => r.run == id
  let less (x : RowCount) (r : ARow) : RowCount :=
    if x.live.contains r.seq then { x with live := x.live.erase r.seq } else { x with old := x.old - 1 }
  let hit := c.runs.filter fun r => !(lostOf r.id).isEmpty
  let c1 : Core :=
    { c with
      active := if active then { c.active with lost := some v } else c.active
      shadow := if shadow then { c.shadow with lost := some v } else c.shadow
      rows := c.rows.filter fun r => !r.cancelled c.cyc active shadow
      runs := c.runs.map fun r => if (lostOf r.id).isEmpty then r else { r with rows := (lostOf r.id).foldl less r.rows, ended := true } }
  (List.range 4).foldl (fun s k =>
    match hit.find? fun r => r.ctx == k with
    | none => s
    | some r => s.raiseAsync n k 67 (v + BitVec.ofNat 64 ((r.rows.n - (lostOf r.id).length) % 2 ^ 24 * 2 ^ 24)))
    (s.setCore n c1.settleRuns)

/-- The governor's mask after ply `q` fails (R389): its bit clear; of two others already clear the one cleared most
recently is set again. -/
def Core.failPly (c : Core) (q : BitVec 2) : Core :=
  let failed := c.failed ||| BitVec.ofNat 4 (2 ^ q.toNat)
  let others := c.cleared.filter fun x => x != q && !failed.getLsbD x.toNat
  let clearNow := 4 - popCount 4 (c.ply &&& ~~~failed).toNat
  let keep := if 2 < clearNow then others.drop 1 else others
  let oos := decide (popCount 4 (~~~failed).toNat < 2)
  { c with failed := failed, oos := oos, cleared := keep
           ply := if oos then 0 else
             keep.foldl (fun m x => m &&& ~~~BitVec.ofNat 4 (2 ^ x.toNat)) (~~~failed) }

/-- `PLY_FAILURE`: the sets that held a group in the ply are invalid, a load under way too (R389), and a bit of `PLY` that it clears
is counted (R395); with fewer than two usable plies the array is out of service and the boot host is told (R391). -/
def execPlyFailure (n : Nat) (ply : BitVec 2) (s : State) : Out1 :=
  let c := (s.core n).failPly ply
  let was := (s.core n).oos
  let v := lossVal (if c.oos then 3 else 2) c.failed c.ply
  let held (m : BitVec 4) : Bool := m.getLsbD ply.toNat
  let hit (l : WLoad) : WLoad := if l.started && held l.mask then { l with lost := some v } else l
  let c1 := { c with load := c.load.map hit, loadsBack := c.loadsBack.map hit }
  let s0 := (s.setCore n c1).lose n v (held c.active.mask) (held c.shadow.mask)
  let s1 := ((if (s.core n).ply.getLsbD ply.toNat then s0.countSkip n ply.toNat 3 else s0).govChange n (s.core n).ply).lifeLog
    v.toNat 2 ply.toNat n (peerOf (stackOf n))
  let res := n % 2 ^ 11 + c.failed.toNat * 2 ^ 16
  .next (if (s.core n).failed.getLsbD ply.toNat then s
    else if c.oos && !was then (s1.notice 0x83 res).lifeLog res 3 ply.toNat n (peerOf (stackOf n)) else s1)

/-- `WEIGHT_PARITY_ERROR` (R389, R390): only the set that holds the weight row is invalid. The error is counted and
logged (R395, structure 4). -/
def execWeightParityError (n : Nat) (active : Bool) (s : State) : Out1 :=
  let c := s.core n
  let v := lossVal 1 c.failed c.ply
  .next (((s.lose n v active (!active)).lifeCount 4 ((8 * stackOf n + 4) * 2 + 1)).lifeLog v.toNat 8 0 n (peerOf (stackOf n)))

end Sys2Proof.Machine
end

