-- ==== Sys2Proof/Machine/Memory.lean ====
section
/-!
DEFINITION. Memory as a word meets it: the caches and the copies they hold (R254 to R260, R272 to R275, R398), the groups and
counts of the two tiers (R263 to R269), requests to homes on other peers (R282, R286, R377), the walk and the checks of R353,
rows of plane elements (R178, R185), and tensor handles (R44 to R47, R186).
-/

namespace Sys2Proof.Machine

/-! ### Lines and copies -/

/-- The 128-byte line of an address (R255). -/
def lineOf (a : Nat) : Nat := a / 128

/-- Scratchpad and CSR windows are held in no cache (R254). -/
def uncached (a : Nat) : Bool := decide (0x1F0000000000 ≤ a % 2 ^ 45)

/-- An address of the CSR windows (R41). -/
def inCsr (a : Nat) : Bool := decide (0x1F8000000000 ≤ a % 2 ^ 45)

/-- Whether stack `t` is the home of an address (R40): other homes are reached over the fabric. -/
def nearAt (t a : Nat) : Bool := ownFpa a && stackAt a == t

/-- The lines that bytes a to a + n − 1 touch. -/
def linesOf (a n : Nat) : List Nat := if n = 0 then [] else (List.range ((a + n - 1) / 128 - a / 128 + 1)).map fun i => a / 128 + i

/-- The lines that byte ranges touch, each once. -/
def linesIn (l : List (Nat × Nat)) : List Nat := (l.flatMap fun r => linesOf r.1 r.2).dedup

/-- The 32-bit words of a line that bytes a to a + n − 1 touch. -/
def wordMask (line a n : Nat) : BitVec 32 :=
  BitVec.ofNat 32 ((List.range 32).foldl (fun m w =>
    if a < line * 128 + 4 * w + 4 ∧ line * 128 + 4 * w < a + n then m + 2 ^ w else m) 0)

/-- The words of a line that byte ranges touch. -/
def wordsIn (line : Nat) (l : List (Nat × Nat)) : BitVec 32 := l.foldl (fun m r => m ||| wordMask line r.1 r.2) 0

/-- The copy of a line that stack `t` holds. -/
def State.copyOf (s : State) (t line : Nat) : Option RLine := (s.stack t).remote.find? fun l => l.line == line

/-- Byte `o` of a copy. -/
def RLine.byte (l : RLine) (o : Nat) : Byte := BitVec.ofNat 8 (fld l.data (8 * o) 8)

/-- A copy with byte `o` written. -/
def RLine.put (l : RLine) (o : Nat) (v : Byte) : RLine := { l with data := setFld l.data (8 * o) 8 v.toNat }

/-- A copy without the words of a mask; none when no word is left. -/
def RLine.without (l : RLine) (m : BitVec 32) : Option RLine :=
  if l.valid &&& ~~~m = 0 then none else some { l with valid := l.valid &&& ~~~m, dirty := l.dirty &&& ~~~m }

/-- An L1's line without the words of a mask; none when no word is left. -/
def L1Line.without (l : L1Line) (m : BitVec 32) : Option L1Line :=
  if l.valid &&& ~~~m = 0 then none else some { l with valid := l.valid &&& ~~~m, dirty := l.dirty &&& ~~~m }

/-- Whether the L1 of a core holds a line. -/
def Core.hasLine (c : Core) (line : Nat) : Bool := c.l1.any fun x => x.line == line

/-- An L1's lines with line `line` changed. -/
def changeLine (line : Nat) (f : L1Line → Option L1Line) (l : List L1Line) : List L1Line :=
  l.filterMap fun x => if x.line = line then f x else some x

/-- The L1s of a stack with a line changed, that of one core apart. -/
def State.changeL1 (s : State) (t line : Nat) (but : Option Nat) (f : L1Line → Option L1Line) : State :=
  { s with cores := s.cores.map fun (n, c) =>
      if stackOf n = t ∧ some n ≠ but ∧ c.hasLine line = true then (n, { c with l1 := changeLine line f c.l1 }) else (n, c) }

/-- Whether anything of a line stands in the copies of stack `t`. -/
def State.holdsLine (s : State) (t line : Nat) : Bool :=
  (s.copyOf t line).isSome || (s.stack t).bad.contains line || s.cores.any fun c => stackOf c.1 == t && c.2.hasLine line

/-- Words of a line dropped from a stack's copies (R255, R398), with the mark of a line that came poisoned. -/
def State.dropWords (s : State) (t line : Nat) (m : BitVec 32) : State :=
  if s.holdsLine t line then
    (s.updStack t fun x =>
      { x with remote := x.remote.filterMap fun l => if l.line = line then l.without m else some l
               bad := x.bad.filter fun l => l != line }).changeL1 t line none fun x => x.without m
  else s

/-- A line's copy replaced, or added. -/
def State.setCopy (s : State) (t : Nat) (c : RLine) : State :=
  s.updStack t fun x =>
    { x with remote := if x.remote.any (fun l => l.line == c.line) then x.remote.map (fun l => if l.line = c.line then c else l)
                       else x.remote ++ [c] }

/-- Bytes of a word mask of a line. -/
def maskWords (m : BitVec 32) : List Nat := (List.range 32).filter fun w => m.getLsbD w

/-! ### The two tiers (R263, R264, R270, R365) -/

/-- Whole 64 KiB pages of the populated fast tier (R263). -/
def groupCount : Nat := 1464843

/-- The congruence group and home page of a local physical address (R263). -/
def homePage (l : Nat) : Option (Nat × Nat) :=
  if l < groupCount * 65536 then some (l / 65536, 0)
  else if 0x20000000000 ≤ l ∧ l < 0x20000000000 + 15 * groupCount * 65536 then
    some ((l - 0x20000000000) / 65536 % groupCount, (l - 0x20000000000) / 65536 / groupCount + 1)
  else none

/-- The remap table begins here (R264). -/
def remapBase : Nat := 0x16588B0000

/-- A group's remap entry at reset: home page 0 in the fast slot, pinned where the remap table lies (R264). -/
def Remap.reset (g : Nat) : Remap :=
  { cnt := Vector.replicate 16 0, pin := decide (remapBase ≤ g * 65536), cmp := 0, res := 0 }

/-- A group's remap entry. -/
def Stack.remapOf (t : Stack) (g : Nat) : Remap := assocGet g (Remap.reset g) t.remap

/-- The 16 bytes of a remap entry (R264). -/
def Remap.word (r : Remap) : Nat :=
  r.res.toNat + 2 ^ 48 * r.cmp.toNat + (if r.pin then 2 ^ 63 else 0) +
    2 ^ 64 * r.cnt.toList.foldr (fun c acc => c.toNat + 16 * acc) 0

/-- A byte at its place in this package; the remap table reads as its entries (R264). DESIGN CHOICE (log 68): what a store, a `WRITE`
or an engine puts into the table's own bytes is kept and never read, so that only the swap engine and the firmware change an
entry. -/
def State.memByte (s : State) (a : Nat) : Byte :=
  let l := a % 2 ^ 45
  if remapBase ≤ l ∧ l < remapBase + 16 * groupCount then
    BitVec.ofNat 8 (((s.stack (stackAt a)).remapOf ((l - remapBase) / 16)).word / 2 ^ (8 * ((l - remapBase) % 16)))
  else readByte a s.mem

/-- Whether the page of an own address lies in the pool: a capacity slot, or a shared region (R264, R271). -/
def State.inPool (s : State) (a : Nat) : Bool :=
  let l := a % 2 ^ 45
  match homePage l with
  | some (g, k) => ((s.stack (stackAt a)).remapOf g).res.toNat != k
  | none => decide (0x20000000000 ≤ l) && decide (l < 0x40000000000)

/-- An address of a shared region of the pool (R271). -/
def inShared (a : Nat) : Bool := decide (0x38000000000 ≤ a % 2 ^ 45) && decide (a % 2 ^ 45 < 0x40000000000)

/-- Whether the port that serves an own address has lost its link (R270, R365): port a[12] of the stack. -/
def State.portDown (s : State) (a : Nat) : Bool :=
  ownFpa a && s.inPool a && !(s.stack (stackAt a)).ports.getLsbD (a / 4096 % 2)

/-- Whether a read of a line's data at its home delivers poison (R363, R365). -/
def State.badLine (s : State) (line : Nat) : Bool := s.poison.contains line || s.portDown (line * 128)

/-- A line marked as poisoned. -/
def addPoison (line : Nat) (p : List Nat) : List Nat := if p.contains line then p else p ++ [line]

/-! ### Homes in the package -/

/-- Whole lines written lose their poison (R363). -/
def clearPoison (a n : Nat) (p : List Nat) : List Nat :=
  p.filter fun l => !(decide (a ≤ l * 128) && decide (l * 128 + 128 ≤ a + n))

/-- Dirty words of a copy of an own line stored at their home; a whole line's words take its poison away (R363). -/
def State.storeWords (s : State) (l : RLine) (m : BitVec 32) : State :=
  if s.portDown (l.line * 128) && m != 0 then { s with poison := addPoison l.line s.poison }
  else
    let s1 := (maskWords m).foldl (fun s w => s.store (l.line * 128 + 4 * w) ((List.range 4).map fun i => l.byte (4 * w + i))) s
    if m = BitVec.allOnes 32 then { s1 with poison := s1.poison.filter fun x => x != l.line } else s1

/-- Dirty words of the home stack's own lines go to memory, and the words leave its copies (R255, R259). -/
def State.flushOwn (s : State) (a n : Nat) : State :=
  (linesOf a n).foldl (fun s line =>
    (match s.copyOf (stackAt a) line with
     | none => s
     | some l => s.storeWords l (l.dirty &&& wordMask line a n)).dropWords (stackAt a) line (wordMask line a n)) s

/-- Bytes written at their home in this package: the home stack's copies of the words go first. A write that fails for
want of its port leaves its lines poisoned (R365). -/
def State.homePut (s : State) (a : Nat) (l : List Byte) : State :=
  let s1 := if uncached a then s else s.flushOwn a l.length
  if s.portDown a then { s1 with poison := (linesOf a l.length).foldl (fun p x => addPoison x p) s1.poison }
  else { s1.store a l with poison := clearPoison a l.length s1.poison }

/-- The core, context, mailbox and byte at an address of a core's CSR space (R41, R170): offset 0x800 + 8 N of the context's
16 KiB block. -/
def mailboxAt (a : Nat) : Option (Nat × Nat × Nat × Nat) :=
  let r := a % 2 ^ 45 - 0x1F8000000000
  if 0x1F8000000000 ≤ a % 2 ^ 45 ∧ r < 192 * 0x10000 ∧ 0x800 ≤ r % 0x4000 ∧ r % 0x4000 < 0x840 then
    some (stackAt a * 192 + r / 0x10000, r % 0x10000 / 0x4000, (r % 0x4000 - 0x800) / 8, r % 8)
  else none

/-- An access to the CSR windows of this package for which the spec gives no register: anything but a read of a mailbox. -/
def csrStop (wr : Bool) (l : List (Nat × Nat)) : Bool :=
  l.any fun r => ownFpa r.1 && (List.range r.2).any fun i => inCsr (r.1 + i) && (wr || (mailboxAt (r.1 + i)).isNone)

/-- A byte at its home in this package, as the home stack's cores have written it (R272); a mailbox in its CSR window. -/
def State.homeByte (s : State) (a : Nat) : Byte :=
  match mailboxAt a with
  | some (n, k, m, i) => BitVec.ofNat 8 (fld ((s.ctx n k).arch.mb.toList.getD m 0) (8 * i) 8)
  | none =>
  match s.copyOf (stackAt a) (lineOf a) with
  | some l => if l.dirty.getLsbD (a % 128 / 4) then l.byte (a % 128) else s.memByte a
  | none => s.memByte a

/-- Bytes at their home as the home's cores have written them. -/
def State.homeBytes (s : State) (a n : Nat) : List Byte := (List.range n).map fun i => s.homeByte (a + i)

/-! ### Access counts of home pages and the remap cache (R265, R267) -/

/-- A cache of `ways` ways in which `set` gives an entry's set: entry `x` stands in it afterwards, and from a full set another
has gone, which no rule names, so that `pick` chooses it (log 56). -/
def cacheTouch (ways : Nat) (set : Nat → Nat) (pick x : Nat) (l : List Nat) : List Nat × Option Nat :=
  if l.contains x then (l, none)
  else
    let peers := l.filter fun y => set y == set x
    if peers.length < ways then (l ++ [x], none)
    else match peers[pick % peers.length]? with
      | some v => ((l.filter fun y => y != v) ++ [x], some v)
      | none => (l ++ [x], none)

/-- Swaps that run in a stack (R267). -/
def Stack.running (t : Stack) : Nat := (t.swaps.filter fun w => w.running).length

/-- A counter of a remap entry one higher, saturating at 15. -/
def Remap.bump (r : Remap) (k : Nat) : Remap :=
  { r with cnt := Vector.ofFn fun i : Fin 16 => if i.val = k ∧ r.cnt[i] ≠ 15 then r.cnt[i] + 1 else r.cnt[i] }

/-- A counter of a remap entry. -/
def Remap.count (r : Remap) (k : Nat) : Nat := (r.cnt.toList.getD k 0).toNat

/-- A swap scheduled for a group (R267): it starts at once where no other waits and fewer than eight run, else in its turn. -/
def State.scheduleSwap (s : State) (t g k : Nat) : State :=
  let s1 := s.updStack t fun x =>
    { x with swaps := x.swaps ++ [{ group := g, home := BitVec.ofNat 4 k, running := false, ends := 0, held := [] }] }
  if (s.stack t).swaps.length < 8 then s1.after 0 (.swap t g (BitVec.ofNat 4 k)) else s1

/-- A fill or write-back of an own line by its home slice raises the counter of its home page, and a page that leads the
resident one by SWT is scheduled (R267). -/
def State.noteFill (s : State) (line : Nat) : State :=
  let a := line * 128
  if !ownFpa a then s
  else
    match homePage (a % 2 ^ 45) with
    | none => s
    | some (g, k) =>
      let t := stackAt a
      let r := ((s.stack t).remapOf g).bump k
      let s1 := s.updStack t fun x => { x with remap := assocSet g r x.remap }
      if k ≠ r.res.toNat ∧ r.pin = false ∧ r.count r.res.toNat + s.fw.swt ≤ r.count k ∧
          !((s.stack t).swaps.any fun w => w.group == g) then s1.scheduleSwap t g k
      else s1

/-- The swap that runs over the page of an own line: it holds the line's fills and write-backs until its end (R268). -/
def State.swapOver (s : State) (line : Nat) : Option SwapRec :=
  let a := line * 128
  match homePage (a % 2 ^ 45) with
  | none => none
  | some (g, k) =>
    if ownFpa a then
      (s.stack (stackAt a)).swaps.find? fun w =>
        w.running && w.group == g && (w.home.toNat == k || ((s.stack (stackAt a)).remapOf g).res.toNat == k)
    else none

/-- Whether the page of an own line lies in the pool as its next fill finds it: after the swap that runs over it, if one does
(R268). -/
def State.fillsFromPool (s : State) (line : Nat) : Bool :=
  match s.swapOver line, homePage (line * 128 % 2 ^ 45) with
  | some w, some (_, k) => w.home.toNat != k
  | _, _ => s.inPool (line * 128)

/-- A fill of an own line from its slot, or a write-back to it, made: granules of HBM4 are counted (R318), and its home page's
counter (R267). -/
def State.slotMade (s : State) (line : Nat) (wr : Bool) : State :=
  (if s.inPool (line * 128) then s
   else s.updStack (stackAt (line * 128)) fun x => x.count (if wr then 5 else 4) 1).noteFill line

/-- The home slice asks the remap cache for the entry of a line's group; a miss reads it from the table in HBM4 (R265, R318). -/
def State.askRemap (s : State) (line : Nat) : State :=
  match homePage (line * 128 % 2 ^ 45) with
  | none => s
  | some (g, _) =>
    let t := stackAt (line * 128)
    if (s.stack t).rcache.contains g then s
    else
      let (v, s1) := s.freeVal
      s1.updStack t fun x =>
        { (x.count 6 1).count 4 1 with rcache := (cacheTouch 8 (fun g => Config.remapSet g % 2048) v.toNat g x.rcache).1 }

/-- A line's fill from its slot, or its write-back to it (R265, R267, R318): counted, or held by a swap of its page. -/
def State.slotAccess (s : State) (line : Nat) (wr : Bool) : State :=
  let s1 := s.askRemap line
  match s1.swapOver line with
  | some w => s1.updStack (stackAt (line * 128)) fun x =>
      { x with swaps := x.swaps.map fun y => if y.group = w.group ∧ y.running = true then { y with held := y.held ++ [(line, wr)] } else y }
  | none => s1.slotMade line wr

/-! ### Requests to homes on other peers (R282, R286, R377) -/

/-- On whose behalf something is sent: a context, if it is one's, and the `ARBW` that its word captured (R157, R164). -/
structure By where
  who : Option (Nat × Nat)
  arbw : Dword
  deriving DecidableEq, Repr

/-- On behalf of a word. -/
def Entry.by_ (e : Entry) (n : Nat) : By := { who := some (n, e.ctx), arbw := e.arbw }

/-- On behalf of a context, outside any word. -/
def State.byCtx (s : State) (n k : Nat) : By := { who := some (n, k), arbw := (s.ctx n k).arch.csr.arbw }

/-- On behalf of no context. DESIGN CHOICE (log 67): its cells go in the load/store class with weight 1. -/
def By.none_ : By := { who := none, arbw := 0x010101 }

/-- A request sent: a tag of its own, and its reissue 20 µs later. -/
def State.request (s : State) (o : Option Nat) (t cls weight dst : Nat) (kd : ReqKind) (mk : Nat → RingCell) : State :=
  let tag := s.tags % 2 ^ 16
  let c := mk tag
  let q : Req := { tag := BitVec.ofNat 16 tag, cell := c, kind := kd, again := false }
  let s1 := { s with tags := s.tags + 1, reqs := s.reqs ++ [q] }
  (s1.sendFor o t cls weight dst (.cell c)).after Config.latReissue (.requestReissue (BitVec.ofNat 16 tag))

/-- The peer of an address. -/
def peerAt (a : Nat) : Nat := a / 2 ^ 45

/-- A request of the load and store class from stack `t` to the home of an address. -/
def State.ask (s : State) (t : Nat) (b : By) (a ty : Nat) (kd : ReqKind) (l : List Byte) : State :=
  s.request (b.who.map (·.1)) t 0 (arbWeight b.arbw 0) (peerAt a) kd
    fun tag => ringCell (peerAt a) (peerOf t) 192 ty a tag l

/-- A write of bytes to a home on another peer, for context `k` of core `n`: TYPE 2. -/
def State.farWrite (s : State) (n k : Nat) (b : By) (a : Nat) (l : List Byte) : State :=
  s.ask (stackOf n) b a 2 (.store n k (lineOf a)) l

/-- A write-back of the words of a mask to a home on another peer: TYPE 3, mask then line. -/
def State.farWords (s : State) (t : Nat) (b : By) (l : RLine) (m : BitVec 32) : State :=
  let mask := (maskWords m).foldl (fun x w => x + 15 * 2 ^ (4 * w)) 0
  s.ask t b (l.line * 128) 3 (.back t b.who l.line) (leBytes 16 mask ++ (List.range 128).map l.byte)

/-- Part of a 32-bit word stored at a home on another peer, for context `k` of core `n` (R256): a byte-masked write, TYPE 3. -/
def State.farNarrow (s : State) (n k : Nat) (b : By) (a : Nat) (l : List Byte) : State :=
  let o := a % 128
  s.ask (stackOf n) b (a - o) 3 (.store n k (lineOf a)) (leBytes 16 ((2 ^ l.length - 1) * 2 ^ o) ++
    (List.range 128).map fun i => if i < o then 0 else l.getD (i - o) 0)

/-- Whether stack `t` is fetching a line for its copies. -/
def State.filling (s : State) (t line : Nat) : Bool := s.reqs.any fun r => match r.kind with | .fill u l _ _ => u == t && l == line | _ => false

/-- A read of a line of another peer for context `k` of core `n`, once for the stack: TYPE 0. -/
def State.farFill (s : State) (n k : Nat) (b : By) (line : Nat) : State :=
  if s.filling (stackOf n) line then s else s.ask (stackOf n) b (line * 128) 0 (.fill (stackOf n) line n k) []

/-- Whether a line comes past the caches for flight `id` of a core. -/
def State.reading (s : State) (n id line : Nat) : Bool :=
  s.reqs.any fun r => match r.kind with | .read m _ i l => m == n && i == id && l == line | _ => false

/-- A read of a line of another peer past the caches, for a word's flight. -/
def State.farRead (s : State) (n k : Nat) (b : By) (id line : Nat) : State :=
  if s.reading n id line then s else s.ask (stackOf n) b (line * 128) 0 (.read n k id line) []

/-- Whether a line of a table is on its way to the translation caches. -/
def State.tabling (s : State) (asn line : Nat) : Bool := s.reqs.any fun r => r.kind == .table asn line

/-- A read of a line of a table outside the package for an address space's translations, by stack `t`. -/
def State.farTable (s : State) (t asn line : Nat) : State :=
  if s.tabling asn line then s else s.ask t By.none_ (line * 128) 0 (.table asn line) []

/-- Whether stack `t` has sent a write-back of a line that is not acknowledged. -/
def State.backOut (s : State) (t line : Nat) : Bool := s.reqs.any fun r => match r.kind with | .back u _ l => u == t && l == line | _ => false

/-- Whether context `k` of core `n`, and whether its stack, has a store or atomic, a fill or a read past the copies outstanding to a
line. -/
structure LineUse where
  wrOwn : Bool
  wrAny : Bool
  fillOwn : Bool
  fillAny : Bool
  readOwn : Bool
  readAny : Bool
  deriving DecidableEq, Repr

/-- What is outstanding to a line. -/
def State.lineUse (s : State) (n k line : Nat) : LineUse :=
  let wr (own : Bool) (r : Req) : Bool := match r.kind with
    | .store m j l => l == line && (if own then m == n && j == k else stackOf m == stackOf n)
    | .atomic m j _ l => l == line && (if own then m == n && j == k else stackOf m == stackOf n)
    | _ => false
  let fill (own : Bool) (r : Req) : Bool := match r.kind with
    | .fill t l m j => l == line && (if own then m == n && j == k else t == stackOf n) | _ => false
  let read (own : Bool) (r : Req) : Bool := match r.kind with
    | .read m j _ l => l == line && (if own then m == n && j == k else stackOf m == stackOf n) | _ => false
  { wrOwn := s.reqs.any (wr true), wrAny := s.reqs.any (wr false), fillOwn := s.reqs.any (fill true), fillAny := s.reqs.any (fill false)
    readOwn := s.reqs.any (read true), readAny := s.reqs.any (read false) }

/-- Whether an access that goes past the copies of its stack to the home of a line, or writes there, must wait: for an access of its own
context to it (R286) and for a write-back (R398); and where copies may be held, for a store or a fill of the whole stack, so that no
copy comes that is older than what the access reads or writes (DEDUCED from R273 and R398, log 8). -/
def State.lineBusy (s : State) (n k line : Nat) : Bool :=
  let u := s.lineUse n k line
  u.wrOwn || u.fillOwn || u.readOwn || (!uncached (line * 128) && (s.backOut (stackOf n) line || u.wrAny || u.fillAny))

/-- Whether a load from the copies of its stack must wait for a line: an access of its own context to it is outstanding (R286), or a
write-back or an access past the copies of its stack (R398), or a fill that fills no copy any more (R274). A fill for another context
is joined instead. -/
def State.readBusy (s : State) (n k line : Nat) : Bool :=
  let u := s.lineUse n k line
  u.fillOwn || s.backOut (stackOf n) line || u.wrAny || u.readAny || (s.stack (stackOf n)).stale.contains line

/-- Whether the home slice holds what must fill an own line until the swap over its page ends (R268). -/
def State.slotHeld (s : State) (line : Nat) : Bool :=
  ownFpa (line * 128) && !(s.stack (stackAt (line * 128))).l2.contains line && (s.swapOver line).isSome

/-- Whether a context has any write outstanding, or its stack a write-back (R274: each is acknowledged). -/
def State.writesOut (s : State) (n k : Nat) : Bool :=
  s.reqs.any fun r => match r.kind with
    | .store n' k' _ => n' == n && k' == k | .atomic n' k' _ _ => n' == n && k' == k | .back t _ _ => t == stackOf n | _ => false

/-! ### Write-backs and invalidation (R274, R398) -/

/-- Words of a line clean in a stack's L1s. -/
def State.cleanL1 (s : State) (t line : Nat) (m : BitVec 32) : State :=
  s.changeL1 t line none fun x => some { x with dirty := x.dirty &&& ~~~m }

/-- The dirty words of a copy under a mask written back to their home (R255, R274); they stay as clean words. -/
def State.writeBack (s : State) (t : Nat) (b : By) (l : RLine) (m : BitVec 32) : State :=
  let d := l.dirty &&& m
  if d = 0 then s
  else if nearAt t (l.line * 128) then
    (((s.storeWords l d).updStack t fun x =>
      { x with remote := x.remote.filterMap fun y => if y.line = l.line then y.without d else some y
               l2w := if x.l2.contains l.line && !x.l2w.contains l.line then x.l2w ++ [l.line] else x.l2w })).cleanL1 t l.line d
  else ((s.setCopy t { l with dirty := l.dirty &&& ~~~d }).cleanL1 t l.line d).farWords t b l d

/-- Steps 1 and 2 of R398 for bytes a to a + n − 1: dirty words written back, then the copies dropped. -/
def State.recall (s : State) (t : Nat) (b : By) (a n : Nat) : State :=
  if uncached a then s
  else (linesOf a n).foldl (fun s line =>
    (match s.copyOf t line with
     | none => s
     | some l => s.writeBack t b l (wordMask line a n)).dropWords t line (wordMask line a n)) s

/-- Step 1 of R398 alone: dirty words written back, the copies kept. -/
def State.writeBackOf (s : State) (t : Nat) (b : By) (a n : Nat) : State :=
  (linesOf a n).foldl (fun s line =>
    match s.copyOf t line with | none => s | some l => s.writeBack t b l (wordMask line a n)) s

/-- Whether a home lies within a scope (R274): 4 package, 5 fabric, 6 system; narrower scopes take no action. -/
def inScope (scope : Nat) (a : Nat) : Bool :=
  match scope with
  | 4 => ownFpa a
  | 5 => !(Config.adapters.contains (BitVec.ofNat 12 (peerAt a)))
  | 6 => true
  | _ => false

/-- Whether release actions of stack `t` at a scope write a line back (R272, R274): every remote line with its home in scope, and
a line of an own shared region, which has performed once it is written to the pool. -/
def inRelease (t scope line : Nat) : Bool :=
  inScope scope (line * 128) && (!nearAt t (line * 128) || inShared (line * 128))

/-- Release actions (R274): the dirty words of these lines are written back. -/
def State.release (s : State) (t : Nat) (b : By) (scope : Nat) : State :=
  (s.stack t).remote.foldl (fun s l => if inRelease t scope l.line then s.writeBack t b l (BitVec.allOnes 32) else s) s

/-- Whether acquire actions of stack `t` at a scope reach a line: its home is another peer in scope. -/
def inAcquire (t scope line : Nat) : Bool := inScope scope (line * 128) && !nearAt t (line * 128)

/-- A copy after acquire actions at a scope: the clean words are gone. -/
def afterAcquire (t scope : Nat) (l : RLine) : Option RLine :=
  if inAcquire t scope l.line then l.without (l.valid &&& ~~~l.dirty) else some l

/-- An L1's line after acquire actions: the words that are not dirty in the stack are gone. -/
def State.l1Acquired (s : State) (t scope : Nat) (x : L1Line) : Option L1Line :=
  if inAcquire t scope x.line then
    x.without (~~~(match s.copyOf t x.line with | some l => l.dirty | none => 0))
  else some x

/-- The lines in scope that stack `t` is fetching for its copies. -/
def State.fillsInScope (s : State) (t scope : Nat) : List Nat :=
  s.reqs.filterMap fun r => match r.kind with | .fill u l _ _ => if u = t ∧ inAcquire t scope l = true then some l else none | _ => none

/-- Acquire actions (R274): every remote-clean word of the stack with its home in scope is dropped, and a fill on its way serves
those that wait for it and fills no copy. -/
def State.acquire (s : State) (t scope : Nat) : State :=
  if scope < 4 then s
  else
    { s.updStack t (fun x => { x with remote := x.remote.filterMap (afterAcquire t scope)
                                      bad := x.bad.filter fun l => !inAcquire t scope l
                                      stale := (x.stale ++ s.fillsInScope t scope).dedup }) with
      cores := s.cores.map fun (n, c) =>
        if stackOf n = t then (n, { c with l1 := c.l1.filterMap fun x => s.l1Acquired t scope x }) else (n, c) }

/-- The dirty words of the stack written back to their homes, the stack's own lines too (R275 `FENCEX`). -/
def State.writeBackAll (s : State) (t : Nat) (b : By) : State :=
  (s.stack t).remote.foldl (fun s l => s.writeBack t b l (BitVec.allOnes 32)) s

/-! ### L2 slices (R258 to R260) -/

/-- The slice of a line (R258): a[24:7] and a[42:25] exclusive-or, modulo 160. -/
def l2Slice (line : Nat) : Nat := (line % 2 ^ 18 ^^^ line / 2 ^ 18 % 2 ^ 18) % 160

/-- The slice and set of a line; which of a slice's 1024 sets is not stated (log 56). -/
def l2Set (line : Nat) : Nat := l2Slice line + 160 * (Config.l2Row line % 1024)

/-- A line leaves its slice (R259): it is recalled from every L1 of the stack, and dirty words are written back first. -/
def State.l2Evict (s : State) (t : Nat) (b : By) (line : Nat) : State :=
  let s1 := match s.copyOf t line with | none => s | some l => s.writeBack t b l (BitVec.allOnes 32)
  let s2 := if nearAt t (line * 128) && (s1.stack t).l2w.contains line then s1.slotAccess line true else s1
  (s2.updStack t fun x => { x with l2 := x.l2.filter fun y => y != line, l2w := x.l2w.filter fun y => y != line }).dropWords t line
    (BitVec.allOnes 32)

/-- A line's access at the slice of stack `t` that it has there (R258, R260, R318): a hit, or a miss that fills it from its slot
or holds what has come from its home; a full set gives up another line. -/
def State.l2Touch (s : State) (t : Nat) (b : By) (line : Nat) (wr : Bool) : State :=
  if uncached (line * 128) then s
  else
    let mark (x : Stack) : Stack :=
      { x with l2w := if wr && nearAt t (line * 128) && !x.l2w.contains line then x.l2w ++ [line] else x.l2w }
    if (s.stack t).l2.contains line then s.updStack t fun x => (mark x).count 2 1
    else
      let (v, s1) := s.freeVal
      let s2 := match (cacheTouch 16 l2Set v.toNat line (s1.stack t).l2).2 with
        | some w => s1.l2Evict t b w
        | none => s1
      let s3 := s2.updStack t fun x => (mark { x with l2 := x.l2 ++ [line] }).count 3 1
      if nearAt t (line * 128) then s3.slotAccess line false else s3

/-- A home slice's part in an access by another party: its own line is looked up. -/
def State.homeAccess (s : State) (line : Nat) (wr : Bool) : State :=
  if ownFpa (line * 128) then s.l2Touch (stackAt (line * 128)) By.none_ line wr else s

/-! ### L1s (R255 to R257) -/

/-- The core whose L1 holds a line for core `n`: itself, or in a fused cluster the member that address bits 9:7 name (R257). -/
def State.l1Core (s : State) (n line : Nat) : Nat := if (s.core n).fused then n / 8 * 8 + line % 8 else n

/-- The set of a line (R255, R257): address bits 14:7, in a fused L1 bits 17:10. -/
def l1Set (fused : Bool) (line : Nat) : Nat := if fused then line / 8 % 256 else line % 256

/-- A line's words in the L1 that serves core `n`. -/
def State.l1Line (s : State) (n line : Nat) : Option L1Line := (s.core (s.l1Core n line)).l1.find? fun x => x.line == line

/-- Whether that L1 serves a load of words (R256). -/
def State.l1Hit (s : State) (n line : Nat) (m : BitVec 32) : Bool :=
  match s.l1Line n line with | some x => m &&& ~~~x.valid == 0 | none => false

/-- A line leaves an L1 (R256): its dirty words go to the slice, an own line's to their home. -/
def State.l1Evict (s : State) (c line : Nat) (b : By) : State :=
  let t := stackOf c
  let d : BitVec 32 := match (s.core c).l1.find? fun x => x.line == line with | some x => x.dirty | none => 0
  (match s.copyOf t line with
   | some l => if nearAt t (line * 128) && d != 0 then (s.writeBack t b l d).l2Touch t b line true else s
   | none => s).updCore c fun x => { x with l1 := x.l1.filter fun y => y.line != line }

/-- Words of a line stand in the L1 that serves core `n`, some of them dirty; a full set gives up another line. -/
def State.l1Take (s : State) (n : Nat) (b : By) (line : Nat) (valid dirty : BitVec 32) : State :=
  let c := s.l1Core n line
  match (s.core c).l1.find? fun x => x.line == line with
  | some _ => s.updCore c fun x =>
      { x with l1 := changeLine line (fun y => some { y with valid := y.valid ||| valid, dirty := y.dirty ||| dirty }) x.l1 }
  | none =>
    let (v, s1) := s.freeVal
    let s2 := match (cacheTouch 8 (l1Set (s.core c).fused) v.toNat line ((s1.core c).l1.map (·.line))).2 with
      | some w => s1.l1Evict c w b
      | none => s1
    s2.updCore c fun x => { x with l1 := x.l1 ++ [{ line := line, valid := valid, dirty := dirty }] }

/-- A launch's mode for the L1s of the clusters that it enters (R16, R257): where it differs, the L1 gives up its lines. -/
def State.setFused (s : State) (n : Nat) (fused : Bool) : State :=
  if (s.core n).fused = fused then s
  else (((s.core n).l1.map (·.line)).foldl (fun s l => s.l1Evict n l By.none_) s).updCore n fun c => { c with fused := fused }

/-! ### Loads and plain stores of the core path -/

/-- A byte as stack `t`'s cores see it, and whether it is poisoned (R363); none where the line must be fetched. -/
def State.seen (s : State) (t a : Nat) : Option (Byte × Bool) :=
  let home : Option (Byte × Bool) :=
    if nearAt t a then some (if s.badLine (lineOf a) then (0, true) else (s.homeByte a, false))
    else if (s.stack t).bad.contains (lineOf a) then some (0, true) else none
  match s.copyOf t (lineOf a) with
  | some l => if l.valid.getLsbD (a % 128 / 4) then some (l.byte (a % 128), false) else home
  | none => home

/-- What has come of a line past the caches for flight `id` of core `n`. -/
def State.cameFor (s : State) (n id line : Nat) : Option Came := (s.core n).came.find? fun x => x.id == id && x.line == line

/-- A byte as flight `id` of core `n` reads it: past the caches where `past` says so (R254, R255, R274), else as the stack's cores
see it, or as a fill has brought it that fills no copy. -/
def State.seenBy (s : State) (n id : Nat) (past : Bool) (a : Nat) : Option (Byte × Bool) :=
  let came := (s.cameFor n id (lineOf a)).map fun x => (x.bytes.getD (a % 128) 0, x.bad)
  if nearAt (stackOf n) a then s.seen (stackOf n) a
  else if past || uncached a then came
  else (s.seen (stackOf n) a).orElse fun _ => came

/-- A line that has come to a stack's copies (R256): only its invalid words are filled. -/
def State.fillLine (s : State) (t line : Nat) (l : List Byte) : State :=
  let c := (s.copyOf t line).getD { line := line, data := 0, valid := 0, dirty := 0 }
  let d := (List.range 128).foldl (fun (x : RLine) o => if c.valid.getLsbD (o / 4) then x else x.put o (l.getD o 0)) c
  s.setCopy t { d with valid := BitVec.allOnes 32 }

/-- A chunk of a plain store inside one 32-bit word (R256): into the L1 where the word is valid there or written whole, and no
other L1 keeps it; else to the home. -/
def State.putChunk (s : State) (n k : Nat) (b : By) (a : Nat) (l : List Byte) : State :=
  let t := stackOf n
  let line := lineOf a
  let w := a % 128 / 4
  let m : BitVec 32 := BitVec.ofNat 32 (2 ^ w)
  if s.l1Hit n line m || l.length = 4 then
    let c := (s.copyOf t line).getD { line := line, data := 0, valid := 0, dirty := 0 }
    let c0 := if c.valid.getLsbD w then c
      else (List.range 4).foldl (fun (x : RLine) i => x.put (4 * w + i) (s.memByte (line * 128 + 4 * w + i))) c
    let c1 := (List.range l.length).foldl (fun (x : RLine) i => x.put (a % 128 + i) (l.getD i 0)) c0
    ((s.setCopy t { c1 with valid := c1.valid ||| m, dirty := c1.dirty ||| m }).changeL1 t line (some (s.l1Core n line))
      fun x => x.without m).l1Take n b line m m
  else if nearAt t a then s.homePut a l
  else if uncached a then s.farWrite n k b a l
  else s.farNarrow n k b a l

/-- A store cut at word boundaries. -/
def State.putChunks (s : State) (n k : Nat) (b : By) : Nat → Nat → List Byte → State
  | 0, _, _ => s
  | fuel + 1, a, l =>
    if l = [] then s
    else
      let m := 4 - a % 4
      (s.putChunk n k b a (l.take m)).putChunks n k b fuel (a + m) (l.drop m)

/-- A write to the home: by its own stack at once, else as a cell for each line. -/
def State.putHome (s : State) (n k : Nat) (b : By) (a : Nat) (l : List Byte) : State :=
  if nearAt (stackOf n) a then s.homePut a l
  else (linesOf a l.length).foldl (fun s line =>
    let lo := max a (line * 128)
    let hi := min (a + l.length) (line * 128 + 128)
    s.farWrite n k b lo ((l.drop (lo - a)).take (hi - lo))) s

/-- A plain store by context `k` of core `n` (R255, R256): into the L1, with no traffic to the slice. Scratchpad windows are written at
their bank (R254). -/
def State.putPlain (s : State) (n k : Nat) (b : By) (a : Nat) (l : List Byte) : State :=
  if uncached a then s.putHome n k b a l else s.putChunks n k b (l.length + 1) a l

/-- The ranges of a plain store that go on to the home: parts of words that the L1 does not hold (R256). -/
def State.homeward (s : State) (n : Nat) (r : Nat × Nat) : List (Nat × Nat) :=
  if uncached r.1 then []
  else
    (([r.1, r.1 + r.2 - 1] : List Nat).filter fun a =>
      !((decide (r.1 ≤ a / 4 * 4) && decide (a / 4 * 4 + 4 ≤ r.1 + r.2)) ||
        s.l1Hit n (lineOf a) (BitVec.ofNat 32 (2 ^ (a % 128 / 4))))).map fun a => (a / 4 * 4, 4)

/-- The CMP bits after a swap of home page `k` with the resident `j` (R264, R269), given whether each page that moves into a capacity slot
stands compressed there: page `j` in its own slot, or for `j` = 0 in that of `k`; and where neither is page 0, page 0 in the slot that
`k` leaves, since it lies in slot RES − 1. -/
def swappedCmp (cmp : BitVec 15) (k j : Nat) (cj c0 : Bool) : BitVec 15 :=
  let put (v : BitVec 15) (slot : Nat) (b : Bool) : BitVec 15 := setFld v slot 1 (if b then 1 else 0)
  if j = 0 then put cmp (k - 1) cj
  else if k = 0 then put cmp (j - 1) cj
  else put (put cmp (j - 1) cj) (k - 1) c0

/-- The remap entry after a swap of home page `k` with the resident: RES, CMP, both counters cleared. -/
def Remap.swapped (r : Remap) (k : Nat) (cj c0 : Bool) : Remap :=
  let j := r.res.toNat
  { r with res := BitVec.ofNat 4 k, cmp := swappedCmp r.cmp k j cj c0
           cnt := Vector.ofFn fun i : Fin 16 => if i.val = k ∨ i.val = j then 0 else r.cnt[i] }

/-! ### Pinning (R266) -/

/-- The groups whose home page 0 holds part of an extent of a stack's fast tier. -/
def pinGroups (l n : Nat) : List Nat :=
  if n = 0 then [] else (List.range ((l + n - 1) / 65536 - l / 65536 + 1)).filterMap fun i =>
    if l / 65536 + i < groupCount then some (l / 65536 + i) else none

/-- A group's PIN set where its pins ask for it and home page 0 is resident; else a swap of home page 0 is scheduled, unless one
of the group runs, which is looked at again at its end. -/
def State.settlePin (s : State) (t g : Nat) : State :=
  let x := s.stack t
  let r := x.remapOf g
  let want := decide (0 < assocGet g 0 x.pins) || decide (remapBase ≤ g * 65536)
  if r.pin = want then s
  else if !want then s.updStack t fun x => { x with remap := assocSet g { r with pin := false } x.remap }
  else if x.swaps.any fun w => w.group == g && w.running then s
  else
    let s1 := s.updStack t fun x => { x with swaps := x.swaps.filter fun w => w.group != g }
    if r.res = 0 then s1.updStack t fun x => { x with remap := assocSet g { r with pin := true } x.remap }
    else s1.scheduleSwap t g 0

/-- An extent of a stack's fast tier pinned or released: one more, or one fewer, for each group whose home page 0 it touches. -/
def State.pinExtent (s : State) (t : Nat) (up : Bool) (l n : Nat) : State :=
  (pinGroups l n).foldl (fun s g =>
    (s.updStack t fun x =>
      { x with pins := assocSet g (if up then assocGet g 0 x.pins + 1 else assocGet g 0 x.pins - 1) x.pins }).settlePin t g) s

/-- Whether every page of an extent is pinned. -/
def State.pinned (s : State) (t l n : Nat) : Bool := (pinGroups l n).all fun g => ((s.stack t).remapOf g).pin

/-! ### The walk (R22, R32, R353) -/

/-- What a table read gives: its value, nothing good, or a line to be fetched first. -/
inductive Rd where
  | ok (v : Nat)
  | bad
  | need (line : Nat)
  deriving DecidableEq, Repr

/-- A byte of a table, and whether it is poisoned: in this package as its home has it, else as the translation caches of the
address space hold its line (R32, R43). -/
def State.tabByte (s : State) (asn a : Nat) : Option (Byte × Bool) :=
  if ownFpa a then some (if s.badLine (lineOf a) then (0, true) else (s.homeByte a, false))
  else (s.tabs.find? fun x => x.1 == asn && x.2.line == lineOf a).map fun x => (x.2.bytes.getD (a % 128) 0, x.2.bad)

/-- `n` bytes of a table of an address space at a fabric physical address: poisoned or unmapped data is bad. -/
def State.tab (s : State) (asn a n : Nat) : Rd :=
  if ownFpa a && !localMapped (a % 2 ^ 45) then .bad
  else
    match (List.range n).find? fun i => (s.tabByte asn (a + i)).isNone with
    | some i => .need (lineOf (a + i))
    | none =>
      let l := (List.range n).map fun i => (s.tabByte asn (a + i)).getD (0, false)
      if l.any (·.2) then .bad else .ok (leNat (l.map (·.1)))

/-- One directory step (R32): the next table, or the end of the walk. -/
def State.dirStep (s : State) (asn table idx : Nat) : Rd :=
  match s.tab asn (table + 8 * idx) 8 with
  | .ok e => if nbits e 0 1 = 1 then .ok (nbits e 14 43 * 2 ^ 14) else .bad
  | r => r

/-- The leaf entry of page `pg` (bits 56:16 of a position) from a root: three directories, then the leaf (R32). -/
def State.walk (s : State) (asn root pg : Nat) : Rd :=
  match s.dirStep asn root (nbits pg 30 11) with
  | .ok t2 =>
    (match s.dirStep asn t2 (nbits pg 20 10) with
     | .ok t3 =>
       (match s.dirStep asn t3 (nbits pg 10 10) with
        | .ok leaf =>
          (match s.tab asn (leaf + 16 * nbits pg 0 10) 16 with
           | .ok e => if nbits e 0 1 = 1 then .ok e else .bad
           | r => r)
        | r => r)
     | r => r)
  | r => r

/-- The tables of an address space (R22). -/
def State.space (s : State) (asn : Nat) : Space := assocGet asn { root := none, base := none } s.spaces

/-- The result of translating one address (R353): where the element lies, its primer, a cause, a paging stop, or a
line of the tables to be fetched first. -/
inductive Tr where
  | loc (fpa bit w : Nat)
  | primer (v w : Nat)
  | fault (cause : Nat)
  | stop (page plane : Nat)
  | need (line : Nat)
  deriving DecidableEq, Repr

/-- Element width of a width code (R25). -/
def widthOf (wc : Nat) : Nat := match wc with | 0 => 1 | 1 => 2 | 2 => 4 | 3 => 6 | 4 => 8 | 5 => 16 | 6 => 32 | 7 => 64 | _ => 128

/-- The plane entry of plane `q` in the plane set of a leaf entry (R23). -/
def State.planeEntry (s : State) (asn leaf q : Nat) : Rd :=
  match (s.space asn).base with
  | none => .bad
  | some b => s.tab asn (b + 256 * nbits leaf 1 12 + 16 * q) 16

/-- The fabric physical address of the frame entry of plane `q` (R35). -/
def frameAddr (leaf q : Nat) : Nat := nbits leaf 64 49 * 256 + 16 * q

/-- What the tables hold for a page and plane (R32, R23, R35): the leaf, plane and frame entries, nothing good, or a line to be
fetched first. -/
inductive PageRd where
  | ok (leaf pe fe : Nat)
  | bad
  | need (line : Nat)
  deriving DecidableEq, Repr

/-- The entries of a page and plane of an address space. -/
def State.pageEntries (s : State) (asn page plane : Nat) : PageRd :=
  match (s.space asn).root with
  | none => .bad
  | some root =>
    match s.walk asn root page with
    | .need l => .need l
    | .bad => .bad
    | .ok e =>
      match s.planeEntry asn e plane, s.tab asn (frameAddr e plane) 16 with
      | .need l, _ => .need l
      | _, .need l => .need l
      | .ok pe, .ok fe => .ok e pe fe
      | _, _ => .bad

/-- Whether an address lies on a peer of the peer table, inside the map of R41 where the peer is an NPU stack. -/
def peerMapped (a : Nat) : Bool :=
  if ownFpa a then localMapped (a % 2 ^ 45)
  else if Config.adapters.contains (BitVec.ofNat 12 (peerAt a)) then true
  else Config.peerPresent (peerAt a) && localMapped (a % 2 ^ 45)

/-- Rows 5 to 9 of R353 for plane `q` at offset `o` of a page, given the plane entry and the frame entry. -/
def planeChecks (pg q o pe fe : Nat) (rd wr : Bool) : Tr :=
  let wc := nbits pe 1 4
  let g := nbits pe 5 4
  let p := nbits fe 57 1 == 1
  let fpa := nbits fe 0 57
  if nbits pe 0 1 = 0 ∨ 9 ≤ wc ∨ 12 < g then .fault 34
  else if nbits fe 60 2 = 3 ∨ (p ∧ !peerMapped fpa) then .fault 32
  else if rd && !(nbits pe 9 1 == 1 && nbits fe 58 1 == 1) then .fault 35
  else if wr && !(nbits pe 10 1 == 1 && nbits fe 59 1 == 1) then .fault 36
  else
    let w := widthOf wc
    if p then
      let b := o / 2 ^ g * w
      .loc (fpa + b / 8) (b % 8) w
    else if nbits fe 63 1 = 1 ∧ wr = false then .primer (nbits pe 64 (min w 64)) w
    else .stop pg q

/-- `translate` with every check of R353, in order, for a read, a write or both. The walk reads memory as it stands
(DESIGN CHOICE, log 57); a space without a plane set table, and a plane entry that is poisoned or unmapped, make no plane
(DEDUCED, log 31). -/
def State.translate (s : State) (asn : Nat) (va : Dword) (rd wr : Bool) : Tr :=
  let pg := fld va 16 41
  let o := fld va 0 16
  let q := fld va 60 4
  if fld va 57 3 ≠ 0 then .fault 32
  else
    match (s.space asn).root with
    | none => .fault 32
    | some root =>
      match s.walk asn root pg with
      | .need l => .need l
      | .bad => .fault 32
      | .ok e =>
        if nbits e 13 17 ≤ o then .fault 33
        else
          match s.tab asn (frameAddr e q) 16 with
          | .need l => .need l
          | .bad => .fault 32
          | .ok fe =>
            match s.planeEntry asn e q with
            | .need l => .need l
            | .bad => .fault 34
            | .ok pe => planeChecks pg q o pe fe rd wr

/-- The width and granule shift of plane `q` at a page, where its plane entry can be read and is created. -/
def State.planeShape (s : State) (asn : Nat) (va : Dword) (q : Nat) : Option (Nat × Nat) :=
  match (s.space asn).root with
  | none => none
  | some root =>
    match s.walk asn root (fld va 16 41) with
    | .ok e =>
      match s.planeEntry asn e q with
      | .ok pe => if nbits pe 0 1 = 0 ∨ 9 ≤ nbits pe 1 4 ∨ 12 < nbits pe 5 4 then none
                  else some (widthOf (nbits pe 1 4), nbits pe 5 4)
      | _ => none
    | _ => none

/-! ### Rows of elements (R178, R185) -/

/-- A global address of plane `q` and position number `p`. -/
def vaOf (q p : Nat) : Dword := BitVec.ofNat 64 (q % 16 * 2 ^ 60 + p % 2 ^ 57)

/-- The address of position `a`'s position number moved by `d` positions, bits 63:57 kept (R181, R187). -/
def moveVa (a : Dword) (d : Int) : Dword := setFld a 0 57 ((((fld a 0 57 : Nat) : Int) + d) % (2 ^ 57 : Int)).toNat

/-- Lane bits of a plane of width `w` (R178). -/
def laneBits (w : Nat) : Nat := if w = 6 then 8 else w

/-- The element that starts a row: rounded down to 8 / w, to 4 for w = 6, to 1 for w ≥ 8. -/
def rowStart (w e : Nat) : Nat := if w = 6 then e / 4 * 4 else if w < 8 then e / (8 / w) * (8 / w) else e

/-- The addresses of `n` consecutive elements from element `e0` of the page of `va`, in a plane of granule shift `g`:
element e at its first position, the addressed element at its own (R354). -/
def elemAddrs (va : Dword) (g e0 n : Nat) : List Dword :=
  let q := fld va 60 4
  let p := fld va 0 57
  let page := p / 2 ^ 16
  let per := 2 ^ (16 - g)
  (List.range n).map fun i =>
    let e := page * per + e0 + i
    setFld va 0 57 (if e = page * per + p % 2 ^ 16 / 2 ^ g then p else (vaOf q (e * 2 ^ g)).toNat % 2 ^ 57)

/-- The lane bits and element addresses of a row of `bits` bits at `va` (R178); the address alone where the plane
cannot be read. -/
def State.rowAddrs (s : State) (asn : Nat) (va : Dword) (bits : Nat) : Nat × List Dword :=
  match s.planeShape asn va (fld va 60 4) with
  | none => (8, [va])
  | some (w, g) => (laneBits w, elemAddrs va g (rowStart w (fld va 0 16 / 2 ^ g)) (bits / laneBits w))

/-- The planes of a group `q` named by mask `m` (R127, R185). -/
def planesOf (q m : Nat) : List Nat := (List.range 4).filterMap fun i => if nbits m i 1 = 1 then some (4 * q + i) else none

/-- `PLD` and `PST` (R185): positions p to p + n − 1, n = 2048 / the widest named plane. -/
def State.planeSpan (s : State) (asn : Nat) (va : Dword) (qs : List Nat) : Option (Nat × Nat) :=
  let ws := qs.filterMap fun q => (s.planeShape asn va q).map (·.1)
  if ws.length < qs.length then none
  else
    let n := 2048 / max 1 (ws.foldl max 1)
    some (fld va 0 57 / n * n, n)

/-- The addresses `PLD` or `PST` moves, in transfer order: ascending position, then plane (R354). -/
def State.planeAddrs (s : State) (asn : Nat) (va : Dword) (qs : List Nat) : List Dword :=
  match s.planeSpan asn va qs with
  | none => qs.map fun q => setFld va 60 4 q
  | some (p, n) => (List.range n).flatMap fun i => qs.map fun q => setFld (vaOf q (p + i)) 57 3 (fld va 57 3)

/-- The element addresses of plane `q`'s row and its lane bits (R185): elements p >> g to (p + n − 1) >> g. -/
def State.planeRow (s : State) (asn : Nat) (va : Dword) (qs : List Nat) (q : Nat) : Nat × List Dword :=
  match s.planeSpan asn va qs, s.planeShape asn va q with
  | some (p, n), some (w, g) =>
    (laneBits w, (List.range ((p + n - 1) / 2 ^ g - p / 2 ^ g + 1)).map fun i => vaOf q (max p ((p / 2 ^ g + i) * 2 ^ g)))
  | _, _ => (8, [])

/-! ### Checking and reading a list of elements -/

/-- What the checks of a word find (R353, R354, R358). -/
inductive Verdict where
  | ok
  | fault (cause : Nat) (va : Dword)
  | stop (page plane : Nat)
  | need (line : Nat)
  deriving DecidableEq, Repr

/-- Two verdicts of one word, the first met earlier: a fetch first, then the lowest cause, then a stop. -/
def Verdict.join (a b : Verdict) : Verdict :=
  match a, b with
  | .need l, _ => .need l
  | _, .need l => .need l
  | .fault c v, .fault d w => if d < c then .fault d w else .fault c v
  | .fault c v, _ => .fault c v
  | _, .fault d w => .fault d w
  | .stop p q, _ => .stop p q
  | .ok, b => b

/-- One element's verdict; a stop that the agent refused is cause 32 (R358). -/
def verdictOf (refused : List (Nat × Nat)) (va : Dword) : Tr → Verdict
  | .loc _ _ _ => .ok
  | .primer _ _ => .ok
  | .fault c => .fault c va
  | .stop p q => if refused.contains (p, q) then .fault 32 va else .stop p q
  | .need l => .need l

/-- The checks of every element a word moves. -/
def State.checkAll (s : State) (asn : Nat) (refused : List (Nat × Nat)) (rd wr : Bool) (l : List Dword) : Verdict :=
  l.foldl (fun v va => v.join (verdictOf refused va (s.translate asn va rd wr))) .ok

/-- The bytes an element occupies. -/
def elemSpan (fpa bit w : Nat) : Nat × Nat := (fpa, (bit + w + 7) / 8)

/-! ### The places of a checked word (R34, R353) -/

/-- What a translated address is as a place: a primer stands as it is; what has failed has none. -/
def Tr.elem : Tr → Elem
  | .loc a b w => .loc a b w
  | .primer v _ => .fixed v
  | _ => .fixed 0

/-- The bytes of an element that lies in memory. -/
def Elem.span? : Elem → Option (Nat × Nat)
  | .loc a b w => some (elemSpan a b w)
  | .fixed _ => none

/-- The byte ranges of a word's places. -/
def Places.spans (p : Places) : List (Nat × Nat) := p.rows.flatMap fun r => r.2.filterMap Elem.span?

/-- No places. -/
def Places.none_ : Places := { rows := [], off := 0, w := 8 }

/-- An element's value as flight `id` of core `n` reads it, its poisoned words as 0 (R363), and whether there are any. -/
def State.elemAt (s : State) (n id : Nat) (past : Bool) : Elem → Nat × Bool
  | .loc a b w =>
    let l := (List.range (elemSpan a b w).2).map fun i => (s.seenBy n id past (a + i)).getD (0, false)
    (nbits (leNat (l.map fun x => if x.2 then 0 else x.1)) b w, l.any (·.2))
  | .fixed v => (v, false)

/-- The line of a poisoned element, for `TRAPVAL` (R363): the line's address, or the scratchpad address with bit 63. -/
def poisonVal (n a : Nat) : Dword :=
  match spOwner a with
  | some (c, x) => if c = n then BitVec.ofNat 64 (x / 128 * 128 + 2 ^ 63) else BitVec.ofNat 64 (a / 128 * 128)
  | none => BitVec.ofNat 64 (a / 128 * 128)

/-- The elements of a row packed in lanes as a flight reads them, and the first poisoned address. -/
def State.readRow (s : State) (n id : Nat) (past : Bool) (r : Nat × List Elem) : Row × Option Dword :=
  let vs := r.2.map fun x => (x, s.elemAt n id past x)
  (BitVec.ofNat 2048 ((vs.foldr (fun x acc => x.2.1 % 2 ^ r.1 + 2 ^ r.1 * acc) 0)),
   (vs.find? fun x => x.2.2).map fun x => match x.1 with | .loc a _ _ => poisonVal n a | .fixed _ => 0)

/-! ### Writing elements -/

/-- The bytes of the elements of width 8 or more that lie one after another from the first. -/
def runBytes : List (Nat × List Byte) → List (Nat × List Byte)
  | [] => []
  | (a, l) :: r =>
    match runBytes r with
    | (b, m) :: r' => if a + l.length = b then (a, l ++ m) :: r' else (a, l) :: (b, m) :: r'
    | [] => [(a, l)]

/-! ### Tensor handles (R44 to R47, R186, R360) -/

/-- A handle of a stack. -/
def State.handleOf (s : State) (t num : Nat) : Option Handle := (s.stack t).handles.find? fun h => h.num == num

/-- The size of dimension `d`: dimensions beyond ND have size 1 (R45). -/
def Handle.size (h : Handle) (d : Nat) : Nat := if fld h.desc 52 2 < d then 1 else fld h.desc (128 + 32 * d) 32

/-- The element width of a handle. -/
def Handle.width (h : Handle) : Nat := widthOf (fld h.desc 48 4)

/-- The index of an element in a handle (R46); dimensions beyond ND have index 0. -/
def Handle.index (h : Handle) (i0 i1 i2 i3 : Nat) : Nat :=
  let nd := fld h.desc 52 2
  let i1 := if nd < 1 then 0 else i1
  let i2 := if nd < 2 then 0 else i2
  let i3 := if nd < 3 then 0 else i3
  if fld h.desc 54 2 = 0 then
    i0 + i1 * fld h.desc 256 48 + i2 * fld h.desc 304 48 + i3 * fld h.desc 352 48
  else
    (i1 / 64 * ((h.size 0 + 63) / 64) + i0 / 64) * 4096 + i1 % 64 * 64 + i0 % 64 +
      i2 * fld h.desc 304 48 + i3 * fld h.desc 352 48

/-- An element of a handle on stack `t`: its place, or none beyond a size (R47); dimensions beyond ND have index 0 (R45). -/
def Handle.elem (h : Handle) (t : Nat) (i0 i1 i2 i3 : Nat) : Option (Nat × Nat) :=
  let nd := fld h.desc 52 2
  let i1 := if nd < 1 then 0 else i1
  let i2 := if nd < 2 then 0 else i2
  let i3 := if nd < 3 then 0 else i3
  if h.size 0 ≤ i0 ∨ h.size 1 ≤ i1 ∨ h.size 2 ≤ i2 ∨ h.size 3 ≤ i3 then none
  else
    let b := h.index i0 i1 i2 i3 * h.width
    some (peerOf t * 2 ^ 45 + fld h.desc 0 45 + b / 8, b % 8)

/-- The rows of a tile (R186): the indices of each row's elements. -/
def tileIndex (c : Dword) (tr : Bool) (k e : Nat) : Nat × Nat × Nat × Nat :=
  let i0 := fld c 0 16
  let i1 := fld c 16 16
  (if tr then i0 + k else i0 + e, if tr then i1 + e else i1 + k, fld c 32 16, fld c 48 16)

/-- The populated fast tier ends here (R41): 96 GB. -/
def fastEnd : Nat := 0x165A0BC000

/-- The rows of a tile code (R186). -/
def tileRows (ts : BitVec 2) : Nat := 64 / 2 ^ ts.toNat

/-- The handle that a value names for a context, or none where R360 raises cause 38. -/
def State.handleFor (s : State) (asn : BitVec 12) (sh : Dword) : Option (Nat × Handle) :=
  let peer := fld sh 12 12
  if fld sh 24 40 ≠ 0 ∨ peer / 8 ≠ Config.pkg then none
  else
    match s.handleOf (peer % 8) (fld sh 0 12) with
    | none => none
    | some h => if h.asn = asn then some (peer % 8, h) else none

end Sys2Proof.Machine
end

