-- ==== Sys2Proof/Machine/Loads.lean ====
section
/-!
DEFINITION. The L words (R180 to R187): each definition is the word's issue. A scratchpad load reads at issue and its
result is due 6 cycles later; a global load is checked at its check point (`State.checkMemory`), reads there, and its
data returns later or lands at its named cycle.
-/

namespace Sys2Proof.Machine

/-! ### Shared operations -/

/-- The running word's address operand. -/
def State.addrOp (s : State) : Dword := s.act.entry.ops.addr

/-- The address space of the running word's context. -/
def Ctx.asn (c : Ctx) : Nat := match c.bnd with | some b => b.asn.toNat | none => 0

/-- The next flight number of the running word's core. -/
def State.nextFlight (s : State) : Nat := s.myCore.nextId

/-! ### What a word moves through global addresses -/

/-- The address of a scalar access: OFS × 2^SZ added to the position number, bits 56:0 (R181). -/
def scalarVa (a : Dword) (z : BitVec 2) (f : BitVec 6) : Dword := moveVa a (f.toNat * 2 ^ z.toNat : Nat)

/-- A scalar access of 2^SZ bytes (R181): lane bits, the elements it moves and the bit at which its bytes start. -/
def State.scalarElems (s : State) (asn : Nat) (va : Dword) (z : Nat) : Nat × List Dword × Nat :=
  match s.planeShape asn va (fld va 60 4) with
  | none => (8, [va], 0)
  | some (w, g) =>
    if w < 8 then (w, [va], 0)
    else
      let n := 2 ^ z
      let e := fld va 0 16 / 2 ^ g
      let b0 := e * (w / 8) / n * n
      let e0 := b0 / (w / 8)
      let e1 := (b0 + n - 1) / (w / 8)
      (w, elemAddrs va g e0 (e1 - e0 + 1), 8 * b0 - e0 * w)

/-- The scalar access of a word: its address and size code. -/
def scalarOp (i : Instr) (a : Dword) : Option (Dword × Nat) :=
  match i with
  | .ldg _ _ _ _ _ z _ f => some (scalarVa a z f, z.toNat)
  | .stg _ _ _ _ _ z _ f => some (scalarVa a z f, z.toNat)
  | .sigst _ _ _ _ _ _ f => some (scalarVa a 3 f, 3)
  | .atom _ _ op _ _ _ _ => some (a, if op = 10 then 2 else 3)
  | _ => none

/-- The signed position offset of lane `k` of an index row (R187). -/
def indexOf (x : Row) (k : Nat) : Int := (BitVec.ofNat 32 (fld x (32 * k) 32)).toInt

/-- The rows that a word moves through global addresses, each as lane bits and element addresses. -/
def State.moves (s : State) (asn : Nat) (e : Entry) (car : Carry) : List (Nat × List Dword) :=
  let a := e.ops.addr
  match scalarOp e.instr a with
  | some (va, z) => let r := s.scalarElems asn va z; [(r.1, r.2.1)]
  | none =>
    match e.instr with
    | .lgv _ _ _ _ _ _ _ => [s.rowAddrs asn a car.width]
    | .sgv _ _ _ _ _ _ _ _ => [s.rowAddrs asn a car.width]
    | .redv _ _ _ _ _ _ _ => [s.rowAddrs asn a car.width]
    | .ldx _ _ _ _ _ _ _ => (List.range car.rows).map fun j => s.rowAddrs asn (moveVa a (indexOf car.idx j)) car.width
    | .stx _ _ _ _ _ _ _ => (List.range car.rows).map fun j => s.rowAddrs asn (moveVa a (indexOf car.idx j)) car.width
    | .pld _ _ _ _ _ q m => (planesOf q.toNat m.toNat).map fun x => s.planeRow asn a (planesOf q.toNat m.toNat) x
    | .pst _ _ _ _ q m => (planesOf q.toNat m.toNat).map fun x => s.planeRow asn a (planesOf q.toNat m.toNat) x
    | .kld _ _ _ _ _ c =>
      (match s.planeShape asn a (fld a 60 4) with
       | none => [(8, [a])]
       | some (w, g) => [(w, elemAddrs a g (fld a 0 16 / 2 ^ g) (c.toNat + 1))])
    | .ktab _ _ _ _ _ => [(8, (List.range 256).map fun i => moveVa a (i : Nat))]
    | .kout _ _ _ _ _ c => [(8, (List.range (c.toNat + 1)).map fun i => moveVa a (i : Nat))]
    | .coll _ _ _ _ _ _ _ =>
      [(8, (List.range 32).map fun i => moveVa e.ops.x (i : Nat)), (8, (List.range 8).map fun i => moveVa e.ops.y (i : Nat))]
    | _ => []

/-! ### Translation caches and walkers (R16, R17, R42, R319) -/

/-- The names of a page of an address space, and of a plane of it, in the translation caches. -/
def pageKey (asn page : Nat) : Nat := asn * 2 ^ 41 + page

/-- The pages and planes that a word's elements touch, each once. -/
def pagesOf (l : List (Nat × List Dword)) : List (Nat × Nat) := ((l.flatMap (·.2)).map fun va => (fld va 16 41, fld va 60 4)).dedup

/-- The cluster translation cache of a core's cluster. -/
def State.clusterCache (s : State) (n : Nat) : List Nat := assocGet (n % 192 / 8) [] (s.stack (stackOf n)).xl

/-- Whether a core's own caches hold the translations of pages and planes. -/
def Core.translates (c : Core) (asn : Nat) (l : List (Nat × Nat)) : Bool :=
  l.all fun p => c.pages.contains (pageKey asn p.1) && c.frames.contains (pageKey asn p.1 * 16 + p.2)

/-- Whether the cluster's cache holds them. -/
def State.clusterTranslates (s : State) (n asn : Nat) (l : List (Nat × Nat)) : Bool :=
  l.all fun p => (s.clusterCache n).contains (2 * pageKey asn p.1) && (s.clusterCache n).contains (2 * (pageKey asn p.1 * 16 + p.2) + 1)

/-- The lines of this package's memory in which addresses of tables lie. -/
def tableLines (l : List Nat) : List Nat := ((l.filter ownFpa).map lineOf).dedup

/-- The lines of the plane and frame entries of planes `qs` of a page (R23, R35). -/
def State.entryLines (s : State) (asn page : Nat) (qs : List Nat) : List Nat :=
  match (s.space asn).root with
  | none => []
  | some root => match s.walk asn root page with
    | .ok e => tableLines (qs.flatMap fun q =>
        frameAddr e q :: ((s.space asn).base.map fun b => b + 256 * nbits e 1 12 + 16 * q).toList)
    | _ => []

/-- The lines that a walk of a page reads: of its directory entries and its leaf entry, as far as they are good (R32), and of the entries
of planes `qs`. -/
def State.walkLines (s : State) (asn page : Nat) (qs : List Nat) : List Nat :=
  let next (i : Nat) (a : Option Nat) : Option Nat :=
    a.bind fun x => match s.dirStep asn x i with | .ok y => some y | _ => none
  let t1 := (s.space asn).root
  let t2 := next (nbits page 30 11) t1
  let t3 := next (nbits page 20 10) t2
  let leaf := next (nbits page 10 10) t3
  (tableLines ((t1.toList.map (· + 8 * nbits page 30 11)) ++ (t2.toList.map (· + 8 * nbits page 20 10)) ++
    (t3.toList.map (· + 8 * nbits page 10 10)) ++ leaf.toList.map (· + 16 * nbits page 0 10)) ++ s.entryLines asn page qs).dedup

/-- A page walked by a stack's walkers (R10, R42): a request for a page whose walk has not ended, for whatever planes, attaches to that
walk; else a walk starts, once one of the 64 walkers is free, and reads the tables' lines at their home slices (R265, R267). Walks are
taken by the walkers in the order in which they were asked for. -/
def State.walkPage (s : State) (t asn page : Nat) (qs : List Nat) : Nat × State :=
  let live := (s.stack t).walks.filter fun w => decide (s.now < w.ends)
  match live.find? fun w => w.key == pageKey asn page with
  | some w => (w.ends, s)
  | none =>
    if s.fw.asked.any fun q => q.1 == asn && q.2.1 == page then (s.now, s)
    else
      let from_ := if live.length < 64 then s.now else ((live[live.length - 64]?).map (·.ends)).getD s.now
      let s1 := (s.walkLines asn page qs).foldl (fun s l => s.homeAccess l false) s
      (from_ + Config.latWalk, s1.updStack t fun x =>
        { x.count 11 1 with walks := live ++ [{ key := pageKey asn page, ends := from_ + Config.latWalk }] })

/-- Pages walked, each with the planes asked for; the cycle in which the last walk ends. -/
def State.walkPages (s : State) (t asn : Nat) : List (Nat × List Nat) → Nat × State
  | [] => (s.now, s)
  | k :: r =>
    let x := s.walkPage t asn k.1 k.2
    let y := x.2.walkPages t asn r
    (max x.1 y.1, y.2)

/-- Whether a page's leaf entry is held by a core or its cluster. -/
def State.leafHeld (s : State) (n pk : Nat) : Bool := (s.core n).pages.contains pk || (s.clusterCache n).contains (2 * pk)

/-- The pages of which a word misses a plane, each with these planes. -/
def State.missing (s : State) (n asn : Nat) (l : List (Nat × Nat)) : List (Nat × List Nat) :=
  let miss := l.filter fun p => !((s.core n).translates asn [p] || s.clusterTranslates n asn [p])
  ((miss.map (·.1)).dedup).map fun pg => (pg, (miss.filter fun p => p.1 == pg).map (·.2))

/-- How long a word's translations take (R319): 4 cycles where the core's caches hold them, longer from the cluster's cache, and
until the walks end where neither does. Where the leaf entry of a page is held, the plane and frame entries are fetched alone, each
request for itself: no position page is walked (DEDUCED from R42 and the run of R366, log 6). -/
def State.translateTime (s : State) (n asn : Nat) (l : List (Nat × Nat)) : Nat × State :=
  if (s.core n).translates asn l then (4, s)
  else if s.clusterTranslates n asn l then (Config.latXl, s)
  else
    let m := s.missing n asn l
    let x := s.walkPages (stackOf n) asn (m.filter fun p => !s.leafHeld n (pageKey asn p.1))
    let fetch := m.filter fun p => s.leafHeld n (pageKey asn p.1)
    (max (if fetch.isEmpty then Config.latXl else Config.latWalk) (x.1 - s.now),
     fetch.foldl (fun s p => (s.entryLines asn p.1 p.2).foldl (fun s l => s.homeAccess l false) s) x.2)

/-- A page and plane enter the caches of a core and of its cluster; what a full one gives up is a free choice (log 56). -/
def State.cachePage (s : State) (n asn : Nat) (p : Nat × Nat) : State :=
  if (s.core n).translates asn [p] && s.clusterTranslates n asn [p] then s
  else
    let (v, s1) := s.freeVal
    let put (w i x : Nat) (l : List Nat) : List Nat := (cacheTouch w (fun _ => 0) (fld v (16 * i) 16) x l).1
    let pk := pageKey asn p.1
    let cl := put 1024 3 (2 * (pk * 16 + p.2) + 1) (put 1024 2 (2 * pk) (s1.clusterCache n))
    (s1.updCore n fun c => { c with pages := put 64 0 pk c.pages, frames := put 256 1 (pk * 16 + p.2) c.frames }).updStack (stackOf n)
      fun x => { x with xl := assocSet (n % 192 / 8) cl x.xl }

/-- The leaf entry of a page whose walk has met a missing frame enters the page caches alone (R42, log 6). -/
def State.cacheLeaf (s : State) (n asn page : Nat) : State :=
  let pk := pageKey asn page
  if s.leafHeld n pk then s
  else
    let (v, s1) := s.freeVal
    let cl := (cacheTouch 1024 (fun _ => 0) (fld v 16 16) (2 * pk) (s1.clusterCache n)).1
    (s1.updCore n fun c => { c with pages := (cacheTouch 64 (fun _ => 0) (fld v 0 16) pk c.pages).1 }).updStack (stackOf n)
      fun x => { x with xl := assocSet (n % 192 / 8) cl x.xl }

/-- What a word takes along that names a queue of `w` bits. -/
def carryW (w : Nat) : Carry := { idx := 0, width := w, rows := 0, mask := 0 }

/-- A translated word starts its checks (R319) for the flights `fs`. -/
def State.startCheck (s : State) (car : Carry) (fs : List Nat) (acq : Option (BitVec 3)) : State :=
  let id := s.nextFlight
  let d := s.translateTime s.act.core s.me.asn (pagesOf (s.moves s.me.asn s.act.entry car))
  (d.2.laterAcq 0 acq (.check s.act.entry car fs 0 Places.none_)).after d.1 (.translationComplete s.act.core id)

/-- A word with a handle starts its checks: 4 cycles (R319). -/
def State.startHandle (s : State) (car : Carry) (fs : List Nat) (acq : Option (BitVec 3)) : State :=
  let id := s.nextFlight
  (s.laterAcq 0 acq (.check s.act.entry car fs 0 Places.none_)).after 4 (.translationComplete s.act.core id)

/-- Poisoned bytes of a scratchpad read raise cause 65 (R363). -/
def State.spPoison (s : State) (a n : Nat) : State :=
  match (linesOf a n).find? fun l => s.badLine l with
  | none => s
  | some l => s.raiseAsync s.act.core s.act.ctx 65 (poisonVal s.act.core (l * 128))

/-- `n` scratchpad bytes of the running word's core at offset `x`; poisoned lines read 0 (R363). -/
def State.spRead (s : State) (x n : Nat) : Nat :=
  leNat ((List.range n).map fun i =>
    let a := spAddr s.act.core (x + i)
    if s.badLine (lineOf a) then 0 else readByte a s.mem)

/-- Bytes of a size code. -/
def sizeOf' (z : BitVec 2) : Nat := 2 ^ z.toNat

/-! ### Scratchpad loads (R181 to R183) -/

/-- `NOP.l` (R68). -/
def execNopL (_h : BitVec 1) (_p : BitVec 3) (s : State) : Out1 := .next s

/-- `LDS.sz`: the 2^SZ bytes at a + OFS × 2^SZ rounded down to 2^SZ, written 6 cycles later. -/
def execLds (h : BitVec 1) (p : BitVec 3) (m : BitVec 1) (d b : BitVec 5) (z : BitVec 2) (o : BitVec 3) (f : BitVec 6)
    (s : State) : Out1 :=
  .next (s.issueChecked false (.lds h p m d b z o f) 0 fun s =>
    let n := sizeOf' z
    let x := (fld s.addrOp 0 21 + f.toNat * n) / n * n
    (s.laterAcq 6 (ordScope o) (.sreg d (BitVec.ofNat 64 (s.spRead x n)))).spPoison (spAddr s.act.core x) n)

/-- `LDV`: one row of the destination queue's width, pushed 6 cycles later. -/
def execLdv (h : BitVec 1) (p : BitVec 3) (m : BitVec 1) (d b : BitVec 5) (o : BitVec 3) (s : State) : Out1 :=
  .next (s.issueChecked false (.ldv h p m d b o) 1 fun s =>
    let n := rowWidth (s.arch.queue d).wd / 8
    let x := fld s.addrOp 0 21 / n * n
    (s.laterAcq 6 (ordScope o) (.push d (BitVec.ofNat 2048 (s.spRead x n)) 0)).spPoison (spAddr s.act.core x) n)

/-- The byte of row `r` of a tile column (R183): the tile base has bits 5:0 of the address clear. -/
def tileByte (a : Dword) (ew r : Nat) : Nat := fld a 6 15 * 64 + 2048 * r + fld a 0 6 * ew / 8

/-- `LDVT.eN`: column a[5:0] of a swizzled 64-row tile. Cause 39 where a row would cross its 2 KiB or the tile the end
of the scratchpad (R361). -/
def execLdvt (h : BitVec 1) (p : BitVec 3) (m : BitVec 1) (d b : BitVec 5) (e : BitVec 2) (s : State) : Out1 :=
  .next (s.issueChecked false (.ldvt h p m d b e) 1 fun s =>
    let a := s.addrOp
    let ew := 8 * 2 ^ e.toNat
    if 32 < fld a 6 5 + ew / 8 ∨ 0x1FFFFF < fld a 0 21 + 63 * 2048 then s.raise 39 (BitVec.ofNat 64 (fld a 0 21))
    else
      let row := lanesOf (List.range 64) fun r => s.spRead (tileByte a ew r) (ew / 8)
      (List.range 64).foldl (fun s r => s.spPoison (spAddr s.act.core (tileByte a ew r)) (ew / 8))
        (s.later 6 (.push d (row ew) 0)))
where
  /-- values packed in lanes of `lb` bits -/
  lanesOf (l : List Nat) (g : Nat → Nat) (lb : Nat) : Row :=
    BitVec.ofNat 2048 (l.foldr (fun r acc => g r % 2 ^ lb + 2 ^ lb * acc) 0)

/-! ### Global loads (R181, R184 to R187) -/

/-- `LDG.sz`. -/
def execLdg (h : BitVec 1) (p : BitVec 3) (m : BitVec 1) (d b : BitVec 5) (z : BitVec 2) (o : BitVec 3) (f : BitVec 6)
    (s : State) : Out1 :=
  .next (s.issueChecked false (.ldg h p m d b z o f) 0 fun s =>
    let id := s.nextFlight
    (s.laterAcq 0 (ordScope o) (.gload d 0 false)).startCheck (carryW 0) [id] (ordScope o))

/-- `LGV`: a landing at issue + 4δ. -/
def execLgv (h : BitVec 1) (p : BitVec 3) (m : BitVec 1) (d b : BitVec 5) (x : BitVec 8) (o : BitVec 3) (s : State) :
    Out1 :=
  .next (s.issueChecked false (.lgv h p m d b x o) 1 fun s =>
    let id := s.nextFlight
    (s.laterAcq (4 * x.toNat) (ordScope o) (.land d 0 false false)).startCheck (carryW (s.arch.widthOfQueue d)) [id] (ordScope o))

/-- Landings of one word into the queues `ds`, all at issue + `lat`. -/
def State.landAll (s : State) (lat : Nat) : List (BitVec 5) → State
  | [] => s
  | d :: r => (s.later lat (.land d 0 false false)).landAll lat r

/-- `PLD`: a row for each named plane, all landing at issue + 4δ. -/
def execPld (h : BitVec 1) (p : BitVec 3) (d : BitVec 5) (n : BitVec 3) (x : BitVec 8) (q : BitVec 2) (m : BitVec 4)
    (s : State) : Out1 :=
  let ds := planeQueues d m
  .next (s.issueChecked false (.pld h p d n x q m) 1 fun s =>
    let id := s.nextFlight
    (s.landAll (4 * x.toNat) ds).startCheck (carryW 0) ((List.range ds.length).map (id + ·)) none)

/-- `n` rows that return in order into queue `d`. -/
def State.retAll (s : State) (d : BitVec 5) (acq : Option (BitVec 3)) : Nat → State
  | 0 => s
  | n + 1 => (s.laterAcq 0 acq (.ret d 0 false)).retAll d acq n

/-- `TLD`: 64, 32, 16 or 8 rows of a tile. -/
def execTld (h : BitVec 1) (p : BitVec 3) (d k c : BitVec 5) (t : BitVec 2) (r : BitVec 1) (o : BitVec 3) (s : State) :
    Out1 :=
  .next (s.issueChecked false (.tld h p d k c t r o) (tileRows t) fun s =>
    let id := s.nextFlight
    let n := tileRows t
    (s.retAll d (ordScope o) n).startHandle (carryW (s.arch.widthOfQueue d)) ((List.range n).map (id + ·)) (ordScope o))

/-- The rows of an `LDX` or `STX`: the 32-bit lanes of the index queue (R187). -/
def indexRows (a : Arch) (i : BitVec 5) : Nat := a.widthOfQueue i / 32

/-- `LDX`: pops an index row; one row for each index. -/
def execLdx (h : BitVec 1) (p : BitVec 3) (m : BitVec 1) (d b i : BitVec 5) (o : BitVec 3) (s : State) : Out1 :=
  let n := indexRows s.arch i
  .next (s.issueChecked false (.ldx h p m d b i o) n fun s =>
    let (x, s1) := s.src false i (32 * n)
    let id := s1.nextFlight
    (s1.retAll d (ordScope o) n).startCheck { idx := x, width := s.arch.widthOfQueue d, rows := n, mask := 0 } ((List.range n).map (id + ·))
      (ordScope o))

end Sys2Proof.Machine
end

