-- ==== Sys2Proof/Machine/Stores.lean ====
section
/-!
DEFINITION. The T words (R188 to R202). Each definition is the word's issue: it pops its first row and is held until
its bundle retires (R320). `State.perform` is what a held word does to memory afterwards, in the order of R195.
-/

namespace Sys2Proof.Machine

/-! ### Issue: the word is held (R319, R320) -/

/-- The running word is held in the T engine. -/
def State.hold (s : State) (rows : List Row) (need : Nat) (car : Carry) (places : Option Places) : State :=
  s.updMyCore fun c =>
    { c with nextId := c.nextId + 1,
             held := c.held ++ [{ id := c.nextId, entry := s.act.entry, rows := rows, need := need, car := car,
                                  places := places, desc := 0, stage := 0 }] }

/-- A held word with a global address: its checks run under the flight after its own number (R319). -/
def State.holdChecked (s : State) (rows : List Row) (need : Nat) (car : Carry) : State :=
  let id := s.nextFlight
  (s.hold rows need car none).startCheck car [id] none

/-- Whether a held word has passed its checks. -/
def Held.checked (h : Held) : Bool := h.places.isSome

/-- A word without rows that is checked at issue. -/
def tSimple (s : State) : Out1 := .next (s.hold [] 0 (carryW 0) (some Places.none_))

/-- `NOP.t` (R68). -/
def execNopT (_h : BitVec 1) (_p : BitVec 3) (s : State) : Out1 := .next s

/-- `STS.sz`. -/
def execSts (_h : BitVec 1) (_p : BitVec 3) (_m : BitVec 1) (_d _b : BitVec 5) (_z : BitVec 2) (_o : BitVec 3)
    (_f : BitVec 6) (s : State) : Out1 := tSimple s

/-- `STG.sz`. -/
def execStg (_h : BitVec 1) (_p : BitVec 3) (_m : BitVec 1) (_d _b : BitVec 5) (_z : BitVec 2) (_o : BitVec 3)
    (_f : BitVec 6) (s : State) : Out1 := .next (s.holdChecked [] 0 (carryW 0))

/-- `SIGST`. -/
def execSigst (_h : BitVec 1) (_p : BitVec 3) (_m : BitVec 1) (_d _b : BitVec 5) (_o : BitVec 3) (_f : BitVec 6)
    (s : State) : Out1 := .next (s.holdChecked [] 0 (carryW 0))

/-- The row width of a store's source. -/
def State.srcWidth (s : State) (d : BitVec 5) : Nat := s.arch.widthOfQueue d

/-- `STV`. -/
def execStv (h : BitVec 1) (p : BitVec 3) (m : BitVec 1) (d b : BitVec 5) (o : BitVec 3) (s : State) : Out1 :=
  .next (s.issueChecked false (.stv h p m d b o) 0 fun s =>
    let (x, s1) := s.src false d (s.srcWidth d)
    s1.hold [x] 1 (carryW (s.srcWidth d)) (some Places.none_))

/-- `SGV`: the lane mask is read at issue; the row's width travels with the word. -/
def execSgv (h : BitVec 1) (p : BitVec 3) (m : BitVec 1) (d b : BitVec 5) (e : BitVec 1) (q o : BitVec 3) (s : State) :
    Out1 :=
  .next (s.issueChecked false (.sgv h p m d b e q o) 0 fun s =>
    let mask : Mask := if e = 1 then s.arch.masks[q.toNat]'q.isLt else BitVec.allOnes 256
    let w := s.srcWidth d
    let (x, s1) := s.src false d w
    s1.holdChecked [x] 1 { idx := 0, width := w, rows := 0, mask := mask })

/-- `PST`: one row for each named plane, from the queues S, S + 1, …, a row a cycle. -/
def execPst (h : BitVec 1) (p : BitVec 3) (d : BitVec 5) (n : BitVec 3) (q : BitVec 2) (m : BitVec 4) (s : State) : Out1 :=
  let k := popCount 4 m.toNat
  .next (s.issueChecked false (.pst h p d n q m) 0 fun s =>
    let (x, s1) := s.src false d (s.srcWidth d)
    s1.holdChecked [x] k (carryW 0))

/-- `TST`: the handle is checked 4 cycles after issue. -/
def execTst (h : BitVec 1) (p : BitVec 3) (d k c : BitVec 5) (t : BitVec 2) (r : BitVec 1) (o : BitVec 3) (s : State) :
    Out1 :=
  .next (s.issueChecked false (.tst h p d k c t r o) 0 fun s =>
    let w := s.srcWidth d
    let (x, s1) := s.src false d w
    let id := s1.nextFlight
    (s1.hold [x] (tileRows t) (carryW w) none).startHandle (carryW w) [id] none)

/-- `STX`: pops the index row and the first row. -/
def execStx (h : BitVec 1) (p : BitVec 3) (m : BitVec 1) (d b i : BitVec 5) (o : BitVec 3) (s : State) : Out1 :=
  .next (s.issueChecked false (.stx h p m d b i o) 0 fun s =>
    let n := indexRows s.arch i
    let (x, s1) := s.src false i (32 * n)
    let (y, s2) := s1.src false d (s.srcWidth d)
    s2.holdChecked [y] n { idx := x, width := s.srcWidth d, rows := n, mask := 0 })

/-- `ATOM.op`. -/
def execAtom (_h : BitVec 1) (_p : BitVec 3) (_a : BitVec 4) (_d _b _s : BitVec 5) (_o : BitVec 3) (s : State) : Out1 :=
  .next (s.holdChecked [] 0 (carryW 0))

/-- `REDV.op.t`. -/
def execRedv (h : BitVec 1) (p : BitVec 3) (m : BitVec 1) (d b : BitVec 5) (r : BitVec 2) (o : BitVec 3) (s : State) : Out1 :=
  .next (s.issueChecked false (.redv h p m d b r o) 0 fun s =>
    let w := s.srcWidth d
    let (x, s1) := s.src false d w
    s1.holdChecked [x] 1 (carryW w))

/-- `FENCE.scope`. -/
def execFence (_h : BitVec 1) (_p _s : BitVec 3) (s : State) : Out1 := tSimple s
/-- `FENCEX.scope`. -/
def execFencex (_h : BitVec 1) (_p _s _a _b : BitVec 3) (s : State) : Out1 := tSimple s
/-- `DRAIN.scope`. -/
def execDrain (_h : BitVec 1) (_p _s : BitVec 3) (s : State) : Out1 := tSimple s
/-- `CPY`: its addresses are checked by the engine (R319). -/
def execCpy (_h : BitVec 1) (_p : BitVec 3) (_a _b _c : BitVec 5) (s : State) : Out1 := tSimple s
/-- `GATH`: as `CPY`. -/
def execGath (_h : BitVec 1) (_p : BitVec 3) (_a _b _c : BitVec 5) (s : State) : Out1 := tSimple s
/-- `COLL.op.type`: descriptor and bucket-ready word are checked and the descriptor read at its check point (R200). -/
def execColl (_h : BitVec 1) (_p : BitVec 3) (_a _b _c : BitVec 5) (_y : BitVec 1) (_x : BitVec 3) (s : State) : Out1 :=
  .next (s.holdChecked [] 0 (carryW 0))

/-- The fabric domain of a context (R293): its fabric set, or none for its package. -/
def Bind.domain (b : Bind) : Option Nat := if b.shape.getLsbD 3 then b.fset else none

/-- Whether a network is configured: what the masks that the cores hold say (R346). -/
def State.netConfigured (s : State) (d : NetRef) : Bool := s.nets.any fun x => x.ref == d

/-- `TAKE`: a network not configured in the context's fabric domain raises cause 17. -/
def execTake (_h : BitVec 1) (_p : BitVec 3) (_a : BitVec 5) (n : BitVec 4) (s : State) : Out1 :=
  let d := match s.me.bnd with | some b => b.domain | none => none
  .next (if s.netConfigured { set := d, net := n.toNat } then s.hold [] 0 (carryW 0) (some Places.none_) else s.raiseWord 17)

/-- `ARRW`: cause 39 where the region would pass the end of the scratchpad (R361). -/
def execArrw (_h : BitVec 1) (_p : BitVec 3) (_a _b : BitVec 5) (_f : BitVec 6) (s : State) : Out1 :=
  let a := fld s.act.entry.ops.x 0 21 / 16 * 16
  .next (if 0x200000 < a + 16 + fld s.act.entry.ops.y 0 32 then
      s.raise 39 (BitVec.ofNat 64 (fld s.act.entry.ops.x 0 21))
    else s.hold [] 0 (carryW 0) (some Places.none_))

/-! ### The places of a word (R34, R186, R353) -/

/-- Reads and writes of a word (R353). -/
def accessOf (i : Instr) : Bool × Bool :=
  match i with
  | .stg _ _ _ _ _ _ _ _ => (false, true)
  | .sigst _ _ _ _ _ _ _ => (false, true)
  | .sgv _ _ _ _ _ _ _ _ => (false, true)
  | .pst _ _ _ _ _ _ => (false, true)
  | .stx _ _ _ _ _ _ _ => (false, true)
  | .atom _ _ _ _ _ _ _ => (true, true)
  | .redv _ _ _ _ _ _ _ => (true, true)
  | _ => (true, false)

/-- The place of an element of a tile: padding beyond the handle's sizes (R47). -/
def Handle.place (h : Handle) (t : Nat) (i : Nat × Nat × Nat × Nat) : Elem :=
  match h.elem t i.1 i.2.1 i.2.2.1 i.2.2.2 with
  | some (a, b) => .loc a b h.width
  | none => .fixed (fld h.desc 64 32 % 2 ^ h.width)

/-- The places of a tile, row by row (R186). -/
def Handle.tile (h : Handle) (t : Nat) (e : Entry) (rows : Nat) (tr : Bool) (width : Nat) : Places :=
  { rows := (List.range rows).map fun r =>
      (laneBits h.width, (List.range (width / laneBits h.width)).map fun c => h.place t (tileIndex e.ops.y tr r c))
    off := 0, w := h.width }

/-- The rows of a handle's word: the tile's, or the block scale that `KSKP` repeats (R203). -/
def Handle.places (h : Handle) (t : Nat) (e : Entry) (car : Carry) : Places :=
  match e.instr with
  | .tld _ _ _ _ _ ts r _ => h.tile t e (tileRows ts) (r == 1) car.width
  | .tst _ _ _ _ _ ts r _ => h.tile t e (tileRows ts) (r == 1) car.width
  | .kskp _ _ _ _ c => { rows := [(8, List.replicate (c.toNat + 1) (.fixed (fld h.desc 56 8)))], off := 0, w := 8 }
  | _ => Places.none_

/-- Whether a word names its data by a handle. -/
def byHandle : Instr → Bool
  | .tld _ _ _ _ _ _ _ _ => true
  | .tst _ _ _ _ _ _ _ _ => true
  | .kskp _ _ _ _ _ => true
  | _ => false

/-- The value by which a word names its handle: of a `KSKP` without the tag in bits 35:32 (R203); its other bits outside 23:0 raise
cause 38 as any word's (DEDUCED from R360, log 24). -/
def handleOp (e : Entry) : Dword := match e.instr with | .kskp _ _ _ _ _ => setFld e.ops.x 32 4 0 | _ => e.ops.x

/-- The bytes of an atomic: 8, or 4 for `fadd` (R193). -/
def atomSize (op : BitVec 4) : Nat := if op = 10 then 4 else 8

/-- The place of an atomic in a plane of width below 8: the bytes at the element's byte address rounded down to their size (R193). -/
def atomPlace (i : Instr) (w : Nat) (x : Elem) : Elem :=
  match i, x with
  | .atom _ _ op _ _ _ _, .loc a b v => if w < 8 then .loc (a / atomSize op * atomSize op) 0 (8 * atomSize op) else .loc a b v
  | _, x => x

/-- The places that a word's addresses name now (R34: its check point fixes them). -/
def State.resolve (s : State) (n k : Nat) (e : Entry) (car : Carry) : Places :=
  let asn := (s.ctx n k).asn
  if byHandle e.instr then
    match s.handleFor (BitVec.ofNat 12 asn) (handleOp e) with
    | none => Places.none_
    | some (t, h) => h.places t e car
  else
    let a := accessOf e.instr
    let va := match scalarOp e.instr e.ops.addr with | some x => x.1 | none => e.ops.addr
    let w := match s.planeShape asn va (fld va 60 4) with | some x => x.1 | none => 8
    { rows := (s.moves asn e car).map fun r => (r.1, r.2.map fun v => atomPlace e.instr w (s.translate asn v a.1 a.2).elem)
      off := match scalarOp e.instr e.ops.addr with | some x => (s.scalarElems asn x.1 x.2).2.2 | none => 0
      w := w }

/-- Scratchpad bytes of a T word that takes a scratchpad address, as fabric physical addresses. -/
def spSpans (n : Nat) (e : Entry) (car : Carry) : List (Nat × Nat) :=
  match e.instr with
  | .sts _ _ _ _ _ z _ f =>
    let w := sizeOf' z
    [(spAddr n ((fld e.ops.addr 0 21 + f.toNat * w) / w * w), w)]
  | .stv _ _ _ _ _ _ => let w := car.width / 8; [(spAddr n (fld e.ops.addr 0 21 / w * w), w)]
  | .arrw _ _ _ _ _ => [(spAddr n (fld e.ops.x 0 21 / 16 * 16), 16)]
  | _ => []

/-- Every byte range that a T word writes or reads, `places` once it is checked. -/
def State.tSpans (s : State) (n k : Nat) (e : Entry) (car : Carry) (places : Option Places) : List (Nat × Nat) :=
  spSpans n e car ++ (places.getD (s.resolve n k e car)).spans

/-! ### Writing elements (R178, R189, R191) -/

/-- The bytes that elements write: each byte's address, the mask of its bits written and their value. -/
def byteParts (l : List (Elem × Nat)) : List (Nat × Nat × Nat) :=
  l.foldl (fun acc x =>
    match x.1 with
    | .loc a b w =>
      let n := (b + w + 7) / 8
      (List.range n).foldl (fun acc i =>
        let m := (2 ^ w - 1) * 2 ^ b / 2 ^ (8 * i) % 256
        let v := x.2 % 2 ^ w * 2 ^ b / 2 ^ (8 * i) % 256
        let old := assocGet (a + i) (0, 0) acc
        assocSet (a + i) (old.1 ||| m, (old.2 &&& (255 - m)) ||| v) acc) acc
    | .fixed _ => acc) []

/-- The whole bytes of the parts, as runs of consecutive addresses. -/
def wholeRuns (l : List (Nat × Nat × Nat)) : List (Nat × List Byte) :=
  runBytes ((l.filter fun x => x.2.1 == 255).map fun x => (x.1, [BitVec.ofNat 8 x.2.2]))

/-- Request codes of a TYPE 4 cell (log 22): an `ATOM` operation 0 to 10, 16 + a `REDV` operation, 32 a merge of bits. -/
def mergeCode : Nat := 32

/-- The payload of a TYPE 4 cell (log 22): code, length of the data, 6 zero bytes, `FPC`, then data and mask or comparand. -/
def reqPayload (code len : Nat) (fpc : Dword) (data other : List Byte) : List Byte :=
  leBytes 8 (code + 256 * len) ++ leBytes 8 fpc.toNat ++ data ++ other

/-- Bits of one byte merged at their home (R189). -/
def State.putBits (s : State) (n k : Nat) (b : By) (a m v : Nat) : State :=
  if nearAt (stackOf n) a then s.homePut a [BitVec.ofNat 8 (((s.homeByte a).toNat &&& (255 - m)) ||| v)]
  else s.ask (stackOf n) b a 4 (.store n k (lineOf a)) (reqPayload mergeCode 1 0 [BitVec.ofNat 8 v] [BitVec.ofNat 8 m])

/-- Elements stored; `thru` writes through to the home (R274, R398). -/
def State.putElems (s : State) (n k : Nat) (b : By) (thru : Bool) (l : List (Elem × Nat)) : State :=
  let parts := byteParts l
  let s1 := (wholeRuns parts).foldl (fun s r =>
    if thru then s.putHome n k b r.1 r.2 else s.putPlain n k b r.1 r.2) s
  (parts.filter fun x => x.2.1 != 255).foldl (fun s x => s.putBits n k b x.1 x.2.1 x.2.2) s1

/-- The elements of a row with the values that lanes give them; `keep` says which lanes are written (R178, R191). -/
def rowValues (r : Nat × List Elem) (x : Row) (keep : Nat → Bool) : List (Elem × Nat) :=
  (List.zip (List.range r.2.length) r.2).filterMap fun y => if keep y.1 then some (y.2, fld x (r.1 * y.1) r.1) else none

/-! ### Atomics (R193, R194) -/

/-- The new value of an atomic (R193); `fadd` rounds under `FPC`.RM and flushes under FZ32. -/
def atomNew (op : Nat) (fpc : Dword) (old s d : Dword) : Dword :=
  match op with
  | 0 => old + s
  | 1 => old &&& s
  | 2 => old ||| s
  | 3 => old ^^^ s
  | 4 => if s.slt old then s else old
  | 5 => if old.slt s then s else old
  | 6 => if s.ult old then s else old
  | 7 => if old.ult s then s else old
  | 8 => s
  | 9 => if old = d then s else old
  | _ => BitVec.ofNat 64 (round .f32 fpc (Val.add (fpcRm fpc) (operand fpc .f32 (fld old 0 32)) (operand fpc .f32 (fld s 0 32))).1).1

/-- One lane of a `REDV` (R194): the sum rounded under `FPC`, or the greater. -/
def redvLane (op : Nat) (fpc : Dword) (m x : Nat) : Nat :=
  match op with
  | 0 => (round .f32 fpc (Val.add (fpcRm fpc) (operand fpc .f32 m) (operand fpc .f32 x)).1).1
  | 1 => (round .bf16 fpc (Val.add (fpcRm fpc) (operand fpc .bf16 m) (operand fpc .bf16 x)).1).1
  | _ => codeMax .f32 0 m x

/-- Lane bits of a `REDV`. -/
def redvBits (op : Nat) : Nat := if op = 1 then 16 else 32

/-- A `REDV` on `bits` bits of memory and operand. -/
def redvAll (op : Nat) (fpc : Dword) (bits m x : Nat) : Nat :=
  let lb := redvBits op
  (List.range (bits / lb)).foldr (fun i acc => redvLane op fpc (nbits m (lb * i) lb) (nbits x (lb * i) lb) + 2 ^ lb * acc) 0


/-- What the load latency of R260 is for a line at the slice of its own stack: its hit, or its fill from HBM4 or the pool; a swap
of its page holds the fill (R268). -/
def State.sliceLat (s : State) (t line : Nat) : Nat :=
  if (s.stack t).l2.contains line then Config.latL2
  else (if s.fillsFromPool line then Config.latCap else Config.latHbm) +
    (match s.swapOver line with | some w => w.ends - s.now | none => 0)

/-- Unloaded latency of a load of a line from L issue to return (R260, log 6); `l1` where the L1 serves it, `came` where its line has
just come from another peer. A fused L1 costs 6 cycles more (R257). -/
def State.lineLat (s : State) (n : Nat) (useL1 l1 came : Bool) (line : Nat) : Nat :=
  let t := stackOf n
  let hop := if useL1 && (s.core n).fused then Config.latHop else 0
  if came then hop
  else if uncached (line * 128) then (if (spOwner (line * 128)).map (·.1) = some n then 6 else Config.latBank)
  else if l1 then Config.latL1 + hop
  else if nearAt t (line * 128) then s.sliceLat t line + hop
  else Config.latL2 + hop

/-- What is left of a latency at the check point, 4 cycles after issue where the translation caches hit (R319). -/
def afterCheck (l : Nat) : Nat := l - 4

/-- A value that returns to a scalar register of context `k` of core `n` after `d` cycles. -/
def State.returnTo (s : State) (n k : Nat) (e : Entry) (d : Nat) (reg : BitVec 5) (v : Dword) (acq : Option (BitVec 3)) : State :=
  let id := (s.core n).nextId
  (s.updCore n fun c =>
    { c with nextId := id + 1
             flights := c.flights ++ [{ id := id, ctx := k, seq := e.seq, slot := 2, due := 0, quiet := false, instr := e.instr, acq := acq,
                                        kind := .gload reg v true }] }).after d (.globalLoadReturn n id)

/-- A request whose answer goes to a scalar register. -/
def State.askTo (s : State) (n k : Nat) (e : Entry) (a : Nat) (reg : BitVec 5) (acq : Option (BitVec 3)) (l : List Byte) : State :=
  let id := (s.core n).nextId
  (s.updCore n fun c =>
    { c with nextId := id + 1
             flights := c.flights ++ [{ id := id, ctx := k, seq := e.seq, slot := 2, due := 0, quiet := false, instr := e.instr, acq := acq,
                                        kind := .gload reg 0 false }] }).ask (stackOf n) (e.by_ n) a 4 (.atomic n k id (lineOf a)) l

/-- An `ATOM` performed at a translated place (R193, R253, R363). -/
def State.performAtom (s : State) (n k : Nat) (e : Entry) (op : Nat) (reg : BitVec 5) (o : BitVec 3) (a : Nat) : State :=
  let w := atomSize (BitVec.ofNat 4 op)
  let d := afterCheck (s.lineLat n false false false (lineOf a))
  if nearAt (stackOf n) a then
    if s.badLine (lineOf a) then (s.returnTo n k e d reg 0 (ordScope o)).raiseAsync n k 65 (poisonVal n a)
    else
      let old := BitVec.ofNat 64 (leNat (s.homeBytes a w))
      (s.homePut a (leBytes w (atomNew op e.fpc old e.ops.x e.ops.y).toNat)).returnTo n k e d reg old (ordScope o)
  else
    s.askTo n k e a reg (ordScope o) (reqPayload op w e.fpc (leBytes w e.ops.x.toNat) (leBytes w e.ops.y.toNat))

/-- Bytes from address `a` cut at the ends of lines, but through no lane of `lane` bytes (R194): a lane that lies in two lines is a
part of its own. -/
def laneCuts (lane : Nat) : Nat → Nat → List Byte → List (Nat × List Byte)
  | 0, _, _ => []
  | fuel + 1, a, l =>
    if l = [] then []
    else
      let m := max lane ((128 - a % 128) / lane * lane)
      (a, l.take m) :: laneCuts lane fuel (a + m) (l.drop m)

/-- A `REDV` performed on the elements of a row (R194): at home, or a request for the lanes of each line of another home; poisoned elements
keep their poison, the others are updated (R363). -/
def State.performRedv (s : State) (n k : Nat) (e : Entry) (op : Nat) (r : Nat × List Elem) (x : Row) : State :=
  let t := stackOf n
  let spans := r.2.filterMap Elem.span?
  if spans.all fun p => nearAt t p.1 then
    let bad (p : Nat × Nat) : Bool := (linesOf p.1 p.2).any s.badLine
    let (m, _) := s.readRow n 0 false r
    let y := redvAll op e.fpc (r.1 * r.2.length) m.toNat x.toNat
    let s1 := s.putElems n k (e.by_ n) true (rowValues r (BitVec.ofNat 2048 y) fun i =>
      match (r.2[i]?).bind Elem.span? with | some p => !bad p | none => true)
    match spans.find? bad with
    | some p => s1.raiseAsync n k 65 (poisonVal n p.1)
    | none => s1
  else
    (wholeRuns (byteParts (rowValues r x fun _ => true))).foldl (fun s p =>
      (laneCuts (redvBits op / 8) p.2.length p.1 p.2).foldl (fun s c =>
        s.ask t (e.by_ n) c.1 4 (.store n k (lineOf c.1)) (reqPayload (16 + op) c.2.length e.fpc c.2 [])) s) s

/-! ### Engine commands, tokens, arrival words -/

/-- The engine class of a command (R121): 1 copy, 2 collective, 3 gather. -/
def cmdClass : Instr → Option (BitVec 3)
  | .cpy _ _ _ _ _ => some 1
  | .coll _ _ _ _ _ _ _ => some 2
  | .gath _ _ _ _ _ => some 3
  | _ => none

/-- The bucket descriptor's fields as a `COLL` hands them over (R200). -/
def collJob (e : Entry) (desc : Row) : CollJob :=
  let (bf, op) := match e.instr with | .coll _ _ _ _ _ y x => (y == 1, x.setWidth 2) | _ => (false, 0)
  { ord := 0, op := op, bf := bf, n := fld e.ops.z 0 32, desc := e.ops.x, ready := e.ops.y, rtgt := BitVec.ofNat 32 (fld desc 192 32),
    flag := BitVec.ofNat 6 (fld desc 146 6), fe := fld desc 145 1 == 1, grp := fld desc 128 12,
    dst := BitVec.ofNat 64 (fld desc 64 64), src := BitVec.ofNat 64 (fld desc 0 64), rank := 0, p := 0, phase := 0, look := false,
    own := [], chunks := [], got := [], writes := [], stat := 0, statIn := 0, landed := false, ended := none }

/-- A command enters its engine's queue (R197). -/
def State.handCommand (s : State) (n k : Nat) (h : Held) (cls : BitVec 3) : State :=
  let e := h.entry
  let x := s.ctx n k
  let c := n % 192
  let tag := x.ctags[cls.toNat % 4]'(Nat.mod_lt _ (by decide)) + 1
  let cmd : Cmd :=
    { id := s.tags, cls := cls, stack := stackOf n, eng := if cls = 1 then c % 16 else if cls = 3 then c / 8 else 0
      core := n, ctx := k, asn := BitVec.ofNat 12 x.asn, ctag := tag % 256
      weight := arbWeight e.arbw (if cls = 2 then 2 else 1)
      dst := e.ops.x, src := e.ops.y, cnt := e.ops.z
      coll := if cls = 2 then some (collJob e h.desc) else none
      started := false, since := s.now, moved := 0, entry := 0, off := 0, finished := false
      buf := [], old := [], stopped := none, refused := none, walked := [] }
  ({ s with tags := s.tags + 1, cmds := s.cmds ++ [cmd] }).updCtx n k fun x =>
    { x with ctags := x.ctags.set (cls.toNat % 4) (tag % 256) (Nat.mod_lt _ (by decide)) }

/-- A network of a domain. -/
def State.net (s : State) (d : NetRef) : Option Net := s.nets.find? fun x => x.ref == d

/-- Width of a network's code (R296). -/
def netWidth (wc : BitVec 2) : Nat := 8 * 2 ^ wc.toNat

/-- The phase and step of layer `l` (R294), layers from 1. -/
def layerOf : Nat → Nat → Nat → Nat × Nat
  | 0, k, s => (k, s)
  | n + 1, k, s => if s < k then layerOf n k (s + 1) else layerOf n (k + 1) 1

/-- The wire paired with wire `a` in layer `l` (R294). -/
def pairWire (l a : Nat) : Nat :=
  let (k, s) := layerOf (l - 1) 1 1
  if s = 1 then a ^^^ (2 ^ k - 1) else a ^^^ 2 ^ (k - s)

/-- The rank of the balancer of wire `a` in layer `l`: the lower wires below its own (R294). -/
def balancerRank (w l a : Nat) : Nat :=
  ((List.range w).filter fun b => decide (b < pairWire l b) && decide (b < min a (pairWire l a))).length

/-- The host of the balancer of wire `a` in layer `l`. -/
def balancerHost (w l a : Nat) : Nat := (balancerRank w l a + w / 2 * (l - 1)) % 8

/-- The peer of a network's host `h` (R293): stack station h, or the one that bits 11:0 of its list entry name (R313). -/
def Net.hostPeer (d : Net) (h : Nat) : Nat :=
  if d.span then (d.hosts.getD h 0).toNat % 2 ^ 12 else peerOf h

/-- A token cell (R282 TYPE 12); the fabric domain stands in bits 93:77 of XT, which R282 leaves free (log 22). -/
def tokenCell (dst src : Nat) (d : NetRef) (lay wire tag : Nat) : RingCell :=
  { ringCell dst src 197 12 0 tag [] with
    xt := BitVec.ofNat 96 (d.net % 16 + 16 * (lay % 16) + 256 * (wire % 32) +
      2 ^ 77 * (match d.set with | none => 0 | some f => f % 2 ^ 16 + 1)) }

/-- A token's cell on its way from stack `t`: to its own station at once, else in the load and store class (R289, R295). -/
def State.sendToken (s : State) (o : Option Nat) (t w dst : Nat) (c : RingCell) (i : Instr) : State :=
  if dst = peerOf t then s.after Config.latToken i else s.sendFor o t 0 w dst (.cell c)

/-- The broken-wait status word of a failed `TAKE` (R368, R379): KIND 5, the network, and CORE 0xFF, since no single context is missing. -/
def takeFailed (net : Nat) : Dword := BitVec.ofNat 64 (5 * 2 ^ 60 + net % 16 * 2 ^ 44 + 0xFF * 2 ^ 24)

/-- A `TAKE` performed (R295): its token goes to the host of its entry wire. A failed network answers at once (R379). -/
def State.performTake (s : State) (n k : Nat) (e : Entry) (reg : BitVec 5) (net : Nat) : State :=
  let d := match (s.ctx n k).bnd with | some b => b.domain | none => none
  match s.net { set := d, net := net } with
  | none => s.returnTo n k e Config.latSig reg 0 none
  | some x =>
    if x.failed then
      (s.returnTo n k e Config.latSig reg (BitVec.allOnes 64) none).raiseAsync n k 66 (takeFailed net)
    else
      let peer := peerOf (stackOf n)
      let w := netWidth x.wc
      let wire := (peer ^^^ (4 * (n % 192) + k) ^^^ x.salt.toNat) % w
      let host := x.hostPeer (balancerHost w 1 wire)
      let id := (s.core n).nextId
      let tag := s.tags % 2 ^ 16
      let cell := { tokenCell host peer { set := d, net := net } 1 wire tag with addr := BitVec.ofNat 45 (n % 192) }
      let req : Req := { tag := BitVec.ofNat 16 tag, cell := cell, kind := .take n k id, again := false }
      let s1 := s.updCore n fun c =>
        { c with nextId := id + 1
                 flights := c.flights ++ [{ id := id, ctx := k, seq := e.seq, slot := 2, due := 0, quiet := false, instr := e.instr,
                                            acq := none, kind := .gload reg 0 false }] }
      ({ s1 with tags := s1.tags + 1, reqs := s1.reqs ++ [req] }).sendToken (some n) (stackOf n)
        (arbWeight e.arbw 0) host cell (.takeToken ⟨cell, true⟩)

/-- An arrival word armed (R92, R201): TGT and FLAG written, ARM set, CNT cleared, GEN kept. -/
def State.armWord (s : State) (n a tgt flag : Nat) : State :=
  let p := spAddr n a
  let gen := s.readNat (p + 8) 4
  (s.homePut p (leBytes 16 (tgt + gen * 2 ^ 64 + flag * 2 ^ 96 + 2 ^ 103))).updCore n fun c =>
    { c with armed := if c.armed.contains a then c.armed else c.armed ++ [a] }

/-! ### Performing held words in order (R195, R196, R274) -/

/-- The scope of a word that drains first (R195, R196): release stores, `SIGST` with release, `ATOM` with ORD, the fences. -/
def drainScope : Instr → Option (BitVec 3)
  | .sts _ _ _ _ _ _ o _ => ordScope o
  | .stg _ _ _ _ _ _ o _ => ordScope o
  | .stv _ _ _ _ _ o => ordScope o
  | .sgv _ _ _ _ _ _ _ o => ordScope o
  | .tst _ _ _ _ _ _ _ o => ordScope o
  | .stx _ _ _ _ _ _ o => ordScope o
  | .atom _ _ _ _ _ _ o => ordScope o
  | .redv _ _ _ _ _ _ o => ordScope o
  | .sigst _ _ _ _ _ o _ => ordScope o
  | .fence _ _ s => some s
  | .fencex _ _ s _ _ => some s
  | .drain _ _ s => some s
  | _ => none

/-- Whether a flight is an access of a bundle before `b` that has not performed: an L or K word not returned. -/
def Flight.unperformed (f : Flight) (k b : Nat) : Bool :=
  f.ctx == k && decide (f.seq < b) &&
  (match f.kind with
   | .check _ _ _ _ _ => true | .ret _ _ _ => true | .gload _ _ _ => true | .land _ _ a _ => !a | .scale _ _ a _ => !a
   | .sreg _ _ => f.slot == 1 | .push _ _ _ => f.slot == 1 | _ => false)

/-- Whether every access of context `k`'s bundles before `b` has performed (R196, R272), the words of `wq` apart. -/
def State.settled (s : State) (n k b : Nat) : Bool :=
  let c := s.core n
  !(c.queue.any fun e => e.ctx == k && decide (e.seq < b) && (e.slot == .l || e.slot == .t || e.slot == .k)) &&
  !(c.flights.any fun f => f.unperformed k b) &&
  !(c.held.any fun h => h.entry.ctx == k && decide (h.entry.seq < b)) && !s.writesOut n k

/-- Whether data or writes of a command are on their way and not accepted (R197, R275). -/
def State.cellsOut (s : State) (c : Cmd) : Bool := s.reqs.any fun r => match r.kind with | .data id _ => id == c.id | .engine id => id == c.id | _ => false

/-- Whether the commands of a class that a context issued have performed (R196 `FENCEX`). -/
def State.commandsDone (s : State) (n k : Nat) (cls : BitVec 3) : Bool :=
  !(s.cmds.any fun c => c.core == n && c.ctx == k && c.cls == cls && !(c.finished && !s.cellsOut c))

/-- Whether the collective engine of a stack watches a word now (R190). -/
def State.watches (s : State) (t a : Nat) : Bool :=
  match s.cmds.find? fun c => c.stack == t && c.cls == 2 && !c.finished with
  | none => false
  | some c =>
    match c.coll with
    | none => false
    | some j =>
      if 1 < j.phase then false
      else match s.translate c.asn.toNat j.ready true false with | .loc b _ _ => b == a | _ => false

/-- The destination of a message for every stack of every other package: no peer has this number. -/
def everyPeer : Nat := 4096

/-- The stacks for which a notification is: one, or with 8 all. -/
def notified (stack : Nat) : List Nat := if stack < 8 then [stack] else List.range 8

/-- A `SIGST`'s notifications (R190): to the engines of this package that watch the word, and one for the engines of all others
(DESIGN CHOICE, log 22: how engines in other packages are told is not given). -/
def State.notify (s : State) (n : Nat) (b : By) (a : Nat) : State :=
  ((List.range 8).foldl (fun s t => if s.watches t a then s.after Config.latSig (.sigstNotify t a) else s) s).sendFor (b.who.map (·.1))
    (stackOf n) 0 (arbWeight b.arbw 0) everyPeer (.event (.sigstNotify 8 a))

/-- Whether a word writes through to the home and passes the caches of its stack (R190, R255, R274, R398): a release at package
scope or wider, and `SIGST`, `TST`, `ATOM` and `REDV` always. -/
def thruHome (i : Instr) : Bool :=
  (match drainScope i with | some sc => decide (4 ≤ sc.toNat) | none => false) ||
  (match i with
   | .sigst _ _ _ _ _ _ _ => true | .tst _ _ _ _ _ _ _ _ => true | .atom _ _ _ _ _ _ _ => true | .redv _ _ _ _ _ _ _ => true
   | _ => false)

/-- The place at which the bytes of a scalar access start (R181). -/
def Places.start (p : Places) : Option Nat :=
  match p.rows with | (_, .loc a _ _ :: _) :: _ => some (a + p.off / 8) | _ => none

/-- What a word stores to its places, element by element; a scalar access of whole bytes apart. -/
def Held.values (h : Held) (p : Places) : List (List (Elem × Nat)) :=
  let row (j : Nat) := h.rows.getD j 0
  let each (keep : Nat → Bool) : List (List (Elem × Nat)) := (List.zip (List.range p.rows.length) p.rows).map fun r => rowValues r.2 (row r.1) keep
  match h.entry.instr with
  | .stg _ _ _ _ _ _ _ _ => p.rows.map fun r => r.2.map fun x => (x, h.entry.ops.x.toNat)
  | .sigst _ _ _ _ _ _ _ => p.rows.map fun r => r.2.map fun x => (x, h.entry.ops.x.toNat)
  | .sgv _ _ _ _ _ me _ _ =>
    p.rows.map fun r => rowValues r (row 0) fun i => me == 0 || h.car.mask.getLsbD (if p.w < 8 then i * r.1 / 8 else i)
  | .pst _ _ _ _ _ _ => each fun _ => true
  | .stx _ _ _ _ _ _ _ => each fun _ => true
  | .tst _ _ _ _ _ _ _ _ => each fun _ => true
  | _ => []

/-- The store of a word at its place, once everything before it has performed. DESIGN CHOICE (log 62): a `PST` row wider than
its queue stores zeros above the queue's width. -/
def State.performStore (s : State) (n k : Nat) (h : Held) : State :=
  let e := h.entry
  let p := h.places.getD Places.none_
  let b := e.by_ n
  let thru := thruHome e.instr
  let scalar (z : Nat) : State :=
    if p.w < 8 then (h.values p).foldl (fun s l => s.putElems n k b true l) s
    else match p.start with
      | some a => let l := leBytes (2 ^ z) e.ops.x.toNat
                  if thru then s.putHome n k b a l else s.putPlain n k b a l
      | none => s
  match e.instr with
  | .sts _ _ _ _ _ z _ _ => (spSpans n e h.car).foldl (fun s r => s.homePut r.1 (leBytes (sizeOf' z) e.ops.x.toNat)) s
  | .stv _ _ _ _ _ _ => (spSpans n e h.car).foldl (fun s r => s.homePut r.1 (leBytes r.2 (h.rows.getD 0 0).toNat)) s
  | .stg _ _ _ _ _ z _ _ => scalar z.toNat
  | .sigst _ _ _ _ _ _ _ => scalar 3
  | .atom _ _ op d _ _ o => (match p.start with | some a => s.performAtom n k e op.toNat d o a | none => s)
  | .redv _ _ _ _ _ r _ => p.rows.foldl (fun s m => s.performRedv n k e r.toNat m (h.rows.getD 0 0)) s
  | .take _ _ d net => s.performTake n k e d net.toNat
  | .arrw _ _ _ _ f => s.armWord n (fld e.ops.x 0 21 / 16 * 16) (fld e.ops.y 0 32) f.toNat
  | .cpy _ _ _ _ _ => s.handCommand n k h 1
  | .coll _ _ _ _ _ _ _ => s.handCommand n k h 2
  | .gath _ _ _ _ _ => s.handCommand n k h 3
  | _ => (h.values p).foldl (fun s l => s.putElems n k b thru l) s

/-- Every byte range of a held word. -/
def State.heldSpans (s : State) (n k : Nat) (h : Held) : List (Nat × Nat) := s.tSpans n k h.entry h.car h.places

/-- The byte ranges of a held word that are written at their home, past the copies of its stack (R189, R256, R398): all of a word
that passes the caches, else parts of bytes and of words that the L1 does not hold. -/
def State.homeSpans (s : State) (n : Nat) (h : Held) : List (Nat × Nat) :=
  let p := h.places.getD Places.none_
  if thruHome h.entry.instr || decide (p.w < 8 ∧ (scalarOp h.entry.instr 0).isSome = true) then p.spans
  else
    match scalarOp h.entry.instr 0 with
    | some (_, z) => (match p.start with | some a => s.homeward n (a, 2 ^ z) | none => [])
    | none =>
      (h.values p).flatMap fun l =>
        let parts := byteParts l
        (wholeRuns parts).flatMap (fun r => s.homeward n (r.1, r.2.length)) ++
          (parts.filter fun x => x.2.1 != 255).map fun x => (x.1 / 4 * 4, 4)

/-- What a store or atomic does at the slices of its own stack's lines that it writes there (R256, R267). -/
def State.storeTouch (s : State) (n : Nat) (b : By) (l : List (Nat × Nat)) : State :=
  (linesIn l).foldl (fun s x => if nearAt (stackOf n) (x * 128) then s.l2Touch (stackOf n) b x true else s) s

/-- Whether two lists of byte ranges meet. -/
def spansMeet (l m : List (Nat × Nat)) : Bool :=
  l.any fun a => m.any fun b => decide (a.1 < b.1 + b.2) && decide (b.1 < a.1 + a.2)

/-- Whether a load of context `k`'s bundles up to `b` that has passed its checks has still to read bytes of `sp` (R195, R279). -/
def Core.unreadMeets (c : Core) (k b : Nat) (sp : List (Nat × Nat)) : Bool :=
  c.flights.any fun f => f.ctx == k && decide (f.seq ≤ b) && f.slot != 2 &&
    (match f.kind with | .check _ _ _ st p => st != 0 && st != 3 && spansMeet sp p.spans | _ => false)

/-- Whether an access past the copies of the stack to byte ranges, or a store to their home, must wait (R286, R398). -/
def State.spansBusy (s : State) (n k : Nat) (l : List (Nat × Nat)) : Bool := (linesIn l).any fun x => s.lineBusy n k x

/-- Whether a load of byte ranges must wait, past the copies or from them (R286, R398). -/
def State.readsBusy (s : State) (n k : Nat) (past : Bool) (l : List (Nat × Nat)) : Bool :=
  (linesIn l).any fun x => if past || uncached (x * 128) then s.lineBusy n k x else s.readBusy n k x

/-- One step of the word at the head of a context's queue of words to perform: none while it must wait. The write-backs of a
release are acknowledged first (R274), then those of the word's own bytes that go past the copies (R398), and no load of an
earlier bundle or its own has still to read what it writes (R195). -/
def State.performHead (s : State) (n k : Nat) (h : Held) : Option State :=
  let e := h.entry
  let t := stackOf n
  let b := e.by_ n
  let pop (s : State) : State := s.updCtx n k fun x => { x with wq := x.wq.drop 1 }
  let at_ (s : State) (st : Nat) : State := s.updCtx n k fun x =>
    { x with wq := match x.wq with | [] => [] | y :: r => { y with stage := st } :: r }
  if h.rows.length < h.need then none
  else
    match h.stage with
    | 0 =>
      (match drainScope e.instr with
       | none => some (at_ s 1)
       | some sc =>
         if s.settled n k e.seq then
           let s1 := match e.instr with
             | .fencex _ _ _ x y => if x = 0 ∨ y = 0 then s.writeBackAll t b else s
             | _ => s
           some (at_ (s1.release t b sc.toNat) 1)
         else none)
    | 1 =>
      if (drainScope e.instr).isSome && s.writesOut n k then none
      else
        (match e.instr with
         | .drain _ _ _ => some (pop s)
         | .fence _ _ sc => some (pop (s.acquire t sc.toNat))
         | .fencex _ _ sc x y =>
           if s.commandsDone n k x && s.commandsDone n k y then some (pop (s.acquire t sc.toNat)) else none
         | _ =>
           let sp := s.heldSpans n k h
           if (s.core n).unreadMeets k e.seq sp || s.spansBusy n k sp then none
           else some (at_ ((s.homeSpans n h).foldl (fun s r => s.recall t b r.1 r.2) s) 2))
    | 2 =>
      let sp := s.homeSpans n h
      if s.spansBusy n k sp || (linesIn sp).any s.slotHeld then none
      else
        let s1 := sp.foldl (fun s r => s.recall t b r.1 r.2) s
        some (if s1.spansBusy n k sp then s1 else at_ ((s1.performStore n k h).storeTouch n b sp) 3)
    | _ =>
      match e.instr with
      | .sigst _ _ _ _ _ _ _ =>
        let l := s.heldSpans n k h
        if s.spansBusy n k l then none else some (pop (l.foldl (fun s r => s.notify n b r.1) s))
      | _ => some (pop s)

/-- Held words of context `k` of core `n` perform, head first, as far as they can. -/
def State.pump (s : State) (n k : Nat) : Nat → State
  | 0 => s
  | fuel + 1 =>
    match (s.ctx n k).wq with
    | [] => s
    | h :: _ => match s.performHead n k h with | none => s | some s1 => s1.pump n k fuel

end Sys2Proof.Machine
end

