-- ==== Sys2Proof/Machine/Scale.lean ====
section
/-!
DEFINITION. The K words (R203): each definition is the word's issue; its entry is pushed at issue + 24 exactly (R86).
-/

namespace Sys2Proof.Machine

/-- An entry of `n` values of 32 bits, the rest zero (R203). -/
def kEntry (l : List Nat) (tag : BitVec 4) : KEntry :=
  { data := BitVec.ofNat 2048 (l.foldr (fun v acc => v % 2 ^ 32 + 2 ^ 32 * acc) 0), count := l.length, tag := tag, wait := none }

/-- A K word that reads memory: its entry is due at issue + 24 and filled once its checks have passed. -/
def State.kRead (s : State) (q : BitVec 3) (n : Nat) (tag : BitVec 4) : State :=
  let id := s.nextFlight
  (s.later 24 (.scale q { kEntry [] tag with count := n } false false)).startCheck (carryW 0) [id] none

/-- `NOP.k` (R68). -/
def execNopK (_h : BitVec 1) (_p : BitVec 3) (s : State) : Out1 := .next s

/-- `KLD`: with a stream the tag of R116, with a register 0. -/
def execKld (_h : BitVec 1) (_p q : BitVec 3) (m : BitVec 1) (_b : BitVec 5) (n : BitVec 6) (s : State) : Out1 :=
  .next (s.kRead q (n.toNat + 1) (if m = 1 then s.act.entry.ops.tag else 0))

/-- `KTAB`. -/
def execKtab (_h : BitVec 1) (_p q : BitVec 3) (_m : BitVec 1) (_b : BitVec 5) (s : State) : Out1 := .next (s.kRead q 64 0)

/-- `KSET`. -/
def execKset (_h : BitVec 1) (_p q : BitVec 3) (_b : BitVec 5) (n : BitVec 6) (s : State) : Out1 :=
  let a := s.act.entry.ops.x
  .next (s.later 24 (.scale q (kEntry (List.replicate (n.toNat + 1) (fld a 0 32)) (BitVec.ofNat 4 (fld a 32 4))) true false))

/-- `KOUT`: N above 15 raises cause 17 (R352). -/
def execKout (_h : BitVec 1) (_p q : BitVec 3) (_m : BitVec 1) (_b : BitVec 5) (n : BitVec 6) (s : State) : Out1 :=
  .next (if 15 < n.toNat then s.raiseWord 17 else s.kRead q (n.toNat + 1) 0)

/-- `KSKP`: its handle is checked 4 cycles after issue (R319). -/
def execKskp (_h : BitVec 1) (_p q : BitVec 3) (_b : BitVec 5) (n : BitVec 6) (s : State) : Out1 :=
  let id := s.nextFlight
  let tag := BitVec.ofNat 4 (fld s.act.entry.ops.x 32 4)
  .next ((s.later 24 (.scale q { kEntry [] tag with count := n.toNat + 1 } false false)).startHandle (carryW 0) [id] none)

/-- `KRNG`. -/
def execKrng (_h : BitVec 1) (_p : BitVec 3) (_b : BitVec 5) (s : State) : Out1 :=
  .next (s.later 24 (.krng s.act.entry.ops.x))

end Sys2Proof.Machine
end

