-- ==== Sys2Proof/Machine/System.lean ====
section
/-!
DEFINITION. The S words that configure: control and status registers (R157 to R167), queues and streams (R168, R169),
mailboxes (R170), tenant planes (R171), channels (R172 to R174, R373), and the empty bundle's repeats (R67, R71).
-/

namespace Sys2Proof.Machine

/-! ### Control and status registers (R126, R157 to R167) -/

/-- `CTXID` (R161). -/
def ctxId (b : Bind) (k : Nat) : Dword :=
  BitVec.ofNat 64 (b.asn.toNat * 2 ^ 48 + b.inst % 2 ^ 13 * 2 ^ 16 + b.iix % 4 * 4 + k % 4)

/-- `COREID` (R162) of a package core number. -/
def coreId (n : Nat) : Dword :=
  BitVec.ofNat 64 (n % 2 ^ 11 * 2 ^ 16 + stackOf n % 8 * 2 ^ 8 + n % 192 / 8 * 8 + n % 8)

/-- The `FLG` bits a context may read and write (R158). -/
def Ctx.flagMask (c : Ctx) : Dword := match c.bnd with | some b => b.flags | none => 0

/-- The value of a CSR as the running word's context reads it. -/
def State.csrRead (s : State) (n : Nat) : Dword :=
  let c := s.myCore
  let a := s.arch
  match n with
  | 0x001 => a.csr.fpc
  | 0x002 => BitVec.ofNat 64 c.cyc
  | 0x003 => c.flg &&& s.me.flagMask
  | 0x004 => (match s.me.bnd with | some b => ctxId b s.act.ctx | none => BitVec.ofNat 64 (s.act.ctx % 4))
  | 0x005 => coreId s.act.core
  | 0x006 => BitVec.ofNat 64 (peerOf (stackOf s.act.core))
  | 0x030 => a.csr.rngpos
  | 0x031 => a.csr.vstat
  | 0x032 => c.mstat
  | 0x033 => c.ply.setWidth 64
  | 0x040 => a.csr.arbw
  | 0x041 => a.csr.syncmode
  | 0x050 => a.csr.trapvec
  | 0x051 => a.csr.trappc
  | 0x052 => a.csr.trapcause
  | 0x053 => a.csr.trapval
  | n =>
    if 0x011 ≤ n ∧ n ≤ 0x015 then a.dml (n - 0x010)
    else if 0x020 ≤ n ∧ n ≤ 0x025 then (a.lidx.toList.getD (n - 0x020) 0).setWidth 64
    else if 0x060 ≤ n ∧ n ≤ 0x067 then c.evsel.toList.getD (n - 0x060) 0
    else if 0x070 ≤ n ∧ n ≤ 0x077 then c.evcnt.toList.getD (n - 0x070) 0
    else 0

/-- The RW fields of a CSR (R99, R100, R160, R164 to R167); of `FLG` the allocation (R158). -/
def csrMask (n : Nat) (flags : Dword) : Dword :=
  match n with
  | 0x001 => 0x1F
  | 0x003 => flags
  | 0x030 => BitVec.allOnes 64
  | 0x031 => 0x3F
  | 0x040 => 0xFFFFFF
  | 0x041 => 3
  | 0x050 => ~~~ 3
  | 0x051 => BitVec.allOnes 64
  | 0x052 => 0x7FF
  | 0x053 => BitVec.allOnes 64
  | n =>
    if 0x060 ≤ n ∧ n ≤ 0x067 then 0x1FFF
    else if 0x070 ≤ n ∧ n ≤ 0x077 then BitVec.allOnes 64
    else 0

/-- Whether a CSR is of core scope (R159). -/
def csrOfCore (n : Nat) : Bool :=
  n == 0x002 || n == 0x003 || n == 0x005 || n == 0x006 || n == 0x032 || n == 0x033 ||
  (decide (0x060 ≤ n) && decide (n ≤ 0x067)) || (decide (0x070 ≤ n) && decide (n ≤ 0x077))

/-- A context-scope CSR with a value already masked; `RNGPOS` discards the filled rows of `rq` (R83, R160) and a write of
`TRAPPC` clears the record of a wait bundle's words (R75). -/
def Arch.csrPut (a : Arch) (n : Nat) (v : Dword) : Arch :=
  match n with
  | 0x001 => { a with csr := { a.csr with fpc := v } }
  | 0x030 => { a with csr := { a.csr with rngpos := v }, rqn := 0 }
  | 0x031 => { a with csr := { a.csr with vstat := v } }
  | 0x040 => { a with csr := { a.csr with arbw := v } }
  | 0x041 => { a with csr := { a.csr with syncmode := v } }
  | 0x050 => { a with csr := { a.csr with trapvec := v } }
  | 0x051 => { a with csr := { a.csr with trappc := v }, entered := 0, shadow := { a.shadow with entered := 0 } }
  | 0x052 => { a with csr := { a.csr with trapcause := v } }
  | 0x053 => { a with csr := { a.csr with trapval := v } }
  | _ => a

/-- A core-scope CSR with a value already masked; a change of `FLG` presents the wait bundles again (R56, R75). -/
def Core.csrPut (c : Core) (n : Nat) (v : Dword) : Core :=
  if n = 0x003 then
    (if c.flg = v then c else { c with flg := v, ctxs := vmap (fun x => x.wakeFrom .flags) c.ctxs })
  else if h : 0x060 ≤ n ∧ n ≤ 0x067 then { c with evsel := c.evsel.set (n - 0x060) v (by omega) }
  else if h : 0x070 ≤ n ∧ n ≤ 0x077 then { c with evcnt := c.evcnt.set (n - 0x070) v (by omega) }
  else c

/-- `csr_write` (R157): the RW fields take the value, the rest stand. -/
def State.csrWrite (s : State) (n : Nat) (v : Dword) : State :=
  let m := csrMask n s.me.flagMask
  if n = 0x003 then s.updMyCore fun c => c.csrPut n ((c.flg &&& ~~~m) ||| (v &&& m))
  else
    let w := (s.csrRead n &&& ~~~m) ||| (v &&& m)
    if csrOfCore n then s.updMyCore fun c => c.csrPut n w else s.onArch fun a => a.csrPut n w

/-- `CSRR`. -/
def execCsrr (_h : BitVec 1) (p : BitVec 3) (d : BitVec 5) (n : BitVec 12) (s : State) : Out1 :=
  sSet p d (fun s => s.csrRead n.toNat) s
/-- `CSRW`. -/
def execCsrw (_h : BitVec 1) (p : BitVec 3) (a : BitVec 5) (n : BitVec 12) (s : State) : Out1 :=
  sWord p (fun s => s.csrWrite n.toNat (s.getS a)) s
/-- `CSRS`. -/
def execCsrs (_h : BitVec 1) (p : BitVec 3) (a : BitVec 5) (n : BitVec 12) (s : State) : Out1 :=
  sWord p (fun s => s.csrWrite n.toNat (s.csrRead n.toNat ||| s.getS a)) s
/-- `CSRC`. -/
def execCsrc (_h : BitVec 1) (p : BitVec 3) (a : BitVec 5) (n : BitVec 12) (s : State) : Out1 :=
  sWord p (fun s => s.csrWrite n.toNat (s.csrRead n.toNat &&& ~~~ (s.getS a))) s

/-! ### Queues (R79, R84, R168, R341, R345) -/

/-- The queues a word names (R84). -/
def queuesOf (i : Instr) : List (BitVec 5) :=
  let f := info i
  f.vsrc.map (·.2) ++ f.vdst ++ f.idxq.toList ++ f.wq.toList

/-- The queues an `MMA`, `MMAC` or `MLW` names as a source. -/
def mSources (i : Instr) : List (BitVec 5) :=
  match i with
  | .mlw _ _ q _ => [q]
  | .mma _ _ q _ => [q]
  | .mmac _ _ q c _ => [q, c]
  | _ => []

/-- `BUSY` (R79): an `MMA`, `MMAC` or `MLW` of context `k` that names the queue is in flight. -/
def Core.busy (c : Core) (k : Nat) (q : BitVec 5) : Bool :=
  c.queue.any (fun e => e.ctx == k && (mSources e.instr).contains q) ||
  c.rows.any (fun r => r.ctx == k && (mSources r.instr).contains q) ||
  (c.load.toList ++ c.loadsBack).any fun l => l.entry.ctx == k && (mSources l.entry.instr).contains q

/-- A core without the words that bundle `seq` of context `k` has put into its queues: an S word runs before them (R138). -/
def Core.before (c : Core) (k seq : Nat) : Core := { c with queue := c.queue.filter fun e => !(e.ctx == k && e.seq == seq) }

/-- The state word of `QSTAT` (R79, R345). -/
def Core.qstat (c : Core) (k : Nat) (q : BitVec 5) : Dword :=
  let a := (c.ctx k).arch
  if q = 30 ∨ q = 31 then 0
  else if q = 29 then BitVec.ofNat 64 (2 * 2 ^ 24 + a.rqn * 2 ^ 8 + 8)
  else if q = 28 then BitVec.ofNat 64 (2 * 2 ^ 24 + (a.queue 28).rows.length * 2 ^ 8 + 4)
  else
    let v := a.queue q
    BitVec.ofNat 64 ((if 0 < c.reserved k q then 2 ^ 27 else 0) + (if c.busy k q then 2 ^ 26 else 0) +
      v.wd.toNat * 2 ^ 24 + v.cur % 256 * 2 ^ 16 + v.rows.length % 256 * 2 ^ 8 + v.depth % 256)

/-- Rows of 2048 bits that a queue takes from the pool (R79). -/
def storageOf (depth : Nat) (wd : BitVec 2) : Nat := (depth * rowWidth wd + 2047) / 2048

/-- The storage of `v0` to `v27` with queue `q` of another shape. -/
def Arch.storage (a : Arch) (q : BitVec 5) (depth : Nat) (wd : BitVec 2) : Nat :=
  (List.range 28).foldl (fun t i =>
    t + (if i = q.toNat then storageOf depth wd
         else storageOf (a.queue (BitVec.ofNat 5 i)).depth (a.queue (BitVec.ofNat 5 i)).wd)) 0

/-- The rows of a context's pool (R48, R79): 1024 for each 256 KiB. -/
def Ctx.poolRows (c : Ctx) : Nat := match c.bnd with | some b => b.pool * 1024 | none => 0

/-- `QCFG`: depth and width set, the queue emptied; cause 17 for `fl`, `rq` and `zq`, 21 beyond the pool. It names `v0` to `v27`
alone, so none clears a scale ring (DEDUCED, log 61). -/
def execQcfg (_h : BitVec 1) (p : BitVec 3) (q : BitVec 5) (d : BitVec 8) (w : BitVec 2) (s : State) : Out1 :=
  sWord p (fun s =>
    if !isV q then s.raiseWord 17
    else if s.me.poolRows < s.arch.storage q d.toNat w then s.raiseWord 21
    else s.onArch fun a => a.setQueue q { depth := d.toNat, wd := w, cur := 0, rows := [] }) s

/-- `QCFG.keep`: the rows stay; a depth below the count or another width raises cause 17. -/
def execQcfgKeep (_h : BitVec 1) (p : BitVec 3) (q : BitVec 5) (d : BitVec 8) (w : BitVec 2) (s : State) : Out1 :=
  sWord p (fun s =>
    if !isV q || decide (d.toNat < (s.arch.queue q).rows.length) || (s.arch.queue q).wd != w then s.raiseWord 17
    else if s.me.poolRows < s.arch.storage q d.toNat w then s.raiseWord 21
    else s.onArch fun a => a.setQueue q { a.queue q with depth := d.toNat }) s

/-- `QREL`: depth 0, the storage returned. -/
def execQrel (_h : BitVec 1) (p : BitVec 3) (q : BitVec 5) (s : State) : Out1 :=
  sWord p (fun s =>
    if !isV q then s.raiseWord 17
    else s.onArch fun a => a.setQueue q { a.queue q with depth := 0, cur := 0, rows := [] }) s

/-- `QSTAT`. -/
def execQstat (_h : BitVec 1) (p : BitVec 3) (d q : BitVec 5) (s : State) : Out1 :=
  sSet p d (fun s => (s.myCore.before s.act.ctx s.act.entry.seq).qstat s.act.ctx q) s

/-! ### Address streams (R169) -/

/-- A dimension whose use index is cleared. -/
def Dim.clearUse (d : Dim) : Dim := if d.bind = 6 then { d with idx := 0 } else d

/-- `ASET`: base set, use counter cleared. -/
def execAset (_h : BitVec 1) (p : BitVec 3) (n : BitVec 4) (a : BitVec 5) (s : State) : Out1 :=
  sWord p (fun s =>
    let v := s.getS a
    s.onArch fun r =>
      { r with str := r.str.set n.toNat { base := v, dims := vmap Dim.clearUse (r.str[n.toNat]'n.isLt).dims } n.isLt }) s

/-- `ADIM`: a bound of 0 or above 2^32 raises cause 17 (R343). -/
def execAdim (_h : BitVec 1) (p : BitVec 3) (n : BitVec 4) (d : BitVec 3) (t b : BitVec 5) (k : BitVec 3) (s : State) :
    Out1 :=
  sWord p (fun s =>
    let bound := fld (s.getS b) 0 33
    let x : Dim := { stride := s.getS t, bound := BitVec.ofNat 33 bound, bind := k, idx := 0 }
    if bound = 0 ∨ 2 ^ 32 < bound then s.raiseWord 17
    else s.onArch fun r =>
      let st := r.str[n.toNat]'n.isLt
      if h : d.toNat < 6 then { r with str := r.str.set n.toNat { st with dims := st.dims.set d.toNat x h } n.isLt } else r) s

/-- What `AGET` reads: the index of a dimension, the next address or the base. -/
def Arch.aget (a : Arch) (n : BitVec 4) (sel : BitVec 3) : Dword :=
  if sel = 7 then (a.str[n.toNat]'n.isLt).base
  else if sel = 6 then a.streamAddr n
  else BitVec.ofNat 64 (a.dimIdx ((a.str[n.toNat]'n.isLt).dims.toList.getD sel.toNat Dim.reset))

/-- `AGET`. -/
def execAget (_h : BitVec 1) (p : BitVec 3) (d : BitVec 5) (n : BitVec 4) (sel : BitVec 3) (s : State) : Out1 :=
  sSet p d (fun s => s.arch.aget n sel) s

/-! ### Mailboxes (R170) -/

/-- `MBXR`. -/
def execMbxr (_h : BitVec 1) (p : BitVec 3) (d : BitVec 5) (m : BitVec 3) (s : State) : Out1 :=
  sSet p d (fun s => s.arch.mb[m.toNat]'m.isLt) s

/-- `MBXW`. -/
def execMbxw (_h : BitVec 1) (p : BitVec 3) (a : BitVec 5) (m : BitVec 3) (s : State) : Out1 :=
  sWord p (fun s => let v := s.getS a; s.onArch fun r => { r with mb := r.mb.set m.toNat v m.isLt }) s

/-! ### Tenant planes (R171, R343, R359) -/

/-- A request of the running word to the paging agent: the context is blocked, the bundle retires at the answer. -/
def State.askAgent (s : State) (op psi q : Nat) (spec primer : Dword) : State :=
  ((s.updMe fun c =>
    { c with agent := some (.plane op psi q spec primer s.act.entry.seq)
             ckpts := c.ckpts.map fun k => if k.seq = s.act.entry.seq then { k with agent := true } else k }).block
      .plane).after Config.latPlane (.planeAgentAnswer s.act.core s.act.ctx)

/-- Whether a `PCRT` specification breaks its limits (R343). -/
def specBad (b : Dword) : Bool :=
  fld b 0 1 != 0 || fld b 11 53 != 0 || decide (8 < fld b 1 4) || decide (12 < fld b 5 4)

/-- `PCRT`. -/
def execPcrt (_h : BitVec 1) (p : BitVec 3) (a b c : BitVec 5) (q : BitVec 4) (s : State) : Out1 :=
  sWord p (fun s =>
    if fld (s.getS a) 12 52 ≠ 0 ∨ specBad (s.getS b) then s.raiseWord 17
    else s.askAgent 0 (s.getS a).toNat q.toNat (s.getS b) (s.getS c)) s

/-- `PDEL`. -/
def execPdel (_h : BitVec 1) (p : BitVec 3) (a : BitVec 5) (q : BitVec 4) (s : State) : Out1 :=
  sWord p (fun s =>
    if fld (s.getS a) 12 52 ≠ 0 then s.raiseWord 17 else s.askAgent 1 (s.getS a).toNat q.toNat 0 0) s

/-- `PPRT`: the specification carries RD and W in the positions of the plane entry. -/
def execPprt (_h : BitVec 1) (p : BitVec 3) (a : BitVec 5) (w r : BitVec 1) (q : BitVec 4) (s : State) : Out1 :=
  sWord p (fun s =>
    if fld (s.getS a) 12 52 ≠ 0 then s.raiseWord 17
    else s.askAgent 2 (s.getS a).toNat q.toNat (BitVec.ofNat 64 (r.toNat * 2 ^ 9 + w.toNat * 2 ^ 10)) 0) s

/-! ### Channels (R172 to R174, R372, R373) -/

/-- Endpoint `e` of a context. -/
def Ctx.chan (c : Ctx) (e : Nat) : Chan := c.chans[e % 8]'(Nat.mod_lt _ (by decide))

/-- Endpoint `e` replaced. -/
def Ctx.setChan (c : Ctx) (e : Nat) (x : Chan) : Ctx := { c with chans := c.chans.set (e % 8) x (Nat.mod_lt _ (by decide)) }

/-- Whether an operand of `CHBIND` breaks the layout of R173 (R343). -/
def bindBad (a : Dword) : Bool :=
  fld a 28 36 != 0 || fld a 6 2 != 0 || fld a 3 1 != 0 || decide (191 < fld a 8 8)

/-- The remote end that an operand names (R173). -/
def bindEnd (a : Dword) : EndRef :=
  { who := { peer := fld a 16 12, core := fld a 8 8, ctx := fld a 4 2 }, ep := fld a 0 3 }

/-- `CHBIND`: the receive queue emptied and the binding set; an end on an unreachable peer is broken (R372). -/
def execChbind (_h : BitVec 1) (p e : BitVec 3) (a : BitVec 5) (s : State) : Out1 :=
  sWord p (fun s =>
    let v := s.getS a
    let b := bindEnd v
    if bindBad v then s.raiseWord 17
    else s.updMe fun c => c.setChan e.toNat
      { Chan.reset with bound := some b, space := (c.chan e.toNat).space
                        route := routeOf b.who.peer (peerOf (stackOf s.act.core))
                        broken := if s.gone.contains b.who.peer then some { kind := 4, party := b.who } else none }) s

/-- Blocks the running word's context on a read or a write of endpoint `e` (R54, R374). -/
def State.blockOn (s : State) (rd : Bool) (e : Nat) : State := (s.block .channel).updMe fun x => { x with on := some (rd, e) }

/-- The acknowledgement of a word at endpoint `e` to the bound end. -/
def State.ackTo (s : State) (e : Nat) (b : EndRef) : State :=
  s.sendMine b.who.peer (.cell (chanCell b { who := ctxRef s.act.core s.act.ctx, ep := e } 8 0 (s.me.chan e).route []))

/-- `CHRD`: pops a word and acknowledges it; an empty endpoint blocks; one never bound raises cause 17 (R343). -/
def execChrd (_h : BitVec 1) (p : BitVec 3) (d : BitVec 5) (e : BitVec 3) (s : State) : Out1 :=
  sWord p (fun s =>
    let x := s.me.chan e.toNat
    match x.bound, x.recv with
    | none, _ => s.raiseWord 17
    | some _, [] => s.blockOn true e.toNat
    | some b, v :: r => ((s.updMe fun c => c.setChan e.toNat { x with recv := r }).setS d v).ackTo e.toNat b) s

/-- Words of a spill space (R373). -/
def spillWords : Nat := 8192

/-- Whether a `CHWR` finds its endpoint unable to take the word (R172, R373). -/
def Chan.cannotTake (x : Chan) (spill : Bool) : Bool :=
  !x.deadReader &&
  (if spill then decide (spillWords ≤ x.spill.length) else !x.spill.isEmpty || decide (16 ≤ x.sent))

/-- A word sent on an endpoint: the next sequence number (R376). -/
def State.sendWord (s : State) (n k e : Nat) (v : Dword) : State :=
  let x := (s.ctx n k).chan e
  match x.bound with
  | none => s
  | some b =>
    (s.updCtx n k fun c => c.setChan e { x with sent := x.sent + 1, snum := x.snum + 1 }).sendFrom n k b.who.peer
      (.cell (chanCell b { who := ctxRef n k, ep := e } 7 x.snum x.route (leBytes 8 v.toNat)))

/-- `CHWR`. -/
def execChwr (_h : BitVec 1) (p : BitVec 3) (a : BitVec 5) (e : BitVec 3) (s : State) : Out1 :=
  sWord p (fun s =>
    let x := s.me.chan e.toNat
    let v := s.getS a
    let spill := s.arch.csr.syncmode.getLsbD 0
    if x.bound.isNone then s.raiseWord 17
    else if x.deadReader then s
    else if x.cannotTake spill then s.blockOn false e.toNat
    else if !x.spill.isEmpty || decide (16 ≤ x.sent) then
      (if x.space then s.updMe fun c => c.setChan e.toNat { x with spill := x.spill ++ [v] }
       else ((s.updMe fun c => { c with agent := some (.spill e.toNat v) }).block .spill).after Config.latAgent
         (.spillSpaceAllocated s.act.core s.act.ctx e.toNat))
    else s.sendWord s.act.core s.act.ctx e.toNat v) s

/-! ### Repeats of held words (R71) and the empty bundle (R67) -/

/-- The engine of a slot number. -/
def engineOf (i : Nat) : Engine :=
  match i with | 0 => .s | 1 => .l | 2 => .t | 3 => .m | 4 => .a | 5 => .b | 6 => .x | _ => .k

/-- The hold of a slot. -/
def Arch.holdOf (a : Arch) (i : Nat) : Option Hold := a.holds[i % 8]'(Nat.mod_lt _ (by decide))

/-- The hold of a slot replaced. -/
def Arch.setHold (a : Arch) (i : Nat) (h : Option Hold) : Arch :=
  { a with holds := a.holds.set (i % 8) h (Nat.mod_lt _ (by decide)) }

/-- A word enters its engine's issue queue (R69): its stream is named (R88), a scalar it writes is marked (R70) and a
command or `TAKE` is counted where its queue entry is handed over. -/
def State.enter (s : State) (i : Nat) (instr : Instr) (raw : Word) (cap : Captured) (ports : List Nat)
    (orig held : Bool) (run : Nat) : State :=
  let e := s.act.entry
  let entry : Entry :=
    { ctx := s.act.ctx, seq := e.seq, slot := engineOf i, instr := instr, raw := raw, hdr := e.hdr, pc := e.pc
      enq := s.myCore.cyc, ops := cap, fpc := s.arch.csr.fpc, arbw := s.arch.csr.arbw, ports := ports, orig := orig, held := held, run := run, quiet := e.quiet }
  let f := info instr
  (s.updMyCore fun c => { c with queue := c.queue ++ [entry] }).onArch fun a =>
    let a := match f.addr with | .stream n => a.stepStream n | _ => a
    match f.dst with | some d => a.mark d | none => a

/-- The repeats of held words of the slots `l`, each with its predicate and stream named afresh (R71). -/
def State.repeats (s : State) : List Nat → State
  | [] => s
  | i :: r =>
    match s.arch.holdOf i with
    | none => s.repeats r
    | some h =>
      let c := s.arch.capture (info h.instr)
      let cap := if (match (info h.instr).addr with | .stream _ => true | _ => false) then
          { h.ops with addr := c.addr, tag := c.tag } else h.ops
      if s.qual (holdPred h.instr).2 then
        ((s.enter i h.instr h.raw cap h.ports (!h.began) true h.run).onArch fun a =>
          a.setHold i (some { h with began := true })).repeats r
      else s.repeats r

/-- `idle`: an empty bundle carries the repeats of every held word (R67). Its allotments and its SYN and STP bits are the
header's, which dispatch has read. -/
def execIdle (_a _b _c _d _e _f : BitVec 3) (_s _t : BitVec 1) (s : State) : Out1 :=
  .next (s.repeats [1, 2, 3, 4, 5, 6, 7])

end Sys2Proof.Machine
end

