-- ==== Sys2Proof/Machine/Traps.lean ====
section
/-!
DEFINITION. Check points, retirement and traps (R319 to R328, R340, R355, R356): when a bundle retires, which trap is
taken, and what taking it does.
-/

namespace Sys2Proof.Machine

/-! ### Check points (R319, R384) -/

/-- Whether context `k` traps on numeric flags (R383). -/
def Ctx.nte (x : Ctx) : Flags := match x.bnd with | some b => b.nte | none => 0

/-- Whether a flight keeps its word from its check point: a translation not yet checked, or, in a context with `NTE`
nonzero, a result of an A, B, X or K word not yet written (R384). -/
def Flight.holdsCheck (f : Flight) (numeric : Bool) : Bool :=
  match f.kind with
  | .check _ _ _ st _ => st == 0 || st == 3
  | _ => numeric && decide (4 ≤ f.slot)

/-- Whether some word of slot `slot` of bundle `seq` has not passed its check point: of a plane instruction it is the agent's answer
(R359). -/
def Core.unpassed (c : Core) (k seq slot : Nat) : Bool :=
  let numeric := (c.ctx k).nte != 0
  (slot == 0 && (c.ctx k).ckpts.any fun q => q.seq == seq && q.agent) ||
  c.queue.any (fun e => e.ctx == k && e.seq == seq && slotNum e.slot == slot) ||
  c.held.any (fun h => h.entry.ctx == k && h.entry.seq == seq && slotNum h.entry.slot == slot && !h.checked) ||
  c.flights.any (fun f => f.ctx == k && f.seq == seq && f.slot == slot && f.holdsCheck numeric) ||
  (numeric && c.multi.any fun m => m.entry.ctx == k && m.entry.seq == seq && slotNum m.entry.slot == slot)

/-- Whether every word of bundle `seq` in the slots below `n` has passed its check point. -/
def Core.passedBelow (c : Core) (k seq n : Nat) : Bool := (List.range n).all fun i => !c.unpassed k seq i

/-! ### Undoing (R323, R327) -/

/-- Bundle `b` and every later one undone; records that changed are mended, and runs of rows that have nothing left to
wait for push theirs. -/
def State.undoAll (s : State) (n k b : Nat) : State :=
  (s.undo n k b).updCore n fun c => Core.settleRuns (if c.recs = (s.core n).recs then c else c.mendRecs)

/-! ### Retirement (R319, R320) -/

/-- The oldest unretired bundle may retire: all its words are past their check points without a fault. -/
def Core.retirable (c : Core) (k : Nat) : Bool :=
  match (c.ctx k).ckpts with
  | [] => false
  | q :: _ => !q.agent && !q.wait && c.passedBelow k q.seq 8 && !((c.ctx k).faults.any fun f => f.seq == q.seq)

/-- Words held of bundle `seq`, handed over in the order of their issue. -/
def Core.handOver (c : Core) (k seq : Nat) : Core :=
  let mine (h : Held) : Bool := h.entry.ctx == k && h.entry.seq == seq
  ({ c with held := c.held.filter (fun h => !mine h), taken := c.taken.filter fun t => !(t.1 == k && t.2.1 == seq) }).updCtx k fun x =>
    { x with wq := x.wq ++ c.held.filter mine, ckpts := x.ckpts.drop 1 }

/-- `BUNDLE_RETIRE`: the oldest bundle's checkpoint is freed, its held stores and commands are handed over and perform
as far as their order lets them. -/
def execBundleRetire (n k : Nat) (s : State) : Out1 :=
  .next (match (s.ctx n k).ckpts with
    | [] => s
    | q :: _ =>
      let s1 := s.updCore n fun c => c.handOver k q.seq
      s1.pump n k ((s1.ctx n k).wq.length * 4 + 4))

/-! ### Which trap is taken (R321) -/

/-- The cause number under which a paging stop waits beside the faults of its bundle (R356). -/
def stopCause : Nat := 256

/-- The earlier of two pending traps: older bundle, lower slot, lower cause. -/
def Pending.before (a b : Pending) : Bool :=
  decide (a.seq < b.seq) || (a.seq == b.seq && (decide (a.slot < b.slot) || (a.slot == b.slot && decide (a.cause ≤ b.cause))))

/-- The first of the pending traps. -/
def firstPending : List Pending → Option Pending
  | [] => none
  | p :: r => match firstPending r with | none => some p | some q => if p.before q then some p else some q

/-- The fault or stop of context `k` that is taken now: it lies in the oldest unretired bundle, and every lower slot of
that bundle has passed its check point. A stop waits for no other slot but a plane instruction's answer, so that the agent acts on
none that is undone (DEDUCED from R320, log 71). -/
def Core.trapDue (c : Core) (k : Nat) : Option Pending :=
  match (c.ctx k).ckpts, firstPending (c.ctx k).faults with
  | q :: _, some p =>
    if p.seq = q.seq ∧ ((p.cause = stopCause ∧ q.agent = false) ∨ c.passedBelow k q.seq p.slot = true) then some p else none
  | _, _ => none

/-- The bundles of a context that stand in the way of an asynchronous trap: not the words of a wait bundle that has
entered in part (R325). -/
def Ctx.busyBundles (x : Ctx) : List Ckpt := x.ckpts.filter fun q => !q.wait

/-- The asynchronous trap of lowest code (R325). -/
def firstAsync : List (Nat × Dword) → Option (Nat × Dword)
  | [] => none
  | p :: r => match firstAsync r with | none => some p | some q => if p.1 ≤ q.1 then some p else some q

/-- The asynchronous trap of context `k` that is taken now. -/
def Core.asyncDue (c : Core) (k : Nat) : Option (Nat × Dword) :=
  let x := c.ctx k
  match x.st with
  | .ready => if !x.arch.ih && x.busyBundles.isEmpty && x.faults.isEmpty then firstAsync x.asyncs else none
  | .current => if !x.arch.ih && x.busyBundles.isEmpty && x.faults.isEmpty then firstAsync x.asyncs else none
  | _ => none

/-! ### Taking a trap (R323, R325, R328) -/

/-- A context starts to be saved (R62): fetch stops, and what it has issued runs on. -/
def Ctx.startSave (x : Ctx) (area cf : Nat) (esc : Option Esc) : Ctx :=
  { x with st := .saving, saveTo := if x.st = .saving then x.saveTo else some area
           cf := if x.st = .saving then x.cf else cf, esc := esc, gone := x.gone || x.st == .retired
           ckpts := x.ckpts.map fun q => { q with wait := false } }

/-- The firmware's save areas of stack `t` (R328): 3000 places of 8 MiB each in the fast tier, above its frames (DESIGN CHOICE, log 11). -/
def saveAreaAt (t i : Nat) : Nat := peerOf t * 2 ^ 45 + 0x1000000000 + (Config.saveStart + i) % 3000 * 0x800000

/-- Whether a save area is in use: a saved context lies in it, or one is being written to it. -/
def State.areaTaken (s : State) (a : Nat) : Bool :=
  s.saved.any (fun x => x.fpa == a) || s.cores.any fun c => c.2.ctxs.toList.any fun x => x.saveTo == some a

/-- The save area that the firmware takes next in a stack: the first free one. -/
def State.saveArea (s : State) (t : Nat) : Nat :=
  ((List.range 3000).map (saveAreaAt t)).find? (fun a => !s.areaTaken a) |>.getD (saveAreaAt t 0)

/-- Escalation (R325, R328): the firmware takes a save area and the context is written to it. -/
def State.escalate (s : State) (n k why : Nat) (pw : Dword) : State :=
  let area := s.saveArea (stackOf n)
  (s.lifeLog (s.ctx n k).arch.csr.trapval.toNat 1 0 n (peerOf (stackOf n))).updCore n fun c =>
    c.updCtx k fun x => x.startSave area c.time (some { why := why, pw := pw, cyc := c.time })

/-- A fault or an asynchronous trap enters the handler, or passes to firmware while `TRAPVEC` is 0 or, for a fault, while
IH is 1. -/
def State.takeTrap (s : State) (n k : Nat) (tpc : Dword) (slot cause : Nat) (val : Dword) (fault : Bool) : State :=
  let s := s.updCore n fun c => c.endRunOf k
  let a := (s.ctx n k).arch
  let b := a.enter tpc slot cause val
  if a.csr.trapvec = 0 ∨ (fault ∧ a.ih) then
    (s.updCtx n k fun x => { x with arch := { b with pc := tpc } }).escalate n k (if a.csr.trapvec = 0 then 1 else 2)
      (if cause = 64 then val else 0)
  else
    s.updCore n fun c => c.updCtx k fun x =>
      { x.wake with arch := b, from_ := c.time + 3
                    sync := if fault then x.sync else none, outer := if fault then x.outer else x.sync.or x.outer }

/-- A context whose `RETIRE` is undone with its bundle goes on (R323, R356). -/
def Ctx.unretire (x : Ctx) : Ctx := if x.st = .retired ∧ x.killed = false then { x with st := .ready, gone := false, waitCnt := 0 } else x

/-- `FAULT_TAKEN` (R323): bundle b and every later one undone, a `RETIRE` among their words too, then the handler. -/
def execFaultTaken (n k : Nat) (s : State) : Out1 :=
  .next (match (s.core n).trapDue k with
    | none => s
    | some p =>
      let tpc := match (s.ctx n k).ckptFrom p.seq with | some q => q.pc | none => (s.ctx n k).arch.pc
      ((s.undoAll n k p.seq).updCtx n k Ctx.unretire).takeTrap n k tpc p.slot p.cause p.val true)

/-- `ASYNC_TRAP_TAKEN` (R325): the words that a wait bundle has entered stay entered. -/
def execAsyncTrapTaken (n k : Nat) (s : State) : Out1 :=
  .next (match (s.core n).asyncDue k with
    | none => s
    | some (cause, val) =>
      let s1 := s.updCtx n k fun x =>
        { x with asyncs := x.asyncs.erase (cause, val), ckpts := x.ckpts.map fun q => { q with wait := false } }
      s1.takeTrap n k (s1.ctx n k).arch.pc 0 cause val false)

/-! ### The queue wait limit (R340) -/

/-- The first word of a context in an engine's queue. -/
def Core.firstOf (c : Core) (k : Nat) (e : Engine) : Option Entry := c.queue.find? fun q => q.ctx == k && q.slot == e

/-- `QUEUE_WAIT_LIMIT`: the waiting word raises cause 20. -/
def execQueueWaitLimit (n k : Nat) (e : Engine) (s : State) : Out1 :=
  .next (match (s.core n).firstOf k e with
    | none => s
    | some w =>
      (s.updCtx n k fun x =>
        { x with waits := x.waits.set (slotNum e % 8) (0, 0) (Nat.mod_lt _ (by decide)) }).raiseAt n k w.seq (slotNum e) 20
        (wordVal w.hdr w.raw))

/-! ### A paging stop (R356) -/

/-- What the agent is asked, once for each page and plane (R357): it takes longer to read a page back than to fill a frame with
the primer (log 6). -/
def State.askFrame (s : State) (asn page plane : Nat) : State :=
  if s.fw.asked.contains (asn, page, plane) then s
  else
    let back := match s.pageEntries asn page plane with | .ok _ _ fe => nbits fe 63 1 == 0 | _ => false
    ({ s with fw := { s.fw with asked := s.fw.asked ++ [(asn, page, plane)] } }).after
      (if back then Config.latPage else Config.latAgent)
      (.pagingComplete { asn := asn, page := page, plane := plane, ok := true, content := none })

/-- A paging stop is taken: the stopping bundle and every later one undone with hold and loop state as restored, the
context blocked with the stopping bundle as its next. -/
def State.pagingStop (s : State) (n k seq page plane : Nat) : State :=
  let s1 := (s.undoAll n k seq).updCtx n k Ctx.unretire
  s1.updCore n fun c =>
    let c1 := match (c.ctx k).st with | .current => c.count 5 (some k) 1 | .ready => c.count 5 (some k) 1 | _ => c
    c1.updCtx k fun x =>
      { x with agent := some (.frame page plane), probe := 0, on := none
               st := match x.st with | .current => .blocked .paging | .ready => .blocked .paging
                                     | .blocked _ => .blocked .paging | t => t }

end Sys2Proof.Machine
end

