-- ==== Sys2Proof/Machine/Results.lean ====
section
/-!
DEFINITION. Results that come due (R80, R81, R85, R86, R90), the checks and reads of translated words (R319, R353 to
R358), late landings (R57, R355, R388), and the refilling of `rq` (R83).
-/

namespace Sys2Proof.Machine

/-! ### What a result does -/

/-- `VSTAT` flags set by a word of flight `f`, and cause 48 where one of them is enabled (R384 to R386). -/
def State.setVstat (s : State) (n : Nat) (f : Flight) (fl : Flags) : State :=
  if fl = 0 then s
  else
    let s1 := s.onArchAt n f.ctx f.seq fun a => { a with csr := { a.csr with vstat := a.csr.vstat ||| fl.setWidth 64 } }
    if (s.ctx n f.ctx).nte &&& fl ≠ 0 ∧ f.quiet = false then s1.raiseAt n f.ctx f.seq f.slot 48 (fl.setWidth 64) else s1

/-- A row at the tail of queue `q` for the word of flight `f`. -/
def State.pushRow (s : State) (n : Nat) (f : Flight) (q : BitVec 5) (x : Row) (wait : Option Nat) : State :=
  let id := (s.core n).nextId
  (s.updCore n fun c => { c with nextId := id + 1 }).onArchAt n f.ctx f.seq fun a => a.setQueue q ((a.queue q).push id x wait)

/-- An entry at the tail of scale queue `q` for the word of flight `f`. -/
def State.pushScale (s : State) (n : Nat) (f : Flight) (q : BitVec 3) (e : KEntry) : State :=
  s.onArchAt n f.ctx f.seq fun a => a.setKqueue q ((a.kqueue q).push e)

/-- The acquire actions of a word whose data has returned (R195, R274). -/
def State.acquired (s : State) (n : Nat) (f : Flight) : State :=
  match f.acq with
  | none => s
  | some sc =>
    if sc.toNat < 4 then s
    else (s.acquire (stackOf n) sc.toNat).updCore n fun c =>
      c.updCtx f.ctx fun x => { x with acqUntil := c.time + Config.latAcquire }

/-- A result written at its cycle. -/
def State.deliver (s : State) (n : Nat) (f : Flight) : State :=
  match f.kind with
  | .push q row fl => (s.pushRow n f q row none).setVstat n f fl
  | .ret q row _ => s.pushRow n f q row none
  | .land q row _ _ => s.pushRow n f q row none
  | .sreg d v => s.onArchAt n f.ctx f.seq fun a => a.land d v
  | .gload d v _ => s.onArchAt n f.ctx f.seq fun a => a.land d v
  | .mask m v fl => (s.onArchAt n f.ctx f.seq fun a => { a with masks := a.masks.set m.toNat v m.isLt }).setVstat n f fl
  | .scale k e _ _ => s.pushScale n f k e
  | .krng seed => s.onArchAt n f.ctx f.seq fun a => { a with csr := { a.csr with seed := seed, rngpos := 0 }, rqn := 0 }
  | .check _ _ _ _ _ => s

/-- `PIPELINE_RESULT`: the result of fixed latency is written or pushed (R90); after RESUME also what a latch holds (R63). -/
def execPipelineResult (n id : Nat) (s : State) : Out1 :=
  .next (match (s.core n).flight id with
    | none => s
    | some f => ((s.updCore n fun c => c.drop id).deliver n f).acquired n f)

/-- `GLOBAL_LOAD_RETURN` (R204): the data of a global load, `TLD`, `LDX`, atomic or `TAKE` is written or pushed. For a
context being saved it stays in the snapshot latches with its cycle (R62). -/
def execGlobalLoadReturn (n id : Nat) (s : State) : Out1 :=
  .next (match (s.core n).flight id with
    | none => s
    | some f =>
      let ready := match f.kind with | .gload _ _ r => r | .ret _ _ r => r | _ => false
      let c := s.core n
      if !ready then s
      else if (c.ctx f.ctx).st = .saving ∧ (c.ctx f.ctx).cf ≤ c.time then
        s.updCore n fun c => c.updFlight id fun g => { g with due := c.time }
      else ((s.updCore n fun c => c.drop id).deliver n f).acquired n f)

/-- A flight's push of data that has not arrived: the row or entry stands absent (R81, R86). -/
def State.pushAbsent (s : State) (n : Nat) (f : Flight) : State :=
  match f.kind with
  | .land q x _ _ =>
    (s.pushRow n f q 0 (some f.id)).updCore n fun c => c.updFlight f.id fun g => { g with kind := .land q x false true }
  | .scale k e _ _ =>
    (s.pushScale n f k { e with data := 0, wait := some f.id }).updCore n fun c =>
      c.updFlight f.id fun g => { g with kind := .scale k e false true }
  | _ => s

/-- `LANDING_PUSH` (R85): at its named cycle, with its data or without. -/
def execLandingPush (n id : Nat) (s : State) : Out1 :=
  .next (match (s.core n).flight id with
    | none => s
    | some f =>
      let s1 := s.updCore n fun c => c.count 8 (some f.ctx) 1
      match f.kind with
      | .land _ _ true _ => ((s1.updCore n fun c => c.drop id).deliver n f).acquired n f
      | .land _ _ false false => s1.pushAbsent n f
      | _ => s)

/-- `SCALE_PUSH` (R86): at issue + 24, with its data or without. -/
def execScalePush (n id : Nat) (s : State) : Out1 :=
  .next (match (s.core n).flight id with
    | none => s
    | some f =>
      match f.kind with
      | .scale _ _ true _ => (s.updCore n fun c => c.drop id).deliver n f
      | .scale _ _ false false => s.pushAbsent n f
      | _ => s)

/-! ### Late data (R57, R81, R355, R388) -/

/-- A queue whose absent row of flight `id` receives its data. -/
def VQueue.fillRow (v : VQueue) (id : Nat) (x : Row) : VQueue :=
  { v with rows := v.rows.map fun r => if r.wait = some id then { r with data := lowBits (rowWidth v.wd) x, wait := none } else r }

/-- A scale queue whose absent entry of flight `id` receives its data. -/
def KQueue.fillEntry (v : KQueue) (id : Nat) (e : KEntry) : KQueue :=
  { v with ring := vmap (fun r => if r.wait = some id then { e with wait := none } else r) v.ring }

/-- What a core does after a freeze: what it did before (R57). -/
def Pace.clock : Pace → Clock
  | .running => .running
  | .switching l k => .switching l k
  | .freewheel w => .freewheel w

/-- The core clock restarts (R57): freeze cycles are counted, and what the front end was doing goes on. -/
def Core.thaw (c : Core) (id now : Nat) : Core :=
  match c.clk with
  | .frozen f since back =>
    if f = id then
      { c.count 7 none (now - since) with clk := back.clock }
    else c
  | _ => c

/-- Data for a row or entry that stands absent: it is filled wherever it stands, and the clock restarts. -/
def State.fillAbsent (s : State) (n : Nat) (f : Flight) : State :=
  ((s.updCore n fun c => c.drop f.id).updCtx n f.ctx fun x =>
    match f.kind with
    | .land q d _ _ => x.changeAll fun a => a.setQueue q ((a.queue q).fillRow f.id d)
    | .scale k e _ _ => x.changeAll fun a => a.setKqueue k ((a.kqueue k).fillEntry f.id e)
    | _ => x).updCore n fun c => c.thaw f.id s.now

/-- A flight's data has come: a row pushed absent is filled, one not yet due waits in the landing buffer. -/
def State.arrive (s : State) (n : Nat) (f : Flight) : State :=
  match f.kind with
  | .land q d _ late =>
    if late then (s.fillAbsent n f).acquired n f
    else s.updCore n fun c => c.updFlight f.id fun g => { g with kind := .land q d true false }
  | .scale k e _ late =>
    if late then s.fillAbsent n f else s.updCore n fun c => c.updFlight f.id fun g => { g with kind := .scale k e true false }
  | _ => s

/-- `LANDING_LATE_ARRIVAL` (R57). -/
def execLandingLateArrival (n id : Nat) (s : State) : Out1 :=
  .next (match (s.core n).flight id with | none => s | some f => s.arrive n f)

/-- A flight with a value of zero for the row or entry it was to bring. -/
def Flight.zeroed (f : Flight) : Flight :=
  match f.kind with
  | .land q _ a l => { f with kind := .land q 0 a l }
  | .scale k e a l => { f with kind := .scale k { e with data := 0 } a l }
  | _ => f

/-- The fabric physical address of the first line of row `j` of a word. -/
def State.rowLine (s : State) (n k : Nat) (e : Entry) (car : Carry) (j : Nat) : Dword :=
  match ((s.resolve n k e car).rows.getD j (8, [])).2.filterMap Elem.span? with
  | [] => 0
  | r :: _ => poisonVal n r.1

/-- `FREEZE_TIMEOUT` (R388): the row or entry is zero, the clock restarts, and its context takes cause 65. -/
def execFreezeTimeout (n : Nat) (s : State) : Out1 :=
  .next (match (s.core n).clk with
    | .frozen id _ _ =>
      (match (s.core n).flight id with
       | none => s.updCore n fun c => c.thaw id s.now
       | some f =>
         let v := ((s.core n).flights.findSome? fun g => match g.kind with
           | .check e car fs _ _ => if fs.contains id then some (s.rowLine n f.ctx e car (fs.findIdx fun i => i == id)) else none
           | _ => none).getD 0
         (s.fillAbsent n f.zeroed).raiseAsync n f.ctx 65 v)
    | _ => s)

/-! ### The checks of a translated word (R346, R353, R354, R360) -/

/-- Whether an element of a tile inside the handle's sizes lies outside the populated fast tier (R360). -/
def tileOutside (t : Nat) (p : Places) : Bool := p.spans.any fun r => decide (peerOf t * 2 ^ 45 + fastEnd < r.1 + r.2)

/-- The handle's checks for a word (R360). -/
def State.handleVerdict (s : State) (n k : Nat) (e : Entry) (car : Carry) : Verdict :=
  match (s.ctx n k).bnd.bind fun b => s.handleFor b.asn (handleOp e) with
  | none => .fault 38 (BitVec.ofNat 64 (fld e.ops.x 0 24))
  | some (t, h) => if tileOutside t (h.places t e car) then .fault 38 (BitVec.ofNat 64 (fld e.ops.x 0 24)) else .ok

/-- What the checks of a word find. -/
def State.wordVerdict (s : State) (n k : Nat) (e : Entry) (car : Carry) : Verdict :=
  let x := s.ctx n k
  let check (rd wr : Bool) (l : List Dword) : Verdict := s.checkAll x.asn x.refusals rd wr l
  let l := s.moves x.asn e car
  let all := check (accessOf e.instr).1 (accessOf e.instr).2 (l.flatMap (·.2))
  if byHandle e.instr then s.handleVerdict n k e car
  else
    match e.instr with
    | .coll _ _ _ _ _ _ _ => (check true true (l.take 1 |>.flatMap (·.2))).join (check true false (l.drop 1 |>.flatMap (·.2)))
    | .pld _ _ _ _ _ q m => check true false (s.planeAddrs x.asn e.ops.addr (planesOf q.toNat m.toNat))
    | .pst _ _ _ _ q m => check false true (s.planeAddrs x.asn e.ops.addr (planesOf q.toNat m.toNat))
    | .kld _ _ _ _ _ _ =>
      (match s.planeShape x.asn e.ops.addr (fld e.ops.addr 60 4) with
       | some (w, _) => if w = 8 ∨ w = 32 then all else .fault 17 (wordVal e.hdr e.raw)
       | none => all)
    | _ => all

/-! ### Reading (R178, R181 to R187, R203, R363) -/

/-- The scalar that a global load returns (R181): of a plane of width below 8 the element, else the bytes of the access. -/
def scalarOf (i : Instr) (p : Places) (row : Row) : Dword :=
  match i with
  | .ldg _ _ _ _ _ z _ _ => BitVec.ofNat 64 (if p.w < 8 then fld row 0 p.w else fld row p.off (8 * 2 ^ z.toNat))
  | _ => BitVec.ofNat 64 (fld row 0 64)

/-- The entry that a K word's row makes (R203). -/
def entryOf (i : Instr) (p : Places) (row : Row) (tag : BitVec 4) : KEntry :=
  let each (n w : Nat) : KEntry := kEntry ((List.range n).map fun i => fld row (w * i) w) tag
  match i with
  | .kld _ _ _ _ _ c => each (c.toNat + 1) p.w
  | .ktab _ _ _ _ _ => each 64 32
  | .kout _ _ _ _ _ c => each (c.toNat + 1) 8
  | .kskp _ _ _ _ c => each (c.toNat + 1) 8
  | _ => kEntry [] tag

/-- What a queued store will carry: the width of its source (R192); an `STX` that has not popped its indices is kept apart. -/
def State.queuedCarry (s : State) (n k : Nat) (i : Instr) : Carry :=
  let w (d : BitVec 5) : Carry := carryW ((s.ctx n k).arch.widthOfQueue d)
  match i with
  | .stv _ _ _ d _ _ => w d
  | .sgv _ _ _ d _ _ _ _ => w d
  | .redv _ _ _ d _ _ _ => w d
  | .tst _ _ d _ _ _ _ _ => w d
  | _ => carryW 0

/-- Whether an older load of the context has still to read bytes of `sp` (R195, R273). -/
def State.olderRead (s : State) (n k seq : Nat) (sp : List (Nat × Nat)) : Bool :=
  (s.core n).flights.any fun f => f.ctx == k && decide (f.seq < seq) && f.slot != 2 &&
    (match f.kind with
     | .check e car _ st p => st != 3 && spansMeet sp (if st = 0 then s.resolve n k e car else p).spans
     | _ => false)

/-- Whether an older T word of the context has still to perform on bytes of `sp` (R195); the rows of an `STX` that has not popped
its indices may be any. -/
def State.olderStore (s : State) (n k seq : Nat) (sp : List (Nat × Nat)) : Bool :=
  let c := s.core n
  (c.held ++ (c.ctx k).wq).any (fun h =>
    h.entry.ctx == k && decide (h.entry.seq < seq) && spansMeet sp (s.tSpans n k h.entry h.car h.places)) ||
  c.queue.any (fun e => e.ctx == k && e.slot == .t && decide (e.seq < seq) &&
    (match e.instr with | .stx _ _ _ _ _ _ _ => true | i => spansMeet sp (s.tSpans n k e (s.queuedCarry n k i) none)))

/-- Whether the read of bytes `sp` by a word of bundle `seq`, past the copies of its stack or from them, must wait (R195, R273, R286). -/
def State.olderOverlap (s : State) (n k seq : Nat) (past : Bool) (sp : List (Nat × Nat)) : Bool :=
  s.olderStore n k seq sp || s.olderRead n k seq sp || s.readsBusy n k past sp

/-- Whether a word is a `FENCE` or a `FENCEX`, which hold back later L words as well (R196). -/
def isFence (i : Instr) : Bool := match i with | .fence _ _ _ => true | .fencex _ _ _ _ _ => true | _ => false

/-- Whether a word that stands in the memory system's order waits there: `DRAIN`, `FENCE` and `FENCEX` complete only as their
waits and actions end (R196, R303). -/
def isWait (i : Instr) : Bool := match i with | .drain _ _ _ => true | i => isFence i

/-- Whether an older `DRAIN`, `FENCE` or `FENCEX` of the context holds a T word of bundle `seq` (R196). -/
def State.olderWait (s : State) (n k seq : Nat) : Bool :=
  let c := s.core n
  (c.held ++ (c.ctx k).wq).any (fun h => h.entry.ctx == k && decide (h.entry.seq < seq) && isWait h.entry.instr) ||
  c.queue.any fun e => e.ctx == k && decide (e.seq < seq) && isWait e.instr

/-- One flight of a word receives its row: a landing or entry whose data comes in time waits for its cycle, a later one
arrives after it, and a returning row or scalar comes `lat` cycles on. -/
def State.supply (s : State) (n : Nat) (i : Instr) (p : Places) (lat : Nat) (id : Nat) (row : Row) : State :=
  match (s.core n).flight id with
  | none => s
  | some f =>
    let inTime := decide ((s.core n).cyc + lat ≤ f.due)
    let set (kd : FKind) : State := s.updCore n fun c => c.updFlight id fun g => { g with kind := kd }
    match f.kind with
    | .gload d _ _ => (set (.gload d (scalarOf i p row) true)).after lat (.globalLoadReturn n id)
    | .ret q _ _ => (set (.ret q row true)).after lat (.globalLoadReturn n id)
    | .land q _ _ late =>
      if inTime && !late then set (.land q row true false) else (set (.land q row false late)).after lat (.landingLateArrival n id)
    | .scale q x _ late =>
      let y := entryOf i p row x.tag
      if inTime && !late then set (.scale q y true false)
      else (set (.scale q y false late)).after lat (.landingLateArrival n id)
    | _ => s

/-- The rows of a word supplied to its flights; rows that return follow one another (R204). -/
def State.supplyAll (s : State) (n : Nat) (i : Instr) (p : Places) : List Nat → List Row → Nat → State
  | id :: r, x :: xs, lat =>
    (s.supply n i p lat id x).supplyAll n i p r xs (match i with | .tld _ _ _ _ _ _ _ _ => lat + 1 | .ldx _ _ _ _ _ _ _ => lat + 1 | _ => lat)
  | _, _, _ => s

/-- The words whose reads use the L1 (R255). -/
def loadsL1 : Instr → Bool
  | .ldg _ _ _ _ _ _ _ _ => true
  | .lgv _ _ _ _ _ _ _ => true
  | .pld _ _ _ _ _ _ _ => true
  | .ldx _ _ _ _ _ _ _ => true
  | _ => false

/-- Whether a word takes acquire actions (R274). -/
def Flight.acquires (f : Flight) : Bool := match f.acq with | some a => decide (4 ≤ a.toNat) | none => false

/-- Whether a word reads past its stack's copies of lines from other peers, which are written back first: an acquire (R274) and
`TLD` (R255, R398). -/
def Flight.past (f : Flight) : Bool := f.acquires || (match f.instr with | .tld _ _ _ _ _ _ _ _ => true | _ => false)

/-- The lines that a word's read still lacks. -/
def State.lacks (s : State) (n id : Nat) (past : Bool) (sp : List (Nat × Nat)) : List Nat :=
  (sp.flatMap fun r => (List.range r.2).filterMap fun i =>
    if (s.seenBy n id past (r.1 + i)).isNone then some (lineOf (r.1 + i)) else none).dedup

/-- A line asked for from its home on another peer, for the copies or past them. -/
def State.askLine (s : State) (n k : Nat) (b : By) (id : Nat) (past : Bool) (line : Nat) : State :=
  if past || uncached (line * 128) then s.farRead n k b id line else s.farFill n k b line

/-- Whether the L1 serves what a word reads of a line. -/
def State.servedL1 (s : State) (n : Nat) (f : Flight) (sp : List (Nat × Nat)) (line : Nat) : Bool :=
  loadsL1 f.instr && !f.past && !uncached (line * 128) && s.l1Hit n line (wordsIn line sp)

/-- The time that the slowest line of a read takes, from its issue on (R260). -/
def State.readTime (s : State) (n : Nat) (f : Flight) (came : Bool) (sp : List (Nat × Nat)) : Nat :=
  (linesIn sp).foldl (fun m l =>
    max m (s.lineLat n (loadsL1 f.instr && !f.past) (s.servedL1 n f sp l) (came && !nearAt (stackOf n) (l * 128)) l)) 0

/-- What the read of a line does to the caches (R255, R256, R318): served by the L1, or by the slice, whose words then stand in the
L1 of a word that uses it. -/
def State.touchLine (s : State) (n k : Nat) (f : Flight) (b : By) (came : Bool) (sp : List (Nat × Nat)) (line : Nat) : State :=
  let far := !nearAt (stackOf n) (line * 128)
  if uncached (line * 128) then s
  else if s.servedL1 n f sp line then s.updCore n fun c => c.count 13 none 1
  else
    let s1 := if loadsL1 f.instr && !f.past then s.updCore n fun c => c.count 14 none 1 else s
    if f.past && far then s1
    else
      let s2 := if far && came then s1 else s1.l2Touch (stackOf n) b line false
      if loadsL1 f.instr && !f.past then s2.l1Take n b line (BitVec.allOnes 32) 0 else s2

/-- The clean words of another peer's lines that a word has read past them: they are dropped, since they may be older than what it has
read (DEDUCED from R273, log 8). -/
def State.passedBy (s : State) (n : Nat) (f : Flight) (sp : List (Nat × Nat)) : State :=
  let t := stackOf n
  if f.past then
    (linesIn sp).foldl (fun s l =>
      if nearAt t (l * 128) || uncached (l * 128) then s
      else s.dropWords t l (wordsIn l sp &&& ~~~(match s.copyOf t l with | some c => c.dirty | none => 0))) s
  else s

/-- The read itself, once nothing before it is in its way: the lines that other peers hold are asked for first. -/
def State.finishRead (s : State) (n k : Nat) (f : Flight) (e : Entry) (fs : List Nat) (came : Bool) (p : Places) : State :=
  let sp := p.spans
  let b := e.by_ n
  match s.lacks n f.id f.past sp with
  | [] =>
    let lat := afterCheck (s.readTime n f came sp)
    let rows := p.rows.map fun r => s.readRow n f.id f.past r
    let s1 := ((linesIn sp).foldl (fun s l => s.touchLine n k f b came sp l) s).passedBy n f sp
    let s2 := (s1.updCore n fun c => { c.drop f.id with came := c.came.filter fun x => x.id != f.id }).supplyAll n e.instr p fs
      (rows.map (·.1)) lat
    match rows.findSome? (·.2) with | none => s2 | some v => s2.raiseAsync n k 65 v
  | l => l.foldl (fun s x => s.askLine n k b f.id f.past x) s

/-- A `COLL`'s descriptor read at its check point (R200): a poisoned line raises cause 65 and the command is not queued; else its
check point is when the fields have returned (R319). -/
def State.finishColl (s : State) (n k : Nat) (f : Flight) (e : Entry) (fs : List Nat) (came : Bool) (p : Places)
    (setStage : State → Nat → State) : State :=
  let q : Places := { p with rows := p.rows.take 1 }
  let sp := q.spans
  let b := e.by_ n
  match s.lacks n f.id false sp with
  | [] =>
    let lat := afterCheck (s.readTime n f came sp)
    let row := s.readRow n f.id false (q.rows.getD 0 (8, []))
    let s1 := (linesIn sp).foldl (fun s l => s.touchLine n k f b came sp l) s
    (match row.2 with
     | some v => (s1.updCore n fun c => { c.drop f.id with held := c.held.filter fun h => !fs.contains h.id }).raiseAsync n k 65 v
     | none =>
       (setStage (s1.updCore n fun c => { c with held := c.held.map fun h => if fs.contains h.id then { h with desc := row.1 } else h })
         5).after lat (.translationComplete n f.id))
  | l => l.foldl (fun s x => s.askLine n k b f.id false x) (setStage s 4)

/-- A T word past its check point: its places stand, and it may be handed over. -/
def State.passT (s : State) (n : Nat) (f : Flight) (fs : List Nat) (p : Places) : State :=
  s.updCore n fun c => { c.drop f.id with held := c.held.map fun h => if fs.contains h.id then { h with places := some p } else h }

/-- A word past its checks: a store may be handed over; a load waits for older accesses to its bytes, makes its write-backs, and
reads. -/
def State.passCheck (s : State) (n k : Nat) (f : Flight) (e : Entry) (car : Carry) (fs : List Nat) (stage : Nat) (p : Places) : State :=
  let setStage (s : State) (st : Nat) : State :=
    s.updCore n fun c => c.updFlight f.id fun g => { g with kind := .check e car fs st p }
  let sp := p.spans
  if e.slot = .t then
    (match e.instr with
     | .coll _ _ _ _ _ _ _ =>
       if stage = 5 then s.passT n f fs p
       else if stage < 2 && (s.olderWait n k e.seq || s.olderOverlap n k e.seq false sp) then setStage s 1
       else s.finishColl n k f e fs (stage == 4) p setStage
     | _ => s.passT n f fs p)
  else if stage < 2 && s.olderOverlap n k e.seq f.past sp then setStage s 1
  else
    let s1 := if stage < 2 && f.past then
        sp.foldl (fun s r => if uncached r.1 then s else s.writeBackOf (stackOf n) (e.by_ n) r.1 r.2) (setStage s 2) else s
    if stage ≤ 2 && s1.readsBusy n k f.past sp then setStage s1 2
    else s1.finishRead n k f e fs (stage == 4) p |> fun s2 => if (s2.core n).flight f.id |>.isSome then setStage s2 4 else s2

/-- The landings and entries of a word that faults or stops come as zeros, so that a core frozen on one goes on (R355). -/
def State.voidFlights (s : State) (n : Nat) (fs : List Nat) : State :=
  fs.foldl (fun s id => match (s.core n).flight id with | none => s | some f => s.arrive n f.zeroed) s

/-- A context's refusals without those for pages and planes that it meets with a frame (R358). -/
def State.metRefusals (s : State) (n k : Nat) (l : List (Nat × Nat)) : State :=
  let x := s.ctx n k
  let there (p : Nat × Nat) : Bool := match s.pageEntries x.asn p.1 p.2 with | .ok _ _ fe => nbits fe 57 1 == 1 | _ => false
  if x.refusals.any fun r => l.contains r && there r then
    s.updCtx n k fun x => { x with refusals := x.refusals.filter fun r => !(l.contains r && there r) }
  else s

/-! ### The paging agent's frames (R28, R37, R39, R266, R269, R356, R357, R400) -/

/-- Bytes of a frame: the elements of 2^16 positions at granule 2^g, of width w (R28). -/
def frameSize (pe : Nat) : Nat := (2 ^ 16 / 2 ^ nbits pe 5 4 * widthOf (nbits pe 1 4) + 7) / 8

/-- A frame of TIER 1 pins its pages, and no longer does once it is reclaimed (R266). -/
def State.pinFrame (s : State) (up : Bool) (f : Frame) : State :=
  if f.tier = 1 ∧ ownFpa f.fpa = true then s.pinExtent (stackAt f.fpa) up (f.fpa % 2 ^ 45) f.size else s

/-- A frame registered no more: its pages are pinned no more for it. -/
def State.dropFrame (s : State) (f : Frame) : State :=
  let s1 := s.pinFrame false f
  { s1 with fw := { s1.fw with frames := s1.fw.frames.erase f } }

/-- A frame registered. -/
def State.keepFrame (s : State) (f : Frame) : State :=
  let s1 := s.pinFrame true f
  { s1 with fw := { s1.fw with frames := s1.fw.frames ++ [f] } }

/-- A frame that is met as its entry now has it: the agent counts one of TIER 1 that system software has placed among those that pin
their pages, and follows a TIER or an FPA that has changed (R39, R266). -/
def State.meetFrame (s : State) (asn : Nat) (p : Nat × Nat) : State :=
  match s.pageEntries asn p.1 p.2 with
  | .ok e pe fe =>
    let fr : Frame := { entry := frameAddr e p.2, fpa := nbits fe 0 57, size := frameSize pe, tier := nbits fe 60 2 }
    if nbits fe 57 1 = 0 then s
    else
      match s.fw.frames.find? fun f => f.entry == fr.entry with
      | some f =>
        if f.fpa = fr.fpa ∧ f.tier = fr.tier then s
        else if f.fpa = fr.fpa ∨ fr.tier = 1 then (s.dropFrame f).keepFrame fr
        else s.dropFrame f
      | none => if fr.tier = 1 then s.keepFrame fr else s
  | _ => s

/-- Pages and planes translated: they enter the core's caches. -/
def State.translated (s : State) (n asn : Nat) (l : List (Nat × Nat)) : State :=
  l.foldl (fun s p => (s.cachePage n asn p).meetFrame asn p) s

/-- The checks of a word that has not been checked: its fault, its stop, the fetch of a table's line, or its passing. -/
def State.checkFlight (s : State) (n : Nat) (f : Flight) (e : Entry) (car : Carry) (fs : List Nat) : State :=
  let k := f.ctx
  let asn := (s.ctx n k).asn
  let l := if byHandle e.instr then [] else pagesOf (s.moves asn e car)
  let met := s.metRefusals n k l
  match s.wordVerdict n k e car with
  | .need l => s.farTable (stackOf n) asn l
  | .fault cause v =>
    ((met.updCore n fun c => c.drop f.id).raiseAt n k e.seq (slotNum e.slot) cause v).voidFlights n fs
  | .stop page plane =>
    (((met.cacheLeaf n asn page).voidFlights n fs).updCore n fun c => c.updFlight f.id fun g => { g with kind := .check e car [page, plane] 3 Places.none_ }).raiseAt n k
      e.seq (slotNum e.slot) stopCause 0
  | .ok => (met.translated n asn l).passCheck n k f e car fs 0 (s.resolve n k e car)

/-- `TRANSLATION_COMPLETE` (R353): the checks of a word, or what it does after them; a stop that has come to the head of
its context's bundles is taken (R356). A word that passes its checks and reaches a place of the CSR windows to which the
spec gives no register stops the model. -/
def execTranslationComplete (n id : Nat) (s : State) : Out1 :=
  match (s.core n).flight id with
  | none => .next s
  | some f =>
    match f.kind with
    | .check e car fs 0 _ =>
      if s.wordVerdict n f.ctx e car = .ok ∧ csrStop (accessOf e.instr).2 (s.resolve n f.ctx e car).spans = true then
        .refused .csrWindow
      else .next (s.checkFlight n f e car fs)
    | .check _ _ fs 3 _ =>
      .next ((s.pagingStop n f.ctx f.seq (fs.getD 0 0) (fs.getD 1 0)).askFrame (s.ctx n f.ctx).asn (fs.getD 0 0) (fs.getD 1 0))
    | .check e car fs st p => .next (s.passCheck n f.ctx f e car fs st p)
    | _ => .next s

/-- The firmware's writes to other peers that are not acknowledged. -/
def State.firmOut (s : State) : Bool := s.reqs.any fun r => r.kind == .firm

/-- The copies of tables that translation caches hold for an address space are dropped, and those on their way (R33, R43). -/
def State.dropTabs (s : State) (asn : Nat) : State :=
  { s with tabs := s.tabs.filter fun x => x.1 != asn
           reqs := s.reqs.filter fun r => match r.kind with | .table a _ => a != asn | _ => true }

/-- The frame entries, each with its plane entry, that `is` names go from every core's plane-frame cache and cluster's cache. -/
def State.dropKeys (s : State) (is : Nat → Bool) : State :=
  { s with
    cores := s.cores.map fun (n, c) => (n, { c with frames := c.frames.filter fun x => !is x })
    stk := vmap (fun (t : Stack) => { t with xl := t.xl.map fun (i, l) => (i, l.filter fun x => !(x % 2 == 1 && is (x / 2))) }) s.stk }

/-- The translation caches of an address space drop what they hold of a plane of a page (R43). -/
def State.dropEntry (s : State) (asn page plane : Nat) : State :=
  (s.dropTabs asn).dropKeys fun key => key == pageKey asn page * 16 + plane

/-- Bytes written by the firmware of stack 0: at their home in the package, else as a write cell for each line, acknowledged
before the command or the agent's work ends (R310). -/
def State.fwPut (s : State) (a : Nat) (l : List Byte) : State :=
  if ownFpa a then ((linesOf a l.length).foldl (fun s x => s.homeAccess x true) s).homePut a l
  else (linesOf a l.length).foldl (fun s line =>
    let lo := max a (line * 128)
    let hi := min (a + l.length) (line * 128 + 128)
    s.ask 0 By.none_ lo 2 .firm ((l.drop (lo - a)).take (hi - lo))) s

/-- `n` bytes that a command names: this package's memory as its cores have written it, or what the command brought of another's. -/
def State.sourceBytes (s : State) (x : Source) (n : Nat) : List Byte :=
  if ownFpa x.fpa then s.homeBytes x.fpa n else (List.range n).map fun i => x.bytes.getD i 0

/-- The paging agent looks at its work again. -/
def latAgain : Nat := 60

/-- The i-th place of a frame of a tier (R400; DESIGN CHOICE, log 11: always on a stack of this package): 1 MiB apart, in the first 64 GiB of a stack's fast tier, or in the capacity
slots of the groups. -/
def framePlace (tier i : Nat) : Option Nat :=
  let m := (Config.frameStart + i) % (8 * 65536)
  if tier = 2 then (if i < 8 * 65536 then some (peerOf (m % 8) * 2 ^ 45 + 0x20000000000 + m / 8 * 2 ^ 20) else none)
  else if i < 8 * 65536 then some (peerOf (m % 8) * 2 ^ 45 + m / 8 * 2 ^ 20) else none

/-- Where the agent lays a frame of a tier: the first place that no frame has, if there is one. -/
def State.freePlace (s : State) (tier : Nat) : Option Nat :=
  ((List.range (s.fw.frames.length + 1)).filterMap (framePlace tier)).find? fun a => !s.fw.frames.any fun f => f.fpa == a

/-- The primer of a plane in every element of a frame (R28, R37). -/
def primerBytes (pe : Nat) : List Byte :=
  let w := widthOf (nbits pe 1 4)
  let n := frameSize pe
  leBytes n ((List.range (8 * n / w)).foldl (fun acc i => acc + nbits pe 64 (min w 64) * 2 ^ (w * i)) 0)

/-- An engine command's wait for a frame has ended (R197, R358). -/
def Cmd.supplied (c : Cmd) (asn page plane : Nat) (refused : Bool) : Cmd :=
  if c.asn.toNat = asn ∧ c.stopped = some (page, plane) then
    { c with stopped := none, refused := if refused then some (page, plane) else none }
  else c

/-- Contexts stopped on a page and plane are Ready, and engine commands go on (R356, R357). -/
def State.wakeStops (s : State) (asn page plane : Nat) (refused : Bool) : State :=
  { s with
    fw := { s.fw with asked := s.fw.asked.filter fun q => q != (asn, page, plane) }
    cmds := s.cmds.map fun c => c.supplied asn page plane refused
    cores := s.cores.map fun (n, c) => (n,
      { c with ctxs := vmap (fun (x : Ctx) =>
          if x.asn = asn ∧ x.agent = some (.frame page plane) then
            { x.wakeFrom .paging with agent := none, refusals := if refused then x.refusals ++ [(page, plane)] else x.refusals }
          else x) c.ctxs }) }

/-- The local physical address of home page `k` of group `g` (R263). -/
def pageAddr (g k : Nat) : Nat := if k = 0 then g * 65536 else 0x20000000000 + ((k - 1) * groupCount + g) * 65536

/-- Whether home page `k` stands compressed in its slot. -/
def Remap.compressed (r : Remap) (k : Nat) : Bool :=
  if k = r.res.toNat then false
  else if k = 0 then r.cmp.getLsbD (r.res.toNat - 1)
  else r.cmp.getLsbD (k - 1)

/-- The CMP bit for the page of an own address (R269). -/
def State.pageCmp (s : State) (a : Nat) : Bool :=
  match homePage (a % 2 ^ 45) with
  | some (g, k) => ownFpa a && ((s.stack (stackAt a)).remapOf g).compressed k
  | none => false

/-- A frame allocated for a frame entry, if there is a place in the tier that TIER gives now (R37, R400): it is registered, and one of
TIER 1 asks for its pages to be pinned. A frame that the entry had in another tier or size is given up. -/
def State.allocate (s : State) (entry size tier : Nat) : Option (Frame × State) :=
  let new (s : State) : Option (Frame × State) := (s.freePlace tier).map fun a =>
    let fr : Frame := { entry := entry, fpa := a, size := size, tier := tier }
    (fr, s.keepFrame fr)
  match s.fw.frames.find? fun f => f.entry == entry with
  | some f => if f.tier = tier ∧ f.size = size then some (f, s) else new (s.dropFrame f)
  | none => new s

/-- The copies that the stacks of this package hold of a range of memory that now is another frame's are gone, and fills of it on
their way fill none (R38). -/
def State.forget (s : State) (a n : Nat) : State :=
  let out (l : Nat) : Bool := decide (l * 128 + 128 ≤ a) || decide (a + n ≤ l * 128)
  let late := s.reqs.filterMap fun r => match r.kind with | .fill t l _ _ => if out l then none else some (t, l) | _ => none
  { s with
    cores := s.cores.map fun (n, c) => (n, { c with l1 := c.l1.filter fun x => out x.line })
    stk := Vector.ofFn fun i : Fin 8 =>
      let t := s.stk[i]
      { t with remote := t.remote.filter (fun x => out x.line), bad := t.bad.filter out
               stale := (t.stale ++ (late.filter fun x => x.1 == i.val).map (·.2)).dedup } }

/-- What a frame is filled with: the primer, or the page read back (R37, R356). -/
def supplyBytes (r : PageSupply) (pe fe : Nat) : List Byte :=
  if nbits fe 63 1 = 1 then primerBytes pe
  else (r.content.getD ((List.range (frameSize pe)).map fun i => Config.backing r.asn r.page r.plane i)).take (frameSize pe)

/-- A frame entry with FPA and P set, and CMP as its page has it. -/
def entryWith (fe fpa : Nat) (cmp : Bool) : Nat :=
  fe - nbits fe 0 58 + fpa % 2 ^ 57 + 2 ^ 57 - nbits fe 62 1 * 2 ^ 62 + (if cmp then 2 ^ 62 else 0)

/-- What the agent makes of a supply: done, refused, or to be looked at again once a table's line, an acknowledgement or the end of
a swap has come. -/
inductive Supplied where
  | done (refused : Bool) (s : State)
  | again (s : State)

/-- The agent's work on a page and plane (R356 to R358, R400): a frame allocated and its pages pinned, filled, FPA and P set in its
frame entry. A plane deleted meanwhile gets no frame; without a place, and for a refusal, none is supplied. -/
def State.supplyStep (s : State) (r : PageSupply) : Supplied :=
  if !r.ok then .done true s
  else
    match s.pageEntries r.asn r.page r.plane with
    | .need l => .again (s.farTable 0 r.asn l)
    | .bad => .done false s
    | .ok e pe fe =>
      if s.firmOut then .again s
      else if nbits pe 0 1 = 0 ∨ nbits fe 57 1 = 1 then .done false s
      else
        match s.allocate (frameAddr e r.plane) (frameSize pe) (nbits fe 60 2) with
        | none => .done true s
        | some (f, s1) =>
          if f.tier = 1 ∧ s1.pinned (stackAt f.fpa) (f.fpa % 2 ^ 45) f.size = false then .again s1
          else
            let s2 := (((s1.forget f.fpa f.size).fwPut f.fpa (supplyBytes r pe fe)).fwPut f.entry
              (leBytes 16 (entryWith fe f.fpa (s1.pageCmp f.fpa)))).dropEntry r.asn r.page r.plane
            if s2.firmOut then .again s2 else .done false s2

/-- A page supplied: every attached stop is released, and a refusal is kept with each stopped context. -/
def State.supplyPage (s : State) (r : PageSupply) : State :=
  match s.supplyStep r with
  | .done refused s1 => s1.wakeStops r.asn r.page r.plane refused
  | .again s1 => s1.after latAgain (.pagingComplete r)

/-- `PAGING_COMPLETE` (R356 to R358). -/
def execPagingComplete (r : PageSupply) (s : State) : Out1 := .next (s.supplyPage r)

/-! ### Tenant planes (R171, R359) -/

/-- The fabric physical address of plane set `i` of an address space, if it has a plane set table (R23). -/
def State.setAddr (s : State) (asn i : Nat) : Option Nat := (s.space asn).base.map fun b => b + 256 * i

/-- Cause 37's `TRAPVAL` (R359). -/
def planeVal (q i : Nat) : Dword := BitVec.ofNat 64 (q % 16 * 2 ^ 60 + i % 4096)

/-- What a search of tables gives: what it found, and the lines that it lacks. -/
structure Found where
  got : List Nat
  need : List Nat
  deriving DecidableEq, Repr

/-- Searches joined. -/
def Found.all (l : List Found) : Found := { got := l.flatMap (·.got), need := l.flatMap (·.need) }

/-- One table entry's part in a search: `f` says what a good entry gives. -/
def Rd.found (f : Nat → List Nat) : Rd → Found
  | .ok v => { got := f v, need := [] }
  | .bad => { got := [], need := [] }
  | .need l => { got := [], need := [l] }

/-- The tables that the valid entries of directories of `n` entries name (R32). -/
def State.dirTables (s : State) (asn n : Nat) (x : Found) : Found :=
  let y := Found.all (x.got.flatMap fun table => (List.range n).map fun i => (s.dirStep asn table i).found fun t => [t])
  { y with need := x.need ++ y.need }

/-- Every valid leaf entry of an address space (R32). -/
def State.leaves (s : State) (asn : Nat) : Found :=
  match (s.space asn).root with
  | none => { got := [], need := [] }
  | some root =>
    let x := s.dirTables asn 1024 (s.dirTables asn 1024 (s.dirTables asn 2048 { got := [root], need := [] }))
    let y := Found.all (x.got.flatMap fun leaf => (List.range 1024).map fun i =>
      (s.tab asn (leaf + 16 * i) 16).found fun e => if nbits e 0 1 = 1 then [e] else [])
    { y with need := x.need ++ y.need }

/-- Frame entries by address as tables hold them, and the lines that are lacking, each with its address space. -/
structure Entries where
  got : List (Nat × Nat)
  need : List (Nat × Nat)
  deriving DecidableEq, Repr

/-- The frame entries of planes `qs` in the vectors of the pages of an address space whose leaf entries `is` names. -/
def State.vectorEntries (s : State) (asn : Nat) (is : Nat → Bool) (qs : List Nat) : Entries :=
  let l := s.leaves asn
  let mine := (l.got.filter is).flatMap fun e => qs.map fun q => (frameAddr e q, s.tab asn (frameAddr e q) 16)
  { got := mine.filterMap fun x => match x.2 with | .ok fe => some (x.1, fe) | _ => none
    need := (l.need ++ mine.filterMap fun x => match x.2 with | .need y => some y | _ => none).map fun y => (asn, y) }

/-- The frames of plane `q` in the pages of an address space that name plane set `i`, and every frame entry of every vector, of whatever
address space and plane, that names one of them (R33). -/
def State.planeFrames (s : State) (asn i q : Nat) : Entries :=
  let own := s.vectorEntries asn (fun e => nbits e 1 12 == i) [q]
  let fpas := (own.got.filter fun x => nbits x.2 57 1 == 1).map fun x => nbits x.2 0 57
  if fpas.isEmpty then { got := [], need := own.need }
  else
    let all := s.spaces.map fun sp => s.vectorEntries sp.1 (fun _ => true) (List.range 16)
    { got := ((all.flatMap (·.got)).filter fun x => nbits x.2 57 1 == 1 && fpas.contains (nbits x.2 0 57)).dedup
      need := own.need ++ all.flatMap (·.need) }

/-- The frames of a deleted plane reclaimed (R33): P, CMP and FPA of each frame entry cleared; where other address spaces or planes name
them, the translation caches drop these entries too. -/
def State.reclaim (s : State) (l : List (Nat × Nat)) : State :=
  let s1 := l.foldl (fun s x =>
    (s.fw.frames.filter fun f => f.entry == x.1).foldl (fun s f => s.dropFrame f)
      (s.fwPut x.1 (leBytes 16 (x.2 - nbits x.2 0 58 - nbits x.2 62 1 * 2 ^ 62)))) s
  let is (key : Nat) : Bool :=
    match (s.space (key / 16 / 2 ^ 41)).root.map fun root => s.walk (key / 16 / 2 ^ 41) root (key / 16 % 2 ^ 41) with
    | some (.ok e) => l.any fun x => x.1 == frameAddr e (key % 16)
    | _ => false
  if l.isEmpty then s1 else (s1.spaces.foldl (fun s a => s.dropTabs a.1) s1).dropKeys is

/-- Stops on a deleted plane end without a frame (R357). -/
def State.endStops (s : State) (asn i q : Nat) : State :=
  let mine (r : Nat × Nat × Nat) : Bool :=
    r.1 == asn && r.2.2 == q && (match s.pageEntries asn r.2.1 q with | .ok e _ _ => nbits e 1 12 == i | _ => false)
  (s.fw.asked.filter mine).foldl (fun s r => s.wakeStops asn r.2.1 q false) s

/-- The translation caches drop their copies of a plane of an address space (R33). -/
def State.dropPlane (s : State) (asn q : Nat) : State :=
  (s.dropTabs asn).dropKeys fun key => key / 16 / 2 ^ 41 == asn && key % 16 == q

/-- Whether a plane instruction breaks R359, given entry 0 and entry `q`: op 0 `PCRT`, 1 `PDEL`, 2 `PPRT`. -/
def planeOpBad (op q e0 eq : Nat) : Bool :=
  decide (q < 8) ||
  (if op = 0 then nbits eq 0 1 == 1 || decide (nbits e0 32 4 ≤ nbits e0 36 4) else nbits eq 0 1 == 0 || nbits eq 11 1 == 0)

/-- Plane entry `q` after a plane instruction (R33, R171). -/
def planeOpEntry (op eq : Nat) (spec primer : Dword) : Nat :=
  match op with
  | 0 => 1 + fld spec 1 10 * 2 + 2 ^ 11 + primer.toNat * 2 ^ 64
  | 1 => eq - nbits eq 0 1
  | _ => eq - nbits eq 9 2 * 2 ^ 9 + fld spec 9 2 * 2 ^ 9

/-- The core sees the plane instruction of a context answered: its bundle may retire and the context goes on. -/
def State.answered (s : State) (n k : Nat) : State :=
  { (s.updCtx n k fun x =>
      { x.wakeFrom .plane with agent := none, ckpts := x.ckpts.map fun q => { q with agent := false } }) with
    fw := { s.fw with planes := s.fw.planes.filter fun x => x != (n, k) } }

/-- A plane instruction applied (R33): the entry, TCNT, and after `PDEL` the reclaimed frames `l`. -/
def State.applyPlane (s : State) (asn a op i q e0 eq : Nat) (spec primer : Dword) (l : List (Nat × Nat)) : State :=
  let s1 := s.fwPut (a + 16 * q) (leBytes 16 (planeOpEntry op eq spec primer))
  let cnt := nbits e0 36 4
  match op with
  | 0 => (s1.fwPut (a + 4) (leBytes 1 (nbits e0 32 4 + (cnt + 1) * 16))).dropPlane asn q
  | 1 => (((s1.fwPut (a + 4) (leBytes 1 (nbits e0 32 4 + (cnt - 1) * 16))).reclaim l).endStops asn i q).dropPlane asn q
  | _ => s1.dropPlane asn q

/-- The agent looks at a context's plane instruction again. -/
def State.planeAgain (s : State) (n k : Nat) : State := s.after latAgain (.planeAgentAnswer n k)

/-- A plane instruction whose turn has come (R359): applied, refused with cause 37 in slot 0 of its bundle, or waiting for lines of
tables on other peers. -/
def State.planeStep (s : State) (n k op i q : Nat) (spec primer : Dword) (seq : Nat) : State :=
  let asn := (s.ctx n k).asn
  let bad := (s.answered n k).raiseAt n k seq 0 37 (planeVal q i)
  match s.setAddr asn i with
  | none => bad
  | some a =>
    match s.tab asn a 16, s.tab asn (a + 16 * q) 16 with
    | .need l, _ => (s.farTable 0 asn l).planeAgain n k
    | _, .need l => (s.farTable 0 asn l).planeAgain n k
    | .ok e0, .ok eq =>
      if planeOpBad op q e0 eq then bad
      else
        let l : Entries := if op = 1 then s.planeFrames asn i q else { got := [], need := [] }
        (match l.need with
         | [] =>
           let s1 := s.applyPlane asn a op i q e0 eq spec primer l.got
           if s1.firmOut then (s1.updCtx n k fun x => { x with agent := some (.applied q seq) }).planeAgain n k else s1.answered n k
         | m => (m.foldl (fun s x => s.farTable 0 x.1 x.2) s).planeAgain n k)
    | _, _ => bad

/-- `PLANE_AGENT_ANSWER` (R359): the operations are applied one at a time, in the order in which they arrived. Once the writes of one are
acknowledged, what the translation caches have read meanwhile of the old descriptor is dropped too, so that every access translated
after its completion uses the new one (R33, R34). -/
def execPlaneAgentAnswer (n k : Nat) (s : State) : Out1 :=
  let s0 : State := if s.fw.planes.contains (n, k) then s else { s with fw := { s.fw with planes := s.fw.planes ++ [(n, k)] } }
  .next (match (s.ctx n k).agent with
    | some (.plane op i q spec primer seq) =>
      if s0.fw.planes.head? = some (n, k) ∧ s0.firmOut = false then s0.planeStep n k op i q spec primer seq else s0.planeAgain n k
    | some (.applied q _) => if s0.firmOut then s0.planeAgain n k else (s0.dropPlane (s0.ctx n k).asn q).answered n k
    | _ => { s with fw := { s.fw with planes := s.fw.planes.filter fun x => x != (n, k) } })

/-! ### Random rows (R83) and spill space (R373) -/

/-- `RQ_REFILL`: one more row of `rq`, up to 8. -/
def execRqRefill (n k : Nat) (s : State) : Out1 :=
  .next (s.updCore n fun c =>
    { c with filled := c.filled ||| BitVec.ofNat 4 (2 ^ (k % 4)) }.updCtx k fun x => x.changeAll fun a => { a with rqn := min 8 (a.rqn + 1) })

/-- `SPILL_SPACE_ALLOCATED`: the space stands, the word is placed, the writer goes on. Where every acknowledgement has come meanwhile the
word goes at once, since none would send it (DEDUCED from R373, log 72), and none is kept for an end that has broken meanwhile (R372). -/
def execSpillSpaceAllocated (n k ep : Nat) (s : State) : Out1 :=
  .next (match (s.ctx n k).agent with
    | some (.spill e w) =>
      if e = ep then
        let s1 := s.updCtx n k fun x => { x.wakeFrom .spill with agent := none }.setChan ep { x.chan ep with space := true }
        let c := (s1.ctx n k).chan ep
        if c.broken.isSome then s1
        else if c.sent = 0 ∧ c.spill = [] then s1.sendWord n k ep w
        else s1.updCtx n k fun x => x.setChan ep { x.chan ep with spill := (x.chan ep).spill ++ [w] }
      else s
    | _ => s)

end Sys2Proof.Machine
end

