-- ==== Sys2Proof/Machine/FrontEnd.lean ====
section
/-!
DEFINITION. The front end: fetch (R66, R67, R401), the header's and the bundle's checks (R330, R333 to R338), what
blocks or stalls a bundle (R54, R69, R72, R84, R320), dispatch (R68 to R75, R87, R88), and the choice of the current
context (R55, R56).
-/

namespace Sys2Proof.Machine

/-! ### Fetch -/

/-- What fetching bytes gives: the bytes and a poisoned line among them, or why there are none: a fault, a missing frame, a line of
tables or of the code that another peer holds, or no bundle at all. -/
inductive Fetch where
  | ok (l : List Byte) (poison : Option Dword)
  | fault (cause : Nat) (va : Dword)
  | stop (page plane : Nat)
  | table (line : Nat)
  | need (line : Nat)
  | never
  deriving DecidableEq, Repr

/-- The number under which lines come for fetch, where a flight's stands for a word's reads. -/
def fetchId : Nat := 2 ^ 80

/-- One byte of code at `va` for context `k` of core `n` (R401). -/
def State.fetchByte (s : State) (n k : Nat) (va : Dword) : Fetch :=
  let x := s.ctx n k
  let tr := s.translate x.asn va true false
  match verdictOf x.refusals va tr with
  | .fault c v => .fault c v
  | .stop p q => .stop p q
  | .need l => .table l
  | .ok =>
    match tr with
    | .loc a _ _ =>
      (match s.seenBy n fetchId false a with
       | none => .need (lineOf a)
       | some (v, bad) => .ok [v] (if bad then some (poisonVal n a) else none))
    | r => .ok [BitVec.ofNat 8 (s.elemAt n fetchId false r.elem).1] none

/-- `n` bytes of the byte buffer at `va`, for context `k` of core `n0` (R401). -/
def State.fetch (s : State) (n0 k : Nat) (va : Dword) : Nat → Fetch
  | 0 => .ok [] none
  | n + 1 =>
    match s.fetchByte n0 k va with
    | .ok l p => (match s.fetch n0 k (va + 1) n with | .ok m q => .ok (l ++ m) (p.or q) | r => r)
    | r => r

/-- The 32-bit word at the start of bytes. -/
def wordOf (l : List Byte) : Word := BitVec.ofNat 32 (leNat (l.take 4))

/-- The filler word (R67). -/
def filler : Word := 0x800

/-- The present slots of a header, ascending (R66). -/
def slotsOf (hdr : Word) : List Nat := (List.range 8).filter fun i => hdr.getLsbD i

/-- The port field of read port `p` (R66). -/
def paOf (hdr : Word) (p : Nat) : Nat := fld hdr (12 + 3 * p) 3

/-- The read ports that a header allots to a slot (R76). -/
def portsOf (hdr : Word) (slot : Nat) : List Nat := (List.range 6).filter fun p => paOf hdr p == slot

/-- A bundle crosses its fetch block, or does not start on a word (R67). -/
def crosses (pc : Dword) (hdr : Word) : Bool :=
  decide (64 < pc.toNat % 64 + 4 + 4 * popCount 8 hdr.toNat) || pc.toNat % 4 != 0

/-- The decoder of a slot's words. -/
def slotMapOf (i : Nat) : SlotMap := match i with | 0 => .s | 1 => .l | 2 => .t | 3 => .m | 4 => .v | 5 => .v | 6 => .x | _ => .k

/-- A slot word as the front end holds it: its slot, its bits and the instruction it decodes to, if any. -/
structure SlotWord where
  slot : Nat
  raw : Word
  instr : Option Instr
  deriving DecidableEq, Repr

/-- The slot words of a bundle. -/
def slotWords (hdr : Word) (l : List Byte) : List SlotWord :=
  (List.zip (List.range 8) (slotsOf hdr)).map fun x =>
    let raw := wordOf (l.drop (4 * x.1))
    { slot := x.2, raw := raw
      instr := match decodeWord (slotMapOf x.2) raw.toNat with | .ok i => some i | .error _ => none }

/-- Whether the header is unassigned as it stands, before any of its words is fetched (R330, R333). -/
def headerAlone (pc : Dword) (hdr : Word) : Bool :=
  fld hdr 30 2 != 0 || ((List.range 6).any fun p => paOf hdr p == 1 || paOf hdr p == 7) ||
  (hdr.getLsbD 11 && hdr != filler) || (hdr.getLsbD 10 && !hdr.getLsbD 0) || crosses pc hdr

/-- The opcode of a slot word (R68). -/
def opOf (w : Word) : Nat := fld w 26 6

/-- Whether the header is unassigned (R333): as it stands, or a wait bundle's whose S word is not a `WSEL` (OP 23). -/
def headerBad' (pc : Dword) (hdr : Word) (ws : List SlotWord) : Bool :=
  headerAlone pc hdr || (hdr.getLsbD 10 && !(match ws with | w :: _ => w.slot == 0 && opOf w.raw == 23 | [] => false))

/-! ### Passing over bundles and fillers (R67, R87, R150) -/

/-- The words of the address space: where that many bundles and fillers are passed over, none dispatches ever. -/
def spaceWords : Nat := 2 ^ 62

/-- What stands at the pc once fillers and passed-over bundles are behind, which takes no cycle (R67, R87): the state, and
the header's fetch. -/
def State.passOver (s : State) (n k : Nat) : Nat → State × Fetch
  | 0 => (s, .never)
  | fuel + 1 =>
    let a := (s.ctx n k).arch
    match s.fetch n k a.pc 4 with
    | .ok l p =>
      let hdr := wordOf l
      if hdr = filler then
        ((s.updCtx n k fun x => { x with arch := { x.arch with pc := x.arch.pc + 4 } }).passOver n k fuel)
      else if a.skip = 0 then (s, .ok l p)
      else
        let next := afterBundle a.pc hdr
        ((s.updCtx n k fun x =>
          let b := x.arch.passBundle next
          { x with arch := if b.skip = 0 then Arch.settleLoops b.loops b else b }).passOver n k fuel)
    | r => (s, r)

/-! ### Return from a trap into a loop (R87, R324, R342) -/

/-- How many of the `left` bundles of a body from `va` on stand before `target`, fillers not counted; none where `target`
begins none of them, nor stands after them, or a header cannot be read (log 43). -/
def State.bundlesBefore (s : State) (n k : Nat) (target : Dword) : Nat → Nat → Dword → Option Nat
  | 0, _, _ => none
  | fuel + 1, left, va =>
    if va = target then some 0
    else
      match left, s.fetch n k va 4 with
      | m + 1, .ok l _ =>
        let hdr := wordOf l
        if hdr = filler then s.bundlesBefore n k target fuel (m + 1) (va + 4)
        else (s.bundlesBefore n k target fuel m (afterBundle va hdr)).map (· + 1)
      | _, _ => none

/-- An open body whose position is that of the pc, where a handler has moved `TRAPPC` past a bundle of it. -/
def State.placed (s : State) (r : LoopRec) : LoopRec :=
  match s.bundlesBefore s.act.core s.act.ctx s.arch.pc 4096 r.len r.start with
  | some p => { r with pos := p }
  | none => r

/-- `RTE` (R148, R324, R344). -/
def execRte (_h : BitVec 1) (p : BitVec 3) (s : State) : Out1 :=
  sWord p (fun s =>
    let s1 := s.onArch Arch.rte
    (s1.onArch fun a => { a with loops := a.loops.map s1.placed }).delay3) s

/-! ### What the words of a bundle touch (R336) -/

/-- The accesses of a word that is not a repeat. -/
def wordAccs (a : Arch) (slot : Nat) (wait : Bool) (i : Instr) : List GroupAcc :=
  let f := info i
  let p := (holdPred i).2
  let rd (r : RegRef) : GroupAcc := { slot := slot, reg := r, wr := false }
  let wr (r : RegRef) : GroupAcc := { slot := slot, reg := r, wr := true }
  (if wait || p = 0 then [] else [rd (.p p.toNat)]) ++
  (f.psrc.map fun r => rd (.p r.toNat)) ++ (f.scalars.map fun r => rd (.s r.toNat)) ++
  (match f.dst with | some d => if d = 0 then [] else [wr (.s d.toNat)] | none => []) ++
  (match f.pdst with | some d => if d = 0 then [] else [wr (.p d.toNat)] | none => []) ++
  (match f.addr with | .stream m => [if a.streamUses m then wr (.a m.toNat) else rd (.a m.toNat)] | _ => []) ++
  (match f.strR with | some m => [rd (.a m.toNat)] | none => []) ++
  (match f.strW with | some m => [wr (.a m.toNat)] | none => []) ++
  (match f.lvW with | some v => [wr (.lv v.toNat)] | none => []) ++
  (match f.csrR with
   | some c => rd (.csr c) :: (if 0x020 ≤ c ∧ c ≤ 0x025 then [rd (.lv (c - 0x020))] else []) | none => []) ++
  (match f.csrW with | some c => [wr (.csr c)] | none => [])

/-- The accesses of a repeat: its predicate, its streams, its destination. -/
def repeatAccs (a : Arch) (slot : Nat) (i : Instr) : List GroupAcc :=
  let f := info i
  let p := (holdPred i).2
  (if p = 0 then [] else [{ slot := slot, reg := .p p.toNat, wr := false }]) ++
  (match f.dst with | some d => if d = 0 then [] else [{ slot := slot, reg := .s d.toNat, wr := true }] | none => []) ++
  (match f.addr with | .stream m => [{ slot := slot, reg := .a m.toNat, wr := a.streamUses m }] | _ => [])

/-- Whether two accesses break the issue-group rule. -/
def GroupAcc.clash (x y : GroupAcc) : Bool := x.slot != y.slot && x.reg == y.reg && (x.wr || y.wr)

/-- The slots whose access is the second of two that clash, the accesses taken in order after those of the group. -/
def clashes : List GroupAcc → List GroupAcc → List Nat
  | _, [] => []
  | g, x :: r => if g.any fun y => x.clash y then x.slot :: clashes (g ++ [x]) r else clashes (g ++ [x]) r

/-! ### The bundle as it is presented -/

/-- A bundle presented to dispatch: header address and word, the words that take part now, the repeats, whether it is a
wait bundle that completes now or not one, and the repeats that go with the bundle once it completes. -/
structure Shown where
  pc : Dword
  hdr : Word
  all : List SlotWord
  now : List (SlotWord × Instr)
  reps : List (Nat × Hold)
  whole : Bool
  held : List (Nat × Hold)
  deriving DecidableEq, Repr

/-- The flag that a word of a wait bundle waits for (R75): 32 × X plus the field of its PQ; none for 4 to 7. -/
def waitFlag (w : Instr) (p : BitVec 3) : Option Nat :=
  match w with
  | .wsel _ _ x a b c d =>
    (match p.toNat with
     | 0 => some (32 * x.toNat + a.toNat) | 1 => some (32 * x.toNat + b.toNat)
     | 2 => some (32 * x.toNat + c.toNat) | 3 => some (32 * x.toNat + d.toNat) | _ => none)
  | _ => none

/-- The words of the bundle at `pc` that have entered: the record is of one wait bundle and outlasts a handler (R75, R325). -/
def Arch.enteredAt (a : Arch) (pc : Dword) : BitVec 8 := if a.entAt = pc then a.entered else 0

/-- The words of a bundle that take part in this presentation, and the repeats that go with them. -/
def Core.shown (c : Core) (k : Nat) (pc : Dword) (hdr : Word) (ws : List SlotWord) : Shown :=
  let x := c.ctx k
  let a := x.arch
  let dec := ws.filterMap fun w => w.instr.map fun i => (w, i)
  let reps := (List.range 8).filterMap fun i => if hdr.getLsbD i then none else (a.holdOf i).map fun h => (i, h)
  if hdr.getLsbD 10 then
    let sel := match ws with | w :: _ => w.instr.getD (.nopS 0 0) | [] => .nopS 0 0
    let left := dec.filter fun w => w.1.slot == 0 || !(a.enteredAt pc).getLsbD w.1.slot
    let go := left.filter fun w => w.1.slot == 0 ||
      (match waitFlag sel (holdPred w.2).2 with | none => true | some f => (c.flg &&& x.flagMask).getLsbD f)
    let whole := go.length == left.length
    { pc := pc, hdr := hdr, all := ws, now := go, reps := if whole then reps else [], whole := whole, held := reps }
  else { pc := pc, hdr := hdr, all := ws, now := dec, reps := reps, whole := true, held := reps }

/-- The words of the bundle that decode, entered or not. -/
def Shown.words (b : Shown) : List (SlotWord × Instr) := b.all.filterMap fun w => w.instr.map fun i => (w, i)

/-- Whether a word is dropped on a false predicate (R68); a word of a wait bundle has none. -/
def Shown.drops (b : Shown) (a : Arch) (i : Instr) : Bool := !b.hdr.getLsbD 10 && !a.getP ((holdPred i).2.setWidth 4)

/-- The words that enter their queues: slots 1 to 7, not dropped. -/
def Shown.entering (b : Shown) (a : Arch) : List (Nat × Instr) :=
  (b.now.filter fun w => w.1.slot != 0 && !b.drops a w.2).map fun w => (w.1.slot, w.2)

/-- The repeats that enter theirs. -/
def Shown.repeating (b : Shown) (a : Arch) : List (Nat × Instr) :=
  (b.reps.filter fun r => a.getP ((holdPred r.2.instr).2.setWidth 4)).map fun r => (r.1, r.2.instr)

/-- The S word that acts: present and not dropped. -/
def Shown.sWord (b : Shown) (a : Arch) : Option Instr :=
  (b.now.find? fun w => w.1.slot == 0 && !b.drops a w.2).map (·.2)

/-! ### Dispatch faults (R321, R330, R333, R335 to R338) -/

/-- The open part of a wait bundle at `pc` (R75): the checkpoint of its first presentation. -/
def Ctx.openPart (x : Ctx) (pc : Dword) : Option Ckpt :=
  match x.ckpts.getLast? with | some q => if q.wait && q.pc == pc then some q else none | none => none

/-- The issue group before the bundle at `pc` (R73). -/
def Ctx.groupAt (x : Ctx) (pc : Dword) : Group := match x.openPart pc with | some q => q.arch.grp | none => x.arch.grp

/-- The port faults of a bundle, by slot (R337); of a wait bundle all its words count, with the repeats that it will carry. -/
def Shown.portFaults (b : Shown) (a : Arch) : List Nat :=
  let reads (i : Nat) : Bool := i == 2 || i == 3 || i == 4 || i == 5 || i == 6
  (b.words.filterMap fun w =>
    if reads w.1.slot && !b.drops a w.2 && (portsOf b.hdr w.1.slot).length != (info w.2).portCount then some w.1.slot else none) ++
  ((List.range 6).filterMap fun p =>
    let v := paOf b.hdr p
    if v ≠ 0 ∧ !(b.hdr.getLsbD v || b.held.any fun r => r.1 == v) then some v else none) ++
  (b.held.flatMap fun r => r.2.ports.filterMap fun p =>
    let v := paOf b.hdr p
    if v ≠ 0 ∧ v ≠ r.1 then some (min v r.1) else none)

/-- The lane-pool fault (R222, R338): the highest vector slot. Words that a wait bundle has entered before count. -/
def Shown.laneFault (b : Shown) (a : Arch) : List Nat :=
  let l := ((b.words.filter fun w => !b.drops a w.2).map (fun w => (w.1.slot, w.2)) ++ b.repeating a).filter fun w =>
    decide (4 ≤ w.1) && decide (w.1 ≤ 6)
  if 4096 < l.foldl (fun t w => t + (info w.2).width) 0 then [l.foldl (fun m w => max m w.1) 0] else []

/-- The accesses of a bundle, in slot order (R336): of a wait bundle all its words', whenever each enters. -/
def Shown.accs (b : Shown) (a : Arch) : List GroupAcc :=
  (List.range 8).flatMap fun i =>
    (b.words.filter fun w => w.1.slot == i && !b.drops a w.2).flatMap (fun w => wordAccs a i (b.hdr.getLsbD 10) w.2) ++
    (b.reps.filter fun r => r.1 == i && a.getP ((holdPred r.2.instr).2.setWidth 4)).flatMap fun r => repeatAccs a i r.2.instr

/-- The word of a slot as `TRAPVAL` shows it (R322): its own, or the held one's. -/
def Shown.low (b : Shown) (i : Nat) : Word :=
  match b.all.find? fun w => w.slot == i with
  | some w => w.raw
  | none => (match b.held.find? fun r => r.1 == i with | some r => r.2.raw | none => 0)

/-- The word that acts in an engine's slot: present and not dropped, or a repeat. -/
def Shown.acting (b : Shown) (a : Arch) (i : Nat) : Option Instr :=
  (((b.words.filter fun w => !b.drops a w.2).map (fun w => (w.1.slot, w.2)) ++ b.repeating a).find? fun w => w.1 == i && i != 0).map (·.2)

/-- Every dispatch fault as slot, cause and low word of `TRAPVAL`: unassigned words; a ninth bundle, as a header fault;
clashes in the group; ports; the lane pool; and of a word with cause 18 or 19 the limit that it breaks too (R321, R335), where `more`
says whether it breaks one by what its operands name. -/
def Shown.faults (b : Shown) (x : Ctx) (more : Instr → Bool) : List (Nat × Nat × Word) :=
  let a := x.arch
  let g := x.groupAt b.pc
  let l := ((clashes g.accs (b.accs a)).map fun i => (i, 18, b.low i)) ++ ((b.portFaults a).map fun i => (i, 19, b.low i))
  ((b.all.filter fun w => w.instr.isNone).map fun w => (w.slot, 16, w.raw)) ++ (if 8 ≤ g.n then [(0, 18, 0)] else []) ++ l ++
  ((b.laneFault a).map fun i => (i, 17, b.low i)) ++
  l.filterMap fun f => match b.acting a f.1 with | some i => if limitBad a i || more i then some (f.1, 17, b.low f.1) else none | none => none

/-- Whether a word of context `k` breaks a limit by what its operand names: an `MCHN` (R219), a `TAKE` (R293). -/
def State.namesBad (s : State) (n k : Nat) (i : Instr) : Bool :=
  match i with
  | .mchn _ _ r => chainBad (n % 8) ((s.ctx n k).arch.getS r)
  | .take _ _ _ w => !s.netConfigured { set := (s.ctx n k).bnd.bind Bind.domain, net := w.toNat }
  | _ => false

/-- The fault of the lowest slot, and of that slot the lowest cause. -/
def lowestFault : List (Nat × Nat × Word) → Option (Nat × Nat × Word)
  | [] => none
  | x :: r => match lowestFault r with
    | none => some x
    | some y => if x.1 < y.1 ∨ (x.1 = y.1 ∧ x.2.1 ≤ y.2.1) then some x else some y

/-- A bundle that is not to retire stands unretired until its trap is taken: its checkpoint, unless it is the open part of a
wait bundle, and its number. -/
def State.trapBundle (s : State) (n k : Nat) (pc : Dword) (hdr : Word) : State × Nat :=
  let x := s.ctx n k
  match x.openPart pc with
  | some q => (s, q.seq)
  | none =>
    (s.updCtx n k fun x =>
      { x with seq := x.seq + 1
               ckpts := x.ckpts ++ [{ seq := x.seq, pc := pc, hdr := hdr, arch := x.arch, quiet := x.arch.quiet, agent := false,
                                      wait := false }] }, x.seq)

/-- A fault of the header or of the fetch: the bundle enters nothing. -/
def State.dispatchFault (s : State) (n k : Nat) (pc : Dword) (hdr : Word) (slot cause : Nat) (val : Dword) : State :=
  let (s1, seq) := s.trapBundle n k pc hdr
  s1.raiseAt n k seq slot cause val

/-! ### What blocks a bundle (R54) -/

/-- Whether a register of a word is pending from a non-S engine (R70). -/
def pendingOf (a : Arch) (rep : Bool) (i : Instr) : Bool :=
  ((if rep then [] else (info i).scalars) ++ (info i).dst.toList).any fun r => a.pend.getLsbD r.toNat

/-- Commands of a class that stand in a core's queue or are on their way to it (R197). -/
def State.commandCount (s : State) (n : Nat) (cls : BitVec 3) : Nat :=
  let c := s.core n
  let is (i : Instr) : Bool := cmdClass i == some cls
  (s.cmds.filter fun q => q.core == n && q.cls == cls && !q.started).length +
  (c.queue.filter fun e => is e.instr).length + (c.held.filter fun h => is h.entry.instr).length +
  (c.ctxs.toList.foldl (fun t x => t + (x.wq.filter fun h => is h.entry.instr).length) 0)

/-- The capacity of a command queue (R197). -/
def commandRoom (cls : BitVec 3) : Nat := if cls = 2 then 4 else 8

/-- `TAKE` words of a context that have not returned (R202). -/
def Core.takesOut (c : Core) (k : Nat) : Nat :=
  let is (i : Instr) : Bool := match i with | .take _ _ _ _ => true | _ => false
  (c.queue.filter fun e => e.ctx == k && is e.instr).length + (c.held.filter fun h => h.entry.ctx == k && is h.entry.instr).length +
  ((c.ctx k).wq.filter fun h => is h.entry.instr).length + (c.flights.filter fun f => f.ctx == k && is f.instr).length

/-- The domain object of a reference, where this package holds it. -/
def State.domAt (s : State) (o : DomRef) : Option Dom :=
  if o.peer / 8 = Config.pkg then ((s.stack (o.peer % 8)).doms.find? fun d => d.1 == o.obj).map (·.2) else none

/-- Whether the domain of a `SYNCD` is broken (R370). -/
def State.brokenDom (s : State) (a : Arch) (v : BitVec 3) : Option BreakWhy :=
  let d := a.dml v.toNat
  if v = 0 ∨ fld d 0 3 = 0 then none
  else if s.gone.contains (dmlObj d).peer then some { kind := 4, party := { peer := (dmlObj d).peer, core := 255, ctx := 0 } }
  else match s.domAt (dmlObj d) with
    | some o => o.broken
    | none => (s.farBroken.find? fun b => b.1 == dmlObj d).map (·.2)

/-- The broken-wait status word (R368). -/
def brokenStatus (w : BreakWhy) (lvl ep net : Nat) : Dword :=
  BitVec.ofNat 64 (w.kind.toNat * 2 ^ 60 + lvl % 8 * 2 ^ 57 + ep % 8 * 2 ^ 54 + net % 16 * 2 ^ 44 + w.party.peer % 2 ^ 12 * 2 ^ 32 +
    w.party.core % 256 * 2 ^ 24 + w.party.ctx % 4 * 2 ^ 22)

/-- The broken object that an S word meets at presentation, as a status word (R368, R369, R370, R372). -/
def State.brokenAt (s : State) (n k : Nat) (i : Instr) : Option Dword :=
  let x := s.ctx n k
  match i with
  | .syncd _ _ v => (s.brokenDom x.arch v).map fun w => brokenStatus w (if w.kind = 1 ∨ w.kind = 4 then v.toNat else 0) 0 0
  | .chrd _ _ _ e =>
    let c := x.chan e.toNat
    if c.recv.isEmpty then c.broken.map fun w => brokenStatus w 0 e.toNat 0 else none
  | .chwr _ _ _ e => (x.chan e.toNat).broken.map fun w => brokenStatus w 0 e.toNat 0
  | _ => none

/-- The broken domain of a `SYNCD` that has dispatched and waits, at the presentation of a later bundle (R369). -/
def State.brokenSync (s : State) (n k : Nat) : Option Dword :=
  let x := s.ctx n k
  (if x.arch.ih then x.sync.toList else x.syncs).findSome? fun w =>
    (s.brokenDom x.arch w.lv).map fun b => brokenStatus b (if b.kind = 1 ∨ b.kind = 4 then w.lv.toNat else 0) 0 0

/-- The channel wait of an S word: whether it reads, and the endpoint (R374). -/
def chanOn (i : Option Instr) : Option (Bool × Nat) :=
  match i with
  | some (.chrd _ _ _ e) => some (true, e.toNat)
  | some (.chwr _ _ _ e) => some (false, e.toNat)
  | _ => none

/-- The blocking cause of a presented bundle, if any. -/
def State.blockOf (s : State) (n k : Nat) (b : Shown) : Option Cause :=
  let c := s.core n
  let x := c.ctx k
  let a := x.arch
  let ent := b.entering a ++ b.repeating a
  let sp := a.csr.syncmode.getLsbD 0
  let chanBlock := match b.sWord a with
    | some (.chrd _ _ _ e) => (x.chan e.toNat).bound.isSome && (x.chan e.toNat).recv.isEmpty
    | some (.chwr _ _ _ e) =>
      (x.chan e.toNat).bound.isSome && ((x.chan e.toNat).cannotTake sp || ((x.chan e.toNat).broken.isSome && !(x.chan e.toNat).deadReader))
    | _ => false
  let pend := (b.now.any fun w => (!b.drops a w.2 || (holdPred w.2).1 == 1) && pendingOf a false w.2) ||
    (b.reps.any fun r => a.getP ((holdPred r.2.instr).2.setWidth 4) && pendingOf a true r.2.instr)
  let full := ent.any fun w => match cmdClass w.2 with
    | some cls => decide (commandRoom cls ≤ s.commandCount n cls) | none => false
  let takes := ent.any fun w => (match w.2 with | .take _ _ _ _ => true | _ => false) && decide (8 ≤ c.takesOut k)
  if x.sync.isSome || (x.outer.isSome && !a.ih) then some .sync
  else if (match x.agent with | some (.plane _ _ _ _ _ _) => true | _ => false) then some .plane
  else if chanBlock then some .channel
  else if pend then some .scalar
  else if full then some .command
  else if takes then some .takes
  else if b.hdr.getLsbD 10 && b.now.all (fun w => w.1.slot == 0) && !b.whole then some .flags
  else none

/-! ### What stalls it (R69, R72, R84, R320) -/

/-- The S words that dispatch only once every earlier bundle has retired (R320). -/
def needsRetired (i : Instr) : Bool :=
  match i with
  | .sig _ _ _ _ => true | .chbind _ _ _ _ => true | .chrd _ _ _ _ => true | .chwr _ _ _ _ => true
  | .syncd _ _ _ => true | .yield _ _ => true | .fork _ _ _ _ _ => true | .retire _ _ => true
  | .pcrt _ _ _ _ _ _ => true | .pdel _ _ _ _ => true | .pprt _ _ _ _ _ _ => true
  | .csrw _ _ _ n => csrOfCore n.toNat | .csrs _ _ _ n => csrOfCore n.toNat | .csrc _ _ _ n => csrOfCore n.toNat
  | _ => false

/-- Whether a multiply or divide result that a word reads or writes is still to come. -/
def notReady (a : Arch) (cyc : Nat) (rep : Bool) (i : Instr) : Bool :=
  ((if rep then [] else (info i).scalars) ++ (info i).dst.toList).any fun r =>
    a.rdy.any fun x => x.1 == r && r != 0 && decide (cyc < x.2)

/-- Whether an earlier word of the context that names queue `q` has not completed (R72, R84). -/
def Core.namesQueue (c : Core) (k : Nat) (q : BitVec 5) : Bool :=
  let is (i : Instr) : Bool := (queuesOf i).contains q
  c.queue.any (fun e => e.ctx == k && is e.instr) || c.flights.any (fun f => f.ctx == k && is f.instr) ||
  c.held.any (fun h => h.entry.ctx == k && is h.entry.instr) || c.multi.any (fun m => m.entry.ctx == k && is m.entry.instr) ||
  ((c.ctx k).wq.any fun h => is h.entry.instr && decide (h.rows.length < h.need)) ||
  c.busy k q || decide (0 < c.reserved k q)

/-- The queue that an S word configures. -/
def configured (i : Instr) : Option (BitVec 5) :=
  match i with | .qcfg _ _ q _ _ => some q | .qcfgKeep _ _ q _ _ => some q | .qrel _ _ q => some q | _ => none

/-- Whether the issue queues have room for a bundle's words (R69, R70). DESIGN CHOICE (log 60): a word that a false predicate drops,
and a repeat whose predicate is false, need none. -/
def Shown.room (b : Shown) (c : Core) (k : Nat) : Bool :=
  ((b.entering (c.ctx k).arch) ++ b.repeating (c.ctx k).arch).all fun w =>
    decide ((c.queue.filter fun e => slotNum e.slot == w.1).length < 16)

/-- Whether dispatch stalls. -/
def State.stalls (s : State) (n k : Nat) (b : Shown) : Bool :=
  let c := s.core n
  let x := c.ctx k
  let a := x.arch
  let ent := b.entering a ++ b.repeating a
  (b.hdr.getLsbD 9 && !c.synOk.getLsbD k) ||
  (b.now.any fun w => (!b.drops a w.2 || (holdPred w.2).1 == 1) && notReady a c.cyc false w.2) ||
  (b.reps.any fun r => a.getP ((holdPred r.2.instr).2.setWidth 4) && notReady a c.cyc true r.2.instr) ||
  (match b.sWord a with
   | some i =>
     (needsRetired i && !x.ckpts.isEmpty) ||
     (match configured i with | some q => c.namesQueue k q | none => false) ||
     (match i with
      | .chbind _ _ e _ => (x.chan e.toNat).sent != 0 || !(x.chan e.toNat).spill.isEmpty
      | .syncd _ _ _ => decide (0 < x.incs)
      | _ => false)
   | none => false) ||
  (ent.any fun w => (info w.2).vsrc.any fun q => q.1 && isV q.2 && c.busy k q.2) ||
  ((x.openPart b.pc).isNone && decide (16 ≤ x.ckpts.length)) || !b.room c k

/-! ### Dispatch (R68 to R75) -/

/-- A present M word ends the run before it (R217): the last queued one ends it when it issues, or it ends now. The runs of
A, B and X end as their next word issues (R226). -/
def State.endMRun (s : State) (n k : Nat) : State :=
  let last := ((s.core n).queue.filter fun e => e.ctx == k && e.slot == .m).getLast?
  s.updCore n fun c =>
    match last with
    | some _ => { c with queue := c.queue.map fun e => if some e = last then { e with held := false } else e }
    | none => c.endRunOf k

/-- One word of slots 1 to 7 dispatches: it ends the slot's hold, begins its own, and enters its queue unless dropped. -/
def State.dispatchWord (s : State) (b : Shown) (w : SlotWord) (i : Instr) : State :=
  let n := s.act.core
  let k := s.act.ctx
  let s := if w.slot = 3 then s.endMRun n k else s
  let a := s.arch
  let cap := a.capture (info i)
  let ports := portsOf b.hdr w.slot
  let drop := b.drops a i
  let held := (holdPred i).1 == 1
  let s1 := if drop then s else s.enter w.slot i w.raw cap ports true held s.act.entry.seq
  s1.onArch fun a => a.setHold w.slot
    (if held then some { instr := i, raw := w.raw, ops := cap, ports := ports, began := !drop, run := s.act.entry.seq } else none)

/-- The words of slots 1 to 7 in slot order. -/
def State.dispatchWords (s : State) (b : Shown) : List (SlotWord × Instr) → State
  | [] => s
  | (w, i) :: r => (if w.slot = 0 then s else s.dispatchWord b w i).dispatchWords b r

/-- The group after a bundle (R73), `g` being the group before it. -/
def Arch.joinGroup (a : Arch) (g : Group) (l : List GroupAcc) (whole stp : Bool) : Arch :=
  if whole && stp then a.newGroup else { a with grp := { n := g.n + (if whole then 1 else 0), accs := g.accs ++ l } }

/-- The running word of a dispatch: the S slot of the bundle. -/
def dispatchEntry (k seq : Nat) (b : Shown) (cyc : Nat) (quiet : Bool) : Entry :=
  { Entry.blank with ctx := k, seq := seq, slot := .s, hdr := b.hdr, pc := b.pc, enq := cyc, quiet := quiet
                     raw := (match b.all.find? fun w => w.slot == 0 with | some w => w.raw | none => 0) }

/-- After the S word, or after the bundle if it has none that runs: a loop body that has ended returns or closes (R87); bundles still to be passed over come first. -/
def State.settleFront (s : State) : State :=
  s.updMe fun x => if x.arch.skip = 0 then { x with arch := Arch.settleLoops x.arch.loops x.arch } else x

/-- A bundle, or what of a wait bundle may, dispatches. The S word is left to the step (`Act.sword`). DESIGN CHOICE (log 63): source 2 of
R317 counts the bundle before its S word is run, so a `CSRR` of that counter reads its own bundle counted. -/
def State.dispatch (s : State) (n k : Nat) (b : Shown) : State :=
  let x := s.ctx n k
  let a := x.arch
  let again := (x.openPart b.pc).isSome
  let seq := match x.openPart b.pc with | some q => q.seq | none => x.seq
  let accs := b.accs a
  let quiet := a.quiet
  let s1 := s.updCore n fun c =>
    (if b.whole then c.count 2 (some k) 1 else c).updCtx k fun x =>
      { x with
        seq := if again then x.seq else x.seq + 1
        present := if b.whole then 0 else x.present
        ckpts := if again then x.ckpts.map (fun q => if q.seq = seq then { q with wait := !b.whole } else q)
          else x.ckpts ++ [{ seq := seq, pc := b.pc, hdr := b.hdr, arch := a, quiet := quiet, agent := false, wait := !b.whole }]
        arch :=
          let y := (x.arch.showIndex).joinGroup (x.groupAt b.pc) accs b.whole (b.hdr.getLsbD 8)
          if b.whole then { y.countBundle with pc := afterBundle b.pc b.hdr, entered := if y.entAt = b.pc then 0 else y.entered, quiet := false }
          else { y with entered := b.now.foldl (fun m w => m ||| BitVec.ofNat 8 (2 ^ w.1.slot)) (y.enteredAt b.pc), entAt := b.pc } }
  let s2 := { s1 with act := { core := n, ctx := k, entry := dispatchEntry k seq b (s.core n).cyc quiet, sword := none, dry := false } }
  let s3 := s2.dispatchWords b b.now
  let sw := b.sWord a
  if b.all.isEmpty then
    { s3 with act := { s3.act with sword := some (.idle (BitVec.ofNat 3 (paOf b.hdr 0)) (BitVec.ofNat 3 (paOf b.hdr 1))
        (BitVec.ofNat 3 (paOf b.hdr 2)) (BitVec.ofNat 3 (paOf b.hdr 3)) (BitVec.ofNat 3 (paOf b.hdr 4))
        (BitVec.ofNat 3 (paOf b.hdr 5)) (BitVec.ofNat 1 (fld b.hdr 9 1)) (BitVec.ofNat 1 (fld b.hdr 8 1))) } }
  else
    let s4 := if b.whole then s3.repeats (b.reps.map (·.1)) else s3
    let s5 := if b.whole then s4 else
      s4.updCore n fun c => ({ c.count 5 (some k) 1 with disp := false } : Core).updCtx k fun x =>
        { x with st := .blocked .flags, present := x.present + 1, probe := 0, on := none }
    if sw.isNone then s5.settleFront else { s5 with act := { s5.act with sword := sw } }

/-- A bundle with dispatch faults: all are detected; its words in the slots below the lowest of them enter their queues, and
the S word is run, only for the faults that they may find first (R321). -/
def State.faultyDispatch (s : State) (n k : Nat) (b : Shown) (slot : Nat) (l : List (Nat × Nat × Word)) : State :=
  let a := (s.ctx n k).arch
  let (s1, seq) := s.trapBundle n k b.pc b.hdr
  let s2 := l.foldl (fun s f => s.raiseAt n k seq f.1 f.2.1 (wordVal b.hdr f.2.2)) s1
  let s3 := { s2 with act := { core := n, ctx := k, entry := dispatchEntry k seq b (s.core n).cyc false, sword := none, dry := false } }
  let s4 := (s3.dispatchWords b (b.now.filter fun w => decide (w.1.slot < slot))).repeats
    ((b.reps.map (·.1)).filter fun i => decide (i < slot))
  match b.sWord a with
  | none => s4
  | some i => { s4 with act := { s4.act with sword := some i, dry := true } }

/-- A bundle whose bytes are fetched is presented. -/
def State.presentBundle (s : State) (n k : Nat) (pc : Dword) (hdr : Word) (ws : List SlotWord) : State :=
  if headerBad' pc hdr ws then s.dispatchFault n k pc hdr 0 16 (wordVal hdr 0)
  else
    let b := (s.core n).shown k pc hdr ws
    let a := (s.ctx n k).arch
    let leave := a.csr.syncmode.getLsbD 1
    match (if leave then (s.brokenSync n k).or (match b.sWord a with
        | some i => if (s.ctx n k).ckpts.isEmpty then s.brokenAt n k i else none | none => none) else none) with
    | some v =>
      (s.updCore n fun c => ({ c with disp := false } : Core).updCtx k fun x => { x with st := .blocked .sync }).after 0 (.brokenWait n k v)
    | none =>
      match s.blockOf n k b with
      | some cause =>
        s.updCore n fun c => ({ c.count 5 (some k) 1 with disp := false } : Core).updCtx k fun x =>
          { x with st := .blocked cause, present := if cause = .flags then x.present + 1 else x.present
                   probe := 0, on := if cause = .channel then chanOn (b.sWord a) else none }
      | none =>
        if s.stalls n k b then (if b.room (s.core n) k then s else s.updCore n fun c => c.count 4 (some k) 1)
        else
          let l := b.faults (s.ctx n k) (s.namesBad n k)
          match lowestFault l with
          | some (slot, _, _) => s.faultyDispatch n k b slot l
          | none => s.dispatch n k b

/-- The translation of the bundle at `pc` enters the caches (R42); a page that none of them held has been walked (R318). A line of the own
stack that its slice does not hold is filled there from its slot (R265, log 56). -/
def State.fetched (s : State) (n k : Nat) (pc : Dword) : State :=
  let asn := (s.ctx n k).asn
  let p := (fld pc 16 41, fld pc 60 4)
  let s1 := ((s.translateTime n asn [p]).2.translated n asn [p]).updCore n fun c => { c with came := c.came.filter fun x => x.id != fetchId }
  match s1.translate asn pc true false with
  | .loc a _ _ =>
    if nearAt (stackOf n) a && !(s1.stack (stackOf n)).l2.contains (lineOf a) then
      s1.l2Touch (stackOf n) (s1.byCtx n k) (lineOf a) false
    else s1
  | _ => s1

/-- The next bundle of context `k` is fetched and presented (R401): a failing check is a fault of the bundle, a missing
frame its paging stop once every earlier bundle has retired. The header is checked before any word but the S word of a wait bundle
(R333), and a page that is there clears a refusal (R358). -/
def State.presentNext (s : State) (n k : Nat) : State :=
  let (s0, h) := s.passOver n k spaceWords
  let pc := (s0.ctx n k).arch.pc
  let s1 := s0.metRefusals n k [(fld pc 16 41, fld pc 60 4)]
  let failed (s : State) (hdr : Word) : Fetch → State
    | .fault c v => s.dispatchFault n k pc hdr 0 c v
    | .stop p q =>
      if (s.ctx n k).busyBundles.isEmpty then
        let asn := (s.ctx n k).asn
        let seq := match (s.ctx n k).openPart pc with | some q => q.seq | none => (s.ctx n k).seq
        (s.pagingStop n k seq p q).askFrame asn p q
      else s
    | .table l => s.farTable (stackOf n) (s.ctx n k).asn l
    | .need l => s.askLine n k (s.byCtx n k) fetchId false l
    | .never => s
    | .ok _ _ => s
  match h with
  | .ok l p =>
    let hdr := wordOf l
    let notWsel := hdr.getLsbD 10 && (match s1.fetch n k (pc + 4) 4 with | .ok w _ => opOf (wordOf w) != 23 | _ => false)
    if headerAlone pc hdr || notWsel then s1.dispatchFault n k pc hdr 0 16 (wordVal hdr 0)
    else
    (match s1.fetch n k (pc + 4) (4 * popCount 8 hdr.toNat) with
     | .ok ws q =>
       let s2 := match p.or q with | some v => s1.raiseAsync n k 65 v | none => s1
       (s2.fetched n k pc).presentBundle n k pc hdr (slotWords hdr ws)
     | r => failed s1 hdr r)
  | r => failed s1 0 r

/-- The due cycle of a latched result once its context goes on at `cyc` (R63). -/
def Flight.replayed (f : Flight) (cyc : Nat) (l : List (Nat × Nat)) : Flight :=
  match l.find? fun x => x.1 == f.id with | some x => { f with due := cyc + x.2 } | none => f

/-- The cycles from which multiply and divide results are ready, set on from C_f `cf` to C_r `cr` (R63, R139). -/
def Arch.replayed (a : Arch) (cf cr : Nat) : Arch :=
  { a with rdy := a.rdy.map fun r => (r.1, if cf < r.2 then cr + (r.2 - cf) else r.2) }

/-- The first bundle after RESUME: every latched result is due, and every register ready, as many cycles on as it was (R63); C_r
is the cycle in which the bundle is first presented, were it to stall then or not (DEDUCED, log 35). -/
def Core.replayAt (c : Core) (k : Nat) : Core :=
  ({ c with flights := c.flights.map fun (f : Flight) => f.replayed c.cyc (c.ctx k).latches }).updCtx k fun x =>
    { x.changeAll (fun a => a.replayed x.cf c.cyc) with replay := false, latches := [] }

/-- The front end presents the current context's next bundle; the first after RESUME sets C_r (log 35). -/
def State.present (s : State) (n : Nat) : State :=
  let s1 := s.updCore n fun c => { c with disp := true }
  match (s.core n).cur with
  | none => s1
  | some k =>
    let s2 := s1.updCtx n k fun x => { x with shown := x.shown + 1 }
    let c := s2.core n
    if (s2.ctx n k).replay then
      (s2.updCore n fun c => c.replayAt k).presentNext n k
    else if c.cyc < (c.ctx k).from_ then s2
    else s2.presentNext n k

/-- `BUNDLE_DISPATCH` (R69). -/
def execBundleDispatch (n : Nat) (s : State) : Out1 := .next (s.present n)

/-- `WAIT_BUNDLE_PRESENT` (R75): a wait bundle is presented again after a change of `FLG`. -/
def execWaitBundlePresent (n : Nat) (s : State) : Out1 := .next (s.present n)

/-! ### The choice of the current context (R55, R56) -/

/-- The ready contexts of a core. -/
def Core.ready (c : Core) : List Nat := (List.range 4).filter fun k => (c.ctx k).st == .ready

/-- A context's launch priority. -/
def Ctx.prio (x : Ctx) : Nat := match x.bnd with | some b => b.prio | none => 0

/-- The context chosen next (R55). -/
def Core.choose (c : Core) : Option Nat :=
  match c.ready.find? fun k => decide (4096 ≤ (c.ctx k).waitCnt) with
  | some k => some k
  | none =>
    let top := c.ready.foldl (fun m k => max m (c.ctx k).prio) 0
    ([1, 2, 3, 4].map fun d => (c.last + d) % 4).find? fun k => c.ready.contains k && (c.ctx k).prio == top

/-- A context becomes current. -/
def Core.makeCurrent (c : Core) (k : Nat) : Core :=
  { c with clk := .running, cur := some k, last := k, curFor := 0 }.updCtx k fun x => { x with st := .current, waitCnt := 0 }

/-- The core begins to switch (R55), or freewheels when no context is ready (R56). -/
def Core.switch (c : Core) : Core :=
  match c.choose with
  | none => { c with clk := .freewheel false, cur := none }
  | some k => { c.count 3 none 1 with clk := .switching 2 k, cur := none }

/-- `CONTEXT_SWITCH` (R55). -/
def execContextSwitch (n : Nat) (s : State) : Out1 := .next (s.updCore n Core.switch)

/-- `WAIT_COUNTER_RAISE` (R55): the current context is Ready again and the waiting one is chosen. -/
def execWaitCounterRaise (n : Nat) (s : State) : Out1 :=
  .next (s.updCore n fun c =>
    Core.switch (match c.cur with
      | some k => c.updCtx k fun x => if x.st = .current then { x with st := .ready, waitCnt := 0 } else x
      | none => c))

/-- `FREEWHEEL_WAKE` (R56): `CYC` advances by the cycles of the stopped clock; the context last current goes on at once,
another after the switch. -/
def execFreewheelWake (n : Nat) (s : State) : Out1 :=
  .next (s.updCore n fun c =>
    let c1 := { c.count 6 none c.stopped with cyc := c.cyc + c.stopped, stopped := 0 }
    match c1.choose with
    | none => { c1 with clk := .freewheel false }
    | some k => if k = c1.last then c1.makeCurrent k else { c1.count 3 none 1 with clk := .switching 2 k, cur := none })

end Sys2Proof.Machine
end

