-- ==== Sys2Proof/Machine/Save.lean ====
section
/-!
DEFINITION. The firmware's common part (R309, R310, R314), the end of contexts (R52, R53, R61), KILL (R329, R370, R372),
and pre-emption and replay (R62, R63, R221, R328).
-/

namespace Sys2Proof.Machine

/-! ### Commands (R309, R310, R314) -/

/-- A firmware command executes (R310); a package that has not booted takes none (R315). Its answer tells its peer by `q`. -/
def command (_q : HostCmd) (f : State → State) (s : State) : Out1 := .next (if s.fw.up then f s else s)

/-- A command ends with a status, a result and data, once everything that it has written has performed at system scope (R310); the
translations of an address space that it changes are dropped then, too (R34, R43). -/
def State.finishDrop (s : State) (q : HostCmd) (cmd st res : Nat) (data : List Byte) (drop : Option Nat) : State :=
  if s.firmOut then { s with fw := { s.fw with waiting := s.fw.waiting ++ [.writes q cmd st res data drop] } }
  else s.complete q cmd st res data

/-- A command ends that changes no translation. -/
def State.finish (s : State) (q : HostCmd) (cmd st res : Nat) (data : List Byte) : State := s.finishDrop q cmd st res data none

/-- A command waits, and executes again later. -/
def State.waitAgain (s : State) (i : Instr) : State := { s with fw := { s.fw with waiting := s.fw.waiting ++ [.again i] } }

/-- The package core number of a core of this package (R14): 8 stacks of 192. -/
def coreExists (n : Nat) : Bool := decide (n < 1536)

/-- Whether a context exists and has not retired (R314). -/
def State.alive (s : State) (n k : Nat) : Bool :=
  coreExists n && (match (s.ctx n k).st with
    | .free => false | .reserved => false | .retired => false | .done => false | _ => true)

/-! ### The end of contexts (R52, R53, R61) -/

/-- Whether a context holds back its launch's resources on its core (R52): Ready, Current, Blocked, Saving or Saved, or its `RETIRE`
may still be undone, its bundle not having retired (DEDUCED from R323, log 54). -/
def Ctx.holds (x : Ctx) : Bool :=
  match x.st with
  | .ready => true | .current => true | .blocked _ => true | .saving => true | .saved => true
  | .retired => !x.killed && !x.ckpts.isEmpty
  | _ => false

/-- Whether a context belongs to a launch. -/
def Ctx.ofLaunch (x : Ctx) (l : Nat) : Bool := match x.bnd with | some b => b.launch == l | none => false

/-- A slot that has returned: its registers stand as the context left them until the next start (R49, R300, R308), and the endpoints whose
spill spaces hold words, which follow those sent, as long as the launch lives (R373). -/
def Ctx.vacate (x : Ctx) : Ctx :=
  let spills := x.chans.toList.any fun c => !c.spill.isEmpty
  { Ctx.reset with
    seq := x.seq, arch := x.arch, was := if spills then x.bnd.map (·.launch) else none
    chans := if spills then vmap (fun (c : Chan) => if c.spill.isEmpty then Chan.reset else c) x.chans else Ctx.reset.chans }

/-- Whether a launch has a context on a core that holds back its resources (R52). -/
def Core.keeps (c : Core) (l : Nat) : Bool := c.ctxs.toList.any fun x => x.ofLaunch l && x.holds

/-- Whether a retired context has returned its slot, pool and flag bits, none of its launch's on the core being active (R52), while
words of it still run (log 54). -/
def Core.returned (c : Core) (x : Ctx) : Bool := x.st == .retired && (match x.bnd with | some b => !c.keeps b.launch | none => true)

/-- The slots, pools and flag bits of a launch on a core return once none of its contexts there is active (R52). A context
whose earlier words still run after its `RETIRE` holds back nothing (`Core.returned`), and its registers stand for those words until
it ends (R53, log 54). -/
def Core.releaseLaunch (c : Core) (l : Nat) : Core :=
  if c.keeps l then c
  else { c with ctxs := vmap (fun (x : Ctx) => if x.ofLaunch l && x.st != .retired then x.vacate else x) c.ctxs }

/-- A domain object once the launches of a list have ended (R370): it goes with its launch; a fabric set's object stays at its home as
long as it has members of other packages and is whole. -/
def Dom.after_ (d : Dom) (dead : List Nat) : Option Dom :=
  let gone := dead.contains d.launch || d.launch == 65536
  if !gone then some d
  else if d.fset.isSome && d.mbr != 0 && d.broken.isNone then some { d with launch := 65536 }
  else none

/-- The endpoints of a returned slot are gone with the launch of which they were (R373). -/
def Ctx.forgetSpill (x : Ctx) (dead : List Nat) : Ctx :=
  match x.was with | some l => if dead.contains l then { x with chans := Ctx.reset.chans, was := none } else x | none => x

/-- The launches that still have a context somewhere in the package; the others end, with their domain objects (R370) and spill
spaces (R373). -/
def State.endLaunches (s : State) : State :=
  let lives (l : LaunchRec) : Bool := s.cores.any fun c => c.2.ctxs.toList.any fun x => x.ofLaunch l.num
  let dead := (s.launches.filter fun l => !lives l).map (·.num)
  { s with launches := s.launches.filter lives
           cores := if dead.isEmpty then s.cores else
             s.cores.map fun (n, c) => (n, { c with ctxs := vmap (fun x => x.forgetSpill dead) c.ctxs })
           farBroken := s.farBroken.filter fun b => (s.launches.filter lives).any fun l => l.doms.contains b.1
           stk := vmap (fun (t : Stack) => { t with doms := t.doms.filterMap fun d => d.2.after_ dead |>.map fun x => (d.1, x) }) s.stk }

/-- Context `k` of core `n` ends: its domains lose a member unless it was killed, and its slot returns with the last of
its launch's on the core. -/
def State.endContext (s : State) (n k : Nat) : State :=
  let x := s.ctx n k
  let s1 := if x.killed then s else s.sendMbr n k false x.arch.domains
  match x.bnd with
  | none => s1.updCtx n k Ctx.vacate
  | some b =>
    (s1.updCore n fun c => ((c.updCtx k fun x => { x with st := .done }).orphan k).releaseLaunch b.launch).endLaunches

/-! ### KILL (R329, R370, R372) -/

/-- The words that a killed context had spilled follow those it had sent, and its spill space is empty (R372). -/
def State.sendSpill (s : State) (n k e : Nat) : State :=
  let s1 := ((s.ctx n k).chan e).spill.foldl (fun s v => s.sendWord n k e v) s
  s1.updCtx n k fun x => x.setChan e { x.chan e with spill := [] }

/-- The endpoints of this package that are bound to one of a context. -/
def State.boundTo (s : State) (n k : Nat) : List EndRef :=
  s.cores.flatMap fun c => ([0, 1, 2, 3] : List Nat).flatMap fun j => (List.range 8).filterMap fun e =>
    match ((c.2.ctx j).chan e).bound with
    | some b => if b.who = ctxRef n k then some { who := ctxRef c.1 j, ep := e } else none
    | none => none

/-- A notice of a killed context that goes to another package, where its handling is awaited (R371, R372). -/
def State.tell (s : State) (n k peer : Nat) : State :=
  if peer / 8 = Config.pkg ∨ s.gone.contains peer = true then s else { s with told := s.told ++ [(ctxRef n k, peer)] }

/-- Break notices to every endpoint bound to a killed context, after the words it had spilled (R372): to those of this package that name
it, and to those of other packages that it names, which are the ones that R173 binds to it (log 72). -/
def State.breakChannels (s : State) (n k : Nat) : State :=
  let s1 := (List.range 8).foldl (fun s e => s.sendSpill n k e) s
  let far := (List.range 8).filterMap fun e => ((s1.ctx n k).chan e).bound.bind fun b => if refOwn b.who then none else some b
  (s1.boundTo n k ++ far).foldl (fun s b =>
    (s.tell n k b.who.peer).sendFrom n k b.who.peer (.event (.channelBreakNotice b { kind := 2, party := ctxRef n k }))) s1

/-- Break notices to every domain object of a killed context (R370). -/
def State.breakDomains (s : State) (n k : Nat) : List DomRef → State
  | [] => s
  | o :: r =>
    ((s.tell n k o.peer).sendFrom n k o.peer (.event (.domainBreakNotice o { kind := 1, party := ctxRef n k }))).breakDomains n k r

/-- A group of this package's record. -/
def State.group (s : State) (g : Nat) : Option CollGroup := s.groups.find? fun x => x.num == g

/-- The peer of member `r` of a group. -/
def State.member (s : State) (g r : Nat) : Nat := match s.group g with | some x => x.members.getD r 0 | none => 0

/-- The rank of a peer in a group. -/
def State.rankOf (s : State) (g peer : Nat) : Nat := match s.group g with | some x => x.members.findIdx fun p => p == peer | none => 0

/-- Whether a cell is a drop cell (R381): bit 28 of XT; bit 29 tells that commands disagree (log 22). -/
def isDrop (x : RingCell) : Bool := x.ty == 14 && x.xt.getLsbD 28

/-- A drop cell goes on round the group from stack `t`, past the dropped member, until it has been at every member: by the way that
leads from there (R283). -/
def State.passDrop (s : State) (t w g : Nat) (x : RingCell) : State :=
  match s.group g with
  | none => s
  | some y =>
    let p := max 1 y.members.length
    let r := s.rankOf g (peerOf t)
    let a := (r + 1) % p
    let b := if x.xt.getLsbD 29 = false ∧ a = fld x.xt 12 16 then (a + 1) % p else a
    let dst := s.member g b
    if !y.members.contains (peerOf t) || dst == x.src.toNat || b == r then s
    else s.send t 2 w dst (.cell (cellFrom { x with dst := BitVec.ofNat 12 dst, rfs := 0, ret := false } (peerOf t)))

/-- The drop of a collective's member whose command a KILL removes (R381): the cell goes round its group. -/
def State.sendDrops (s : State) (c : Cmd) : State :=
  match c.coll with
  | none => s
  | some j =>
    let me := peerOf c.stack
    let rank := s.rankOf j.grp me
    let ord := match s.group j.grp with | some g => if j.phase = 0 then assocGet c.stack 0 g.runs else j.ord | none => 0
    let s1 := s.passDrop c.stack c.weight j.grp { ringCell me me 193 14 0 (ord % 2 ^ 16) [] with
      stat := j.stat, xt := BitVec.ofNat 96 (j.grp % 4096 + 2 ^ 12 * (rank % 4096) + 2 ^ 28) }
    { s1 with groups := s1.groups.map fun x => if x.num = j.grp then { x with dropped := some rank } else x }

/-- The commands of a context that have not started are dropped (R329), those of retired words that have not reached their
engine among them, and its collectives' members with them (R381). -/
def State.dropCommands (s : State) (n k : Nat) : State :=
  let isCmd (h : Held) : Bool := (cmdClass h.entry.instr).isSome
  let s1 := ((s.ctx n k).wq.filter isCmd).foldl (fun s h => s.handCommand n k h ((cmdClass h.entry.instr).getD 0)) s
  let mine (c : Cmd) : Bool := c.core == n && c.ctx == k && !c.started
  let s2 := (s1.cmds.filter mine).foldl State.sendDrops { s1 with cmds := s1.cmds.filter fun c => !mine c }
  s2.updCtx n k fun x => { x with wq := x.wq.filter fun h => !isCmd h }

/-- Whether a trap of a context is in progress: detected, or its escalation not yet written (R329). -/
def Ctx.trapping (x : Ctx) : Bool :=
  !x.faults.isEmpty || (x.st == .saving && x.esc.isSome) ||
  (!x.arch.ih && !x.asyncs.isEmpty && (x.st == .ready || x.st == .current))

/-- One context killed: its unretired bundles discarded, its commands and partners told. It ends when its retired words have
completed. -/
def State.killCtx (s : State) (n k : Nat) : State :=
  let x := s.ctx n k
  let s1 := match x.ckpts with | q :: _ => s.undoAll n k q.seq | [] => s
  let s2 := s1.updCore n fun c =>
    { c.endRunOf k with
      multi := c.multi.filter fun m => m.entry.ctx != k
      load := c.load.filter fun l => l.started || l.entry.ctx != k
      loadsBack := c.loadsBack.filter fun l => l.started || l.entry.ctx != k }
  let s3 := ((s2.dropCommands n k).breakChannels n k).breakDomains n k x.arch.domains
  { s3.updCtx n k fun x =>
      { x with st := .retired, killed := true, faults := [], asyncs := [], ckpts := [], sync := none, outer := none
               agent := none, saveTo := none, dying := false, leave := none } with
    saved := s3.saved.filter fun v => !(v.pcn == n && v.k == k) }

/-- The contexts that a KILL target word names (R313). -/
def State.killTargets (s : State) (t : Dword) : List (Nat × Nat) :=
  if t.getLsbD 63 then
    (if s.alive (fld t 0 11) (fld t 12 2) then [(fld t 0 11, fld t 12 2)] else [])
  else s.cores.flatMap fun c => ([0, 1, 2, 3].filter fun k => (c.2.ctx k).ofLaunch (fld t 0 16) && s.alive c.1 k).map fun k => (c.1, k)

/-- Whether a KILL target word breaks its layout. -/
def killBad (t : Dword) : Bool :=
  if t.getLsbD 63 then fld t 11 1 != 0 || fld t 14 49 != 0 else fld t 16 47 != 0

/-- `KILL`: a context whose trap is in progress is killed once that is over (R329). -/
def execKill (q : HostCmd) (target : BitVec 64) (s : State) : Out1 :=
  command q (fun s =>
    if killBad target then s.complete q 8 2 0 []
    else
      match s.killTargets target with
      | [] => s.complete q 8 4 0 []
      | l =>
        let s1 := l.foldl (fun s c =>
          if (s.ctx c.1 c.2).trapping then s.updCtx c.1 c.2 fun x => { x with dying := true } else s.killCtx c.1 c.2) s
        { s1 with fw := { s1.fw with waiting := s1.fw.waiting ++ [.kill q l] } }) s

/-! ### Pre-emption (R62, R221, R314) -/

/-- The cycle at which a context's next bundle would have dispatched: for a context that is not current, where R62 names none, the
cycle of the command (DEDUCED, log 35). -/
def Core.nextDispatch (c : Core) (k : Nat) : Nat :=
  max (c.ctx k).from_ (c.time + if c.cur = some k ∧ c.disp then 1 else 0)

/-- `PREEMPT`: fetch stops for the context; what it has issued runs on until its state can be written. It acts on a context
whose trap is in progress once that is over (R329). -/
def execPreempt (q : HostCmd) (n k fpa : Nat) (s : State) : Out1 :=
  command q (fun s =>
    let x := s.ctx n k
    if fpa % 4096 ≠ 0 ∨ 2 ^ 57 ≤ fpa then s.complete q 9 2 0 []
    else if decide (4 ≤ k) || !s.alive n k || x.st == .saving || x.st == .saved || !(match x.bnd with | some b => b.pre | none => false) then
      s.complete q 9 4 0 []
    else
      let s1 := s.updCore n fun c => c.updCtx k fun x =>
        if x.trapping then { x with leave := some fpa } else x.startSave fpa (c.nextDispatch k) none
      { s1 with fw := { s1.fw with waiting := s1.fw.waiting ++ [.save q n k] } }) s

/-- The latched results of a context: each with its cycles after C_f. -/
def Core.latchesOf (c : Core) (k : Nat) : List (Nat × Flight) :=
  (c.flights.filter fun f => f.ctx == k).map fun f =>
    (f.due - (c.ctx k).cf,
     { f with kind := match f.kind with
         | .gload d v _ => .sreg d v
         | .ret q x _ => .push q x 0
         | kd => kd })

/-- The fault record of R328. -/
def faultRecord (n k area why launch : Nat) (pw : Dword) (cyc : Nat) (r : Csrs) : List Byte :=
  leBytes 56 (n % 2 ^ 11 * 2 ^ 16 + k % 4 * 2 ^ 32 + why % 16 * 2 ^ 44 + launch % 2 ^ 16 * 2 ^ 48 + r.trapcause.toNat * 2 ^ 64 +
    r.trappc.toNat * 2 ^ 128 + r.trapval.toNat * 2 ^ 192 + cyc % 2 ^ 64 * 2 ^ 256 + pw.toNat * 2 ^ 320 + area % 2 ^ 64 * 2 ^ 384)

/-- The firmware's fault notification for a context that has been written (R328). -/
def State.notifyFault (s : State) (n k area : Nat) (e : Esc) : State :=
  match (s.ctx n k).bnd with
  | none => s
  | some b =>
    let rec_ := faultRecord n k area e.why b.launch e.pw e.cyc (s.ctx n k).arch.csr
    { s.emit (.completion b.host 0x80 (BitVec.ofNat 32 s.fw.notices) 1 0 rec_) with fw := { s.fw with notices := s.fw.notices + 1 } }

/-- Where the parts of a save area begin after a pool of `p` bytes (R62): the landing entries, the scale queues, the array planes,
the table slots, the forwarding latch, the rest. -/
def areaPart (p i : Nat) : Nat := p + 1024 * ([0, 16, 32, 48, 56, 57] : List Nat).getD i 0

/-- Where row `j` of queue `q` lies in a save area: in the storage of its queue in the pool, or with `fl` (log 18). -/
def Arch.rowPlace (a : Arch) (p : Nat) (q : Fin 32) (j : Nat) : Nat :=
  (if q.val = 28 then areaPart p 4
   else (a.vq.toList.take q.val).foldl (fun t v => t + 256 * storageOf v.depth v.wd) 0) + j * (rowWidth a.vq[q].wd / 8)

/-- The queues that a save area holds: `v0` to `v27` and `fl`. -/
def areaQueues : List (Fin 32) := (List.finRange 32).filter fun q => decide (q.val < 29)

/-- A value in a save area: its offset, its bytes, and what it is. -/
abbrev Piece := Nat × Nat × Nat

/-- What a save area of a pool of `p` bytes holds, by rising offsets. -/
def areaPieces (p : Nat) (a : Arch) (v : Saved) : List Piece :=
  let rows (l : List (Fin 32)) : List Piece := l.flatMap fun q =>
    a.vq[q].rows.mapIdx fun j r => (a.rowPlace p q j, rowWidth a.vq[q].wd / 8, r.data.toNat)
  let plane (i : Nat) (w : Option WSet) : List Piece := match w with
    | some w => w.w.mapIdx fun j r => (areaPart p 2 + 8192 * i + 128 * j, 128, r.toNat) | none => []
  let rest := areaPart p 5
  let c := a.csr
  rows (areaQueues.filter fun q => decide (q.val < 28)) ++
  (v.latches.filterMap (fun l => match l.2.kind with | .land _ x _ _ => some x | _ => none)).mapIdx
    (fun i x => (areaPart p 0 + 256 * i, 256, x.toNat)) ++
  (a.kq.toList.mapIdx fun k q => q.ring.toList.mapIdx fun i e => (areaPart p 1 + 2048 * k + 256 * i, 256, e.data.toNat)).flatten ++
  plane 0 v.active ++ plane 1 v.shadow ++
  (a.tb.toList.mapIdx fun t x => x.segs.mapIdx fun j g => (areaPart p 3 + 2048 * t + 8 * j, 8, g.toNat)).flatten ++
  rows (areaQueues.filter fun q => decide (28 ≤ q.val)) ++
  a.tb.toList.mapIdx (fun t x => (rest + 32 * t, 32, x.header.toNat)) ++
  a.sr.toList.mapIdx (fun i x => (rest + 128 + 8 * i, 8, x.toNat)) ++
  a.masks.toList.mapIdx (fun i x => (rest + 384 + 32 * i, 32, x.toNat)) ++
  ([a.pr.toNat, a.pc.toNat, c.fpc.toNat, c.vstat.toNat, c.arbw.toNat, c.syncmode.toNat, c.trapvec.toNat, c.trappc.toNat,
    c.trapval.toNat, c.trapcause.toNat, c.rngpos.toNat, c.seed.toNat] : List Nat).mapIdx (fun i x => (rest + 640 + 8 * i, 8, x)) ++
  a.mb.toList.mapIdx (fun i x => (rest + 736 + 8 * i, 8, x.toNat)) ++
  c.dml.toList.mapIdx (fun i x => (rest + 800 + 8 * i, 8, x.toNat)) ++
  a.lidx.toList.mapIdx (fun i x => (rest + 840 + 4 * i, 4, x.toNat)) ++
  (v.recs.take 8).mapIdx fun i r => (rest + 864 + 8 * i, 8, r.word.toNat)

/-- The context state that a save area gives back, `rd` reading a value of some bytes at an offset. -/
def Arch.fromArea (a : Arch) (p : Nat) (rd : Nat → Nat → Nat) : Arch :=
  let rest := areaPart p 5
  let d (i : Nat) : Dword := BitVec.ofNat 64 (rd (rest + 640 + 8 * i) 8)
  { a with
    vq := Vector.ofFn fun q : Fin 32 =>
      if q.val < 29 then
        { a.vq[q] with rows := a.vq[q].rows.mapIdx fun j r =>
            { r with data := BitVec.ofNat 2048 (rd (a.rowPlace p q j) (rowWidth a.vq[q].wd / 8)) } }
      else a.vq[q]
    kq := Vector.ofFn fun k : Fin 8 =>
      { a.kq[k] with ring := Vector.ofFn fun i : Fin 8 =>
          { a.kq[k].ring[i] with data := BitVec.ofNat 2048 (rd (areaPart p 1 + 2048 * k.val + 256 * i.val) 256) } }
    tb := Vector.ofFn fun t : Fin 4 =>
      { header := BitVec.ofNat 256 (rd (rest + 32 * t.val) 32)
        segs := a.tb[t].segs.mapIdx fun j _ => BitVec.ofNat 64 (rd (areaPart p 3 + 2048 * t.val + 8 * j) 8) }
    sr := Vector.ofFn fun i : Fin 32 => BitVec.ofNat 64 (rd (rest + 128 + 8 * i.val) 8)
    masks := Vector.ofFn fun i : Fin 8 => BitVec.ofNat 256 (rd (rest + 384 + 32 * i.val) 32)
    pr := BitVec.ofNat 16 (rd (rest + 640) 8)
    pc := d 1
    csr := { a.csr with fpc := d 2, vstat := d 3, arbw := d 4, syncmode := d 5, trapvec := d 6, trappc := d 7, trapval := d 8
                        trapcause := d 9, rngpos := d 10, seed := d 11
                        dml := Vector.ofFn fun i : Fin 5 => BitVec.ofNat 64 (rd (rest + 800 + 8 * i.val) 8) }
    mb := Vector.ofFn fun i : Fin 8 => BitVec.ofNat 64 (rd (rest + 736 + 8 * i.val) 8)
    lidx := Vector.ofFn fun i : Fin 6 => BitVec.ofNat 32 (rd (rest + 840 + 4 * i.val) 4) }

/-- A record whose word comes from a save area: its operation, rows and mask (R163). -/
def MRec.fromWord (r : MRec) (w : Nat) : MRec :=
  if r.word.toNat = w then r
  else { r with opc := nbits w 56 8, rows := { old := nbits w 24 24, live := [] }, mask := BitVec.ofNat 4 (nbits w 0 4) }

/-- Latched results whose landing rows come from a save area, the `i`-th of them next. -/
def latchesFrom (p : Nat) (rd : Nat → Nat → Nat) : Nat → List (Nat × Flight) → List (Nat × Flight)
  | _, [] => []
  | i, (d, f) :: r =>
    match f.kind with
    | .land q _ a l => (d, { f with kind := .land q (BitVec.ofNat 2048 (rd (areaPart p 0 + 256 * i) 256)) a l }) :: latchesFrom p rd (i + 1) r
    | _ => (d, f) :: latchesFrom p rd i r

/-- What a save area gives back beside the context's registers: a weight load's rows from the shadow planes (R221). -/
def Saved.fromArea (v : Saved) (p : Nat) (rd : Nat → Nat → Nat) : Saved :=
  let plane (i : Nat) (w : Option WSet) : Option WSet := w.map fun w =>
    { w with w := w.w.mapIdx fun j _ => BitVec.ofNat 1024 (rd (areaPart p 2 + 8192 * i + 128 * j) 128) }
  { v with
    latches := latchesFrom p rd 0 v.latches, active := plane 0 v.active, shadow := plane 1 v.shadow
    load := v.load.map fun l => match plane 1 v.shadow with | some w => { l with rows := w.w.take l.rows.length } | none => l
    recs := v.recs.mapIdx fun i r => if i < 8 then r.fromWord (rd (areaPart p 5 + 864 + 8 * i) 8) else r }

/-- Bytes `o` to `o + n − 1` of a save area that hold nothing of the context: free values (log 18). -/
def freeBytes (free o n : Nat) : List Byte :=
  (List.range n).map fun i => BitVec.ofNat 8 ((Config.freeWord (free + (o + i) / 8)).toNat / 2 ^ (8 * ((o + i) % 8)))

/-- A save area of `n` bytes laid out from offset `o` on. -/
def layArea (free n : Nat) : Nat → List Piece → List Byte
  | o, [] => freeBytes free o (n - o)
  | o, (a, k, x) :: r => freeBytes free o (a - o) ++ leBytes k x ++ layArea free n (a + k) r

/-- Bytes of the pool of a context. -/
def Ctx.poolBytes (x : Ctx) : Nat := match x.bnd with | some b => b.pool * 262144 | none => 0

/-- Bytes of a context's save area (R62): its pool and 58 KiB. -/
def Ctx.saveBytes (x : Ctx) : Nat := x.poolBytes + 59392

/-- The save area of a context written (R62): nothing is written where it lies in a CSR window. -/
def State.writeArea (s : State) (area : Nat) (x : Ctx) (v : Saved) : State :=
  if inCsr area then s
  else { s with free := s.free + x.saveBytes / 8 }.fwPut area
    ((layArea s.free x.saveBytes 0 (areaPieces x.poolBytes x.arch v)).take x.saveBytes)

/-- `n` bytes of memory from `a` on, in one pass over its cells. -/
def dumpBytes (a : Nat) : Nat → List Host.Cell → List Byte
  | 0, _ => []
  | n + 1, m =>
    match m.dropWhile fun c => decide (c.1 < a) with
    | [] => List.replicate (n + 1) 0
    | (b, v) :: r => if b = a then v :: dumpBytes (a + 1) n r else 0 :: dumpBytes (a + 1) n ((b, v) :: r)

/-- The key under which the lines of a save area in another package's memory are kept until RESUME has them all: no address space. -/
def areaKey : Nat := 4096

/-- The lines of a save area of `n` bytes in another package's memory that have not come yet. -/
def State.areaLacks (s : State) (area n : Nat) : List Nat :=
  if ownFpa area || inCsr area then []
  else (linesOf area n).filter fun l => !s.tabs.any fun x => x.1 == areaKey && x.2.line == l

/-- The bytes of a save area as RESUME reads them (R63): of this package's memory as it stands, of another's as its lines have come;
none where the area lies in a CSR window or a line of it is poisoned (log 18). -/
def State.areaBytes (s : State) (area n : Nat) : Option (List Byte) :=
  if inCsr area then none
  else if ownFpa area then some (dumpBytes area n (s.flushOwn area n).mem)
  else
    let l := (linesOf area n).filterMap fun y => (s.tabs.find? fun x => x.1 == areaKey && x.2.line == y).map (·.2)
    if l.any (·.bad) then none else some (((l.flatMap (·.bytes)).drop (area % 128)).take n)

/-- The shadow planes as a weight load under way has loaded them so far (R221): a set that is not whole stays invalid where it was
(R389). -/
def WLoad.soFar (l : WLoad) (old : WSet) : WSet :=
  { l.toSet with w := l.rows ++ old.w.drop l.rows.length, lost := l.lost.or old.lost }

/-- What the shadow planes hold once context `k` leaves: of its own load on the weight path the rows so far. -/
def Core.shadowAt (c : Core) (k : Nat) : WSet :=
  match c.load with | some l => if l.started && l.entry.ctx == k then l.soFar c.shadow else c.shadow | none => c.shadow

/-- What goes with a context that is saved (R62, R221): each plane with the context that issued the latest `MLW` to it. -/
def Core.savedOf (c : Core) (n k : Nat) : Saved :=
  let x := c.ctx k
  let mine (w : WSet) : Option WSet := if w.owner = some k then some w else none
  let load := (c.load.toList ++ c.loadsBack).find? fun l => l.entry.ctx == k
  let shadow := if (c.load.toList ++ c.loadsBack).any (fun l => l.entry.ctx != k) then none else mine (c.shadowAt k)
  { fpa := x.saveTo.getD 0, pcn := n, k := k
    entries := (match load with | some l => if l.started then [] else [l.entry] | none => []) ++ c.queue.filter fun e => e.ctx == k
    latches := c.latchesOf k, multi := c.multi.filter fun m => m.entry.ctx == k
    active := mine c.active, shadow := shadow, load := load.filter fun l => l.started
    recs := c.recs.filter fun r => r.ctx == some k && r.dropBy.isNone
    evs := c.evWait.filter fun e => e.ctx == k }

/-- A core once a context of it is saved: nothing of it is left in the engines. -/
def Core.leave (c : Core) (k : Nat) : Core :=
  { c with
    queue := c.queue.filter fun e => e.ctx != k
    flights := c.flights.filter fun f => f.ctx != k
    multi := c.multi.filter fun m => m.entry.ctx != k
    shadow := c.shadowAt k
    load := c.load.filter fun l => l.entry.ctx != k
    loadsBack := c.loadsBack.filter fun l => l.entry.ctx != k
    evWait := c.evWait.filter fun e => e.ctx != k
    recs := c.recs.filter fun r => r.ctx != some k }

/-- PREEMPT commands that wait for a context complete: with ST 4 where its trap escalated meanwhile (R329). -/
def State.savedDone (s : State) (n k : Nat) (late : Bool) : State :=
  let done (w : WaitCmd) : Bool := match w with | .save _ n' k' => n' == n && k' == k | _ => false
  (s.fw.waiting.filter done).foldl (fun s w => match w with | .save q _ _ => s.finish q 9 (if late then 4 else 0) 0 [] | _ => s)
    { s with fw := { s.fw with waiting := s.fw.waiting.filter fun w => !done w } }

/-- `SAVE_COMPLETE`: the runs of A, B, X and K end (R226), the area is written and the context is Saved; what the core holds of it
goes with the area, and the fault notification is sent, or the waiting PREEMPT completes once the area's writes are acknowledged. A
page for which the agent has been asked stays asked for it, so that a refusal is kept with it (R358). -/
def execSaveComplete (n k : Nat) (s : State) : Out1 :=
  let s0 := s.updCore n fun c => (c.endRunOf k).updCtx k fun x =>
    x.changeAll fun a => ([4, 5, 6, 7] : List Nat).foldl (fun a i => a.endRun i) a
  let x := s0.ctx n k
  let v := (s0.core n).savedOf n k
  let s1 := (match x.saveTo with | some a => s0.writeArea a x v | none => s0).updCore n fun c => c.leave k
  let s2 : State := { s1 with saved := (s1.saved.filter fun (w : Saved) => !(w.pcn == n && w.k == k)) ++ [v] }
  let s3 := s2.updCtx n k fun x =>
    { x with st := .saved, esc := none, leave := none
             agent := match x.agent with | some (.frame p q) => some (.frame p q) | _ => none }
  let s4 := match x.esc with | some e => s3.notifyFault n k v.fpa e | none => s3
  .next (s4.savedDone n k x.leave.isSome)

/-- Latched results enter the core again, each under a number of its own, and wait for the first bundle (R63). -/
def Core.unlatch (c : Core) (k : Nat) : List (Nat × Flight) → Core
  | [] => c
  | (d, f) :: r =>
    (({ c with nextId := c.nextId + 1, flights := c.flights ++ [{ f with id := c.nextId, due := c.time }] }).updCtx k fun x =>
      { x with latches := x.latches ++ [(c.nextId, d)] }).unlatch k r

/-- What a save area holds goes back into the core; a weight load under way goes on once no other is (R221). -/
def Core.restore (c : Core) (v : Saved) : Core :=
  ({ c with nextId := c.nextId + v.recs.length
            queue := (c.queue ++ v.entries.map (fun (e : Entry) => { e with enq := c.time }))
            multi := c.multi ++ v.multi
            evWait := c.evWait ++ v.evs
            recs := atMost8 (c.recs ++ v.recs.mapIdx fun i (r : MRec) => { r with id := c.nextId + i })
            active := v.active.getD c.active
            shadow := v.shadow.getD c.shadow
            loadsBack := c.loadsBack ++ (v.load.map fun (l : WLoad) => { l with waited := 0 }).toList }).unlatch v.k v.latches

/-- A saved context goes back into its core from what was kept and from the bytes of its area. The area holds the state that the
context goes on with; the checkpoints of bundles that had not retired stand as they were (R320). -/
def State.resume (s : State) (n k : Nat) (v : Saved) : State :=
  let x := s.ctx n k
  let l := s.areaBytes v.fpa x.saveBytes
  let rd (o m : Nat) : Nat := leNat (((l.getD []).drop o).take m)
  let v1 := if l.isSome then v.fromArea x.poolBytes rd else v
  let s0 := if ownFpa v.fpa && !inCsr v.fpa then s.flushOwn v.fpa x.saveBytes else s.dropTabs areaKey
  let s1 := s0.updCore n fun c =>
    let c0 := if l.isSome then c.updCtx k fun x => { x with arch := x.arch.fromArea x.poolBytes rd } else c
    let c1 := if x.gone then (c0.restore v1).replayAt k else c0.restore v1
    c1.updCtx k fun x =>
      { x.changeAll (fun a => { a with rqn := 0 }) with
        st := if x.gone then .retired else .ready, waitCnt := 0, replay := !x.gone, saveTo := none, from_ := 0 }
  { s1 with saved := s1.saved.filter fun (w : Saved) => !(w.pcn == n && w.k == k) }

/-- RESUME once the bytes of the area can be read: the lines of one in another package's memory are asked for first. -/
def State.resumeCmd (s : State) (q : HostCmd) (n k fpa : Nat) : State :=
  match s.saved.find? fun v => v.pcn == n && v.k == k && v.fpa == fpa with
  | some v =>
    if !coreExists n || (s.ctx n k).st != .saved then s.complete q 10 4 0 []
    else
      match s.areaLacks fpa (s.ctx n k).saveBytes with
      | [] => (s.resume n k v).complete q 10 0 0 []
      | l =>
        let s1 := l.foldl (fun s x => s.farTable 0 areaKey x) s
        { s1 with fw := { s1.fw with waiting := s1.fw.waiting ++ [.resume q n k fpa] } }
  | none => s.complete q 10 4 0 []

/-- `RESUME`: the context is Ready with replay pending; `rq` holds no row (R83). -/
def execResume (q : HostCmd) (n k fpa : Nat) (s : State) : Out1 := command q (fun s => s.resumeCmd q n k fpa) s

end Sys2Proof.Machine
end

