-- ==== Sys2Proof/Machine/Domains.lean ====
section
/-!
DEFINITION. Domain objects (R58 to R61, R370, R371), channels as their messages reach them (R172 to R174, R288, R372,
R373, R376), broken waits (R368, R369) and cyclic waits (R374). A message that names an object of another package is
that object's answer to a context of this one: a release, whose phase stands above the object's index, an increment
handled, or a break (log 16).
-/

namespace Sys2Proof.Machine

/-! ### Domain objects -/

/-- A domain object of this package changed. -/
def State.updDom (s : State) (o : DomRef) (f : Dom → Dom) : State :=
  s.updStack o.peer fun t => { t with doms := t.doms.map fun d => if d.1 = o.obj then (d.1, f d.2) else d }

/-- Whether the object is held by this package. -/
def domOwn (o : DomRef) : Bool := o.peer / 8 == Config.pkg

/-- A message from the unit that holds an object to the peer of a context (DESIGN CHOICE of class and weight, log 67). -/
def State.fromDom (s : State) (o : DomRef) (peer : Nat) (i : Instr) : State := s.send (o.peer % 8) 0 1 peer (.event i)

/-- PAR of level `lv` (R59). -/
def Arch.setPar (a : Arch) (lv : BitVec 3) (ph : Bool) : Arch :=
  let par (d : Dword) : Dword := if fld d 0 3 = lv.toNat then setFld d 3 1 (if ph then 1 else 0) else d
  { a with csr := { a.csr with dml := vmap par a.csr.dml } }

/-- A context of this package whose `SYNCD` waits on object `o` goes on: PAR, the acquire of its level, Ready (R60). -/
def State.releaseOwn (s : State) (o : DomRef) (ph : Bool) (n k : Nat) : State :=
  match (s.ctx n k).syncs.find? fun w => w.obj == o && w.sent with
  | none => s
  | some w =>
      let s1 : State := s.updCtx n k fun x =>
        let y := x.changeAll fun a => a.setPar w.lv ph
        if x.sync = some w then { y.wakeFrom .sync with sync := none }
        else { (if x.sync.isNone then y.wakeFrom .sync else y) with outer := none }
      if w.lv.toNat < 4 then s1
      else (s1.acquire (stackOf n) w.lv.toNat).updCore n fun c =>
        c.updCtx k fun x => { x with acqUntil := c.time + Config.latAcquire }

/-- Every waiter of an object released, into phase `ph`. -/
def State.releaseAll (s : State) (o : DomRef) (ph : Bool) : List CtxRef → State
  | [] => s
  | w :: r =>
    (if refOwn w then s.releaseOwn o ph (refCore w) w.ctx
     else s.fromDom o w.peer (.domainArrival { o with obj := o.obj + (if ph then 4096 else 0) } w)).releaseAll o ph r

/-- The phase flips once every active member has arrived; a broken object never flips (R60, R61, R370). -/
def State.settleDom (s : State) (o : DomRef) : State :=
  match s.domAt o with
  | none => s
  | some d =>
    if d.arr = d.mbr ∧ d.arr ≠ 0 ∧ d.broken = none then
      (s.updDom o fun d => { d with arr := 0, ph := !d.ph, waiters := [] }).releaseAll o (!d.ph) d.waiters
    else s

/-- A waiter of a broken object is told (R370). -/
def State.tellBroken (s : State) (o : DomRef) (why : BreakWhy) (lvl : Nat) (w : CtxRef) : State :=
  if refOwn w then
    s.after 0 (.brokenWait (refCore w) w.ctx (brokenStatus why (if why.kind = 1 ∨ why.kind = 4 then lvl else 0) 0 0))
  else s.fromDom o w.peer (.domainBreakNotice o why)

/-- `DOMAIN_ARRIVAL` (R60): counted at its object; an answer from another package's object releases its waiter. DESIGN CHOICE (log 58):
one that reaches its home before the object stands there, or after it has gone, is lost. -/
def execDomainArrival (o : DomRef) (who : CtxRef) (s : State) : Out1 :=
  .next (if domOwn o then
      match s.domAt o with
      | none => s
      | some d =>
        let s1 := (s.updDom o fun d => { d with arr := d.arr + 1, waiters := d.waiters ++ [who] }).settleDom o
        match d.broken with
        | some why => s1.tellBroken o why d.lvl.toNat who
        | none => s1
    else if refOwn who then
      s.releaseOwn { o with obj := o.obj % 4096 } (decide (4096 ≤ o.obj)) (refCore who) who.ctx
    else s)

/-- An increment has been handled: the new context and the one that forked it count it off (R61). -/
def State.incDone (s : State) (n k : Nat) : State :=
  let p := (s.ctx n k).parent
  (s.updCtx n p fun x => { x with incs := x.incs - 1 }).updCtx n k fun x => { x with incs := x.incs - 1 }

/-- `MBR_CHANGE` (R61). DESIGN CHOICE (log 58): one that finds no object at its home changes nothing. -/
def execMbrChange (o : DomRef) (inc : Bool) (who : CtxRef) (s : State) : Out1 :=
  .next (if domOwn o then
      let s1 := s.updDom o fun d => { d with mbr := if inc then d.mbr + 1 else d.mbr - 1 }
      if inc then (if refOwn who then s1.incDone (refCore who) who.ctx else s1.fromDom o who.peer (.mbrChange o true who))
      else s1.settleDom o
    else if inc && refOwn who then s.incDone (refCore who) who.ctx
    else s)

/-- The members of an object that a KILL has ended and that still stand in this package. -/
def State.killedMembers (s : State) (o : DomRef) : Nat :=
  s.cores.foldl (fun t c => t + (c.2.ctxs.toList.filter fun x => x.killed && x.arch.domains.contains o).length) 0

/-- The contexts of this package that wait on an object. -/
def State.waitersOn (s : State) (o : DomRef) : List CtxRef :=
  s.cores.flatMap fun c => ([0, 1, 2, 3].filter fun k => (c.2.ctx k).syncs.any fun w => w.obj == o).map fun k => ctxRef c.1 k

/-- An object of this package marked broken, unless a KILL leaves it no member (R370). -/
def State.breakDom (s : State) (o : DomRef) (why : BreakWhy) : State :=
  match s.domAt o with
  | none => s
  | some d =>
    if d.broken.isSome || (why.kind == 1 && decide (d.mbr ≤ s.killedMembers o)) then s
    else d.waiters.foldl (fun s w => s.tellBroken o why d.lvl.toNat w) (s.updDom o fun d => { d with broken := some why })

/-- A notice of a killed context has been handled in the package of peer `p` (R371, R372). -/
def State.noticeDone (s : State) (why : BreakWhy) (p : Nat) : State := { s with told := s.told.erase (why.party, p) }

/-- `DOMAIN_BREAK_NOTICE` (R370, R371): an object that has handled the notice of a context killed in another package answers it. -/
def execDomainBreakNotice (o : DomRef) (why : BreakWhy) (s : State) : Out1 :=
  .next (if domOwn o then
      (if why.kind = 1 ∧ refOwn why.party = false then (s.breakDom o why).fromDom o why.party.peer (.domainBreakNotice o why) else s.breakDom o why)
    else
      let s0 := s.noticeDone why o.peer
      let s1 := if s0.farBroken.any fun b => b.1 == o then s0 else { s0 with farBroken := s0.farBroken ++ [(o, why)] }
      (s.waitersOn o).foldl (fun s w =>
        s.tellBroken o why (match (s.ctx (refCore w) w.ctx).syncs.find? fun x => x.obj == o with | some x => x.lv.toNat | none => 0)
          w) s1)

/-! ### Broken waits (R368, R369) -/

/-- A context whose wait at level `lv` has ended broken: its arrival stays counted (R368). -/
def Ctx.dropSync (x : Ctx) (lv : Nat) : Ctx :=
  let left (w : Option SyncWait) : Option SyncWait := w.filter fun w => w.lv.toNat != lv
  { x with sync := left x.sync, outer := left x.outer }

/-- `BROKEN_WAIT`: a context with LEAVE = 1 takes cause 66; with LEAVE = 0 it waits on. A cyclic wait and a failed network
take it under either. -/
def execBrokenWait (n k : Nat) (status : BitVec 64) (s : State) : Out1 :=
  let kind := fld status 60 4
  let leave := (s.ctx n k).arch.csr.syncmode.getLsbD 1
  .next (if s.alive n k && (leave || kind == 3 || kind == 5) then
      (if kind = 1 ∨ (kind = 4 ∧ fld status 57 3 ≠ 0) then s.updCtx n k fun x => x.dropSync (fld status 57 3) else s).raiseAsync n k 66
        status
    else s)

/-! ### Channels -/

/-- An endpoint of a context of this package changed. -/
def State.updChan (s : State) (e : EndRef) (f : Chan → Chan) : State :=
  s.updCtx (refCore e.who) e.who.ctx fun x => x.setChan e.ep (f (x.chan e.ep))

/-- A change at an endpoint presents the blocked bundle again (R56, R174). -/
def State.chanWake (s : State) (e : EndRef) : State := s.updCtx (refCore e.who) e.who.ctx fun x => x.wakeFrom .channel

/-- Words that stand early and have become the next, in order (R376). -/
def Chan.takeEarly : Nat → Chan → Chan
  | 0, x => x
  | fuel + 1, x =>
    match x.early.find? fun w => w.1 == x.rnum with
    | none => x
    | some w => Chan.takeEarly fuel { x with recv := x.recv ++ [w.2], rnum := x.rnum + 1, early := x.early.filter fun v => v.1 != w.1 }

/-- A word placed by its number (R376). -/
def Chan.place (x : Chan) (num : BitVec 5) (word : Dword) : Chan :=
  Chan.takeEarly 32 { x with early := x.early ++ [(num, word)] }

/-- `CHANNEL_WORD` (R174, R288, R376): placed in the receive queue; a word for an endpoint that is not bound to its sender is not
kept (R172). -/
def execChannelWord (e : ChanEnds) (num : BitVec 5) (word : BitVec 64) (s : State) : Out1 :=
  .next (if ((s.ctx (refCore e.to_.who) e.to_.who.ctx).chan e.to_.ep).bound = some e.by_ then
      (s.updChan e.to_ fun x => x.place num word).chanWake e.to_
    else s)

/-- `CHANNEL_ACKNOWLEDGEMENT` (R174, R284, R373): the send count falls, and the oldest spilled word goes in the word's place. -/
def execChannelAcknowledgement (a : Arrival) (s : State) : Out1 :=
  let e := cellEnd a.cell
  let n := refCore e.who
  let k := e.who.ctx
  let x := (s.ctx n k).chan e.ep
  let s1 := s.updChan e fun x => { x with sent := x.sent - 1, spill := x.spill.drop 1 }
  .next (if !a.room then s.refuse a.cell else (match x.spill with | [] => s1 | v :: _ => s1.sendWord n k e.ep v).chanWake e)

/-- An endpoint after a break notice (R372): with a dead reader nothing sent is awaited and later words are discarded; what
a dead writer sent stands. On an unreachable peer nothing is kept. -/
def Chan.broke (x : Chan) (why : BreakWhy) : Chan :=
  if why.kind = 2 then { x with sent := 0, spill := [], broken := some why, deadReader := true }
  else { x with sent := 0, spill := [], recv := [], early := [], broken := some why }

/-- An endpoint of this package after a break notice. -/
def State.breakEnd (s : State) (e : EndRef) (why : BreakWhy) : State :=
  match ((s.ctx (refCore e.who) e.who.ctx).chan e.ep).bound with
  | none => s
  | some b => if b.who = why.party then (s.updChan e fun x => x.broke why).chanWake e else s

/-- `CHANNEL_BREAK_NOTICE` (R372): that of a context killed in another package is answered there. -/
def execChannelBreakNotice (e : EndRef) (why : BreakWhy) (s : State) : Out1 :=
  .next (if !refOwn e.who then s.noticeDone why e.who.peer
    else if why.kind = 2 ∧ refOwn why.party = false then
      (s.breakEnd e why).send (e.who.peer % 8) 0 1 why.party.peer (.event (.channelBreakNotice e why))
    else s.breakEnd e why)

/-! ### Cyclic waits (R374) -/

/-- A probe along the wait of a context. -/
def State.sendProbe (s : State) (n k : Nat) (p : CtxRef) (hops stamp : Nat) : State :=
  match (s.ctx n k).on with
  | none => s
  | some (rd, ep) =>
    match ((s.ctx n k).chan ep).bound with
    | none => s
    | some b => s.sendFrom n k b.who.peer (.event (.probeReceive b.who { orig := p, reader := rd, ep := b.ep, hops := hops, stamp := stamp }))

/-- `PROBE_SEND`. -/
def execProbeSend (n k : Nat) (s : State) : Out1 :=
  .next ((s.updCtx n k fun x => { x with probe := 0 }).sendProbe n k (ctxRef n k) 1 (s.ctx n k).shown)

/-- Whether a context hands a probe on: it is blocked on a channel, and no word of its own is under way to a reader that
asks. -/
def Ctx.passes (x : Ctx) (pr : Probe) : Bool :=
  x.st == .blocked .channel &&
  (!pr.reader || ((x.chan pr.ep).sent == 0 && (x.chan pr.ep).spill.isEmpty))

/-- `PROBE_RECEIVE`. -/
def execProbeReceive (dest : CtxRef) (pr : Probe) (s : State) : Out1 :=
  let n := refCore dest
  let k := dest.ctx
  let x := s.ctx n k
  .next (if pr.orig = dest then
      (if x.st = .blocked .channel ∧ x.shown = pr.stamp then
        match x.on with
        | none => s
        | some (_, ep) =>
          (match (x.chan ep).bound with
           | none => s
           | some b => s.raiseAsync n k 66 (brokenStatus { kind := 3, party := b.who } 0 ep 0))
       else s)
    else if x.passes pr && decide (pr.hops < 256) then s.sendProbe n k pr.orig (pr.hops + 1) pr.stamp
    else s)

end Sys2Proof.Machine
end

