-- ==== Sys2Proof/Machine/Networks.lean ====
section
/-!
DEFINITION. Requests and their answers at the originator (R282), and the counting networks (R293 to R296, R379, R380):
tokens, numbers, the draining of a network and the commands that act on a quiet one.
-/

namespace Sys2Proof.Machine

/-! ### Requests at their originator -/

/-- The request that a tag names. -/
def State.req (s : State) (tag : BitVec 16) : Option Req := s.reqs.find? fun r => r.tag == tag

/-- The request is answered. -/
def State.dropReq (s : State) (tag : BitVec 16) : State := { s with reqs := s.reqs.filter fun r => r.tag != tag }

/-- A value for the scalar register of a flight. -/
def State.scalarCame (s : State) (n id : Nat) (v : Dword) : State :=
  (s.updCore n fun c => c.updFlight id fun f =>
    { f with kind := match f.kind with | .gload d _ _ => .gload d v true | kd => kd }).after 0 (.globalLoadReturn n id)

/-! ### Tokens -/

/-- The network that a token's cell names. -/
def tokenNet (c : RingCell) : NetRef :=
  { set := if fld c.xt 77 17 = 0 then none else some (fld c.xt 77 17 - 1), net := fld c.xt 0 4 }

/-- Layer and wire of a token's cell. -/
def tokenLay (c : RingCell) : Nat := fld c.xt 4 4
/-- The wire on which a token travels. -/
def tokenWire (c : RingCell) : Nat := fld c.xt 8 5

/-- Layers of a network of width 2^m: m (m + 1) / 2 (R294). -/
def netLayers (wc : BitVec 2) : Nat := let m := wc.toNat + 3; m * (m + 1) / 2

/-- A network changed. -/
def State.updNet (s : State) (d : NetRef) (f : Net → Net) : State :=
  { s with nets := s.nets.map fun x => if x.ref = d then f x else x }

/-- Whether two cells carry one token: its originator and tag. -/
def sameToken (c x : RingCell) : Bool := c.src == x.src && c.tag == x.tag

/-- The cell that returns a number to the core of its `TAKE`, or that the network failed (R295, R379; ADDR names the core and bit 94
of XT is the mark, log 22). -/
def returnCell (c : RingCell) (num : Dword) (failed : Bool) : RingCell :=
  cellFrom { c with
    dst := c.src, src := c.dst, du := BitVec.ofNat 8 (fld c.addr 0 8)
    xt := BitVec.ofNat 96 (c.xt.toNat % 2 ^ 13 + num.toNat * 2 ^ 13 + (if failed then 2 ^ 94 else 0)) } c.dst.toNat

/-- A returned number on its way to the issuing context (DESIGN CHOICE of class and weight, log 67). -/
def State.sendReturn (s : State) (c : RingCell) (num : Dword) (failed : Bool) : State :=
  let r := returnCell c num failed
  s.sendToken none (c.dst.toNat % 8) 1 r.dst.toNat r (.takeReturn ⟨r, true⟩)

/-- Whether an event moves one of some tokens inside network `d`. -/
def movesToken (d : NetRef) (l : List RingCell) (i : Instr) : Bool :=
  match i with
  | .takeToken ⟨c, _⟩ => tokenNet c == d && l.any (sameToken c)
  | .takeReturn ⟨c, _⟩ => tokenNet c == d && c.du == 197 && l.any (sameToken c)
  | _ => false

/-- Whether a cell that waits at a station carries one of some tokens to a host of network `d` in this package. -/
def carriesToken (d : NetRef) (l : List RingCell) (i : Inject) : Bool :=
  match i.msg with
  | .cell c => c.ty == 12 && c.du == 197 && i.dst / 8 == Config.pkg && tokenNet c == d && l.any (sameToken c)
  | _ => false

/-- A token returned as failed, and no longer in the network. -/
def State.failTokens (s : State) (d : NetRef) : List RingCell → State
  | [] => s
  | c :: r => (s.sendReturn c (BitVec.allOnes 64) true).failTokens d r

/-- Every token in a network, and every one held at its entry, returns as failed (R379, R380). -/
def State.flushNet (s : State) (d : NetRef) : State :=
  match s.net d with
  | none => s
  | some x =>
    let s1 : State :=
      { s with sched := s.sched.filter fun e => !movesToken d x.inside e.2
               stk := vmap (fun (t : Stack) => { t with inject := t.inject.filter fun i => !carriesToken d x.inside i }) s.stk }
    (s1.updNet d fun x => { x with inside := [] }).failTokens d x.inside

/-- A network whose host station is lost becomes failed (R379). -/
def State.failNet (s : State) (d : NetRef) : State :=
  match s.net d with
  | none => s
  | some x =>
    let s1 := (s.flushNet d).updNet d fun x => { x with failed := true, held := [] }
    let s2 := s1.failTokens d x.held
    if x.hold then s2.after 0 (.networkQuiet d) else s2

/-- The first core cycle after a base cycle that begins now: with two base cycles in three core cycles, what comes in the cycle without
one is received in the next (R18, R294). -/
def State.bcEnd (s : State) : Nat := if s.now % 3 = 0 then s.now + 1 else s.now

/-- The next token on the lower input wire of the balancer at which a token stands that comes in the same base cycle (R294). -/
def State.lowerFirst (s : State) (c : RingCell) : Option (Nat × Instr) :=
  let b := pairWire (tokenLay c) (tokenWire c)
  if tokenWire c ≤ b then none
  else s.sched.find? fun e => decide (e.1 ≤ s.bcEnd) &&
    (match e.2 with | .takeToken ⟨x, _⟩ => tokenNet x == tokenNet c && tokenLay x == tokenLay c && tokenWire x == b | _ => false)

/-- Whether tokens of this package's cores are in a network of fabric span outside its own hosts. -/
def State.takesAway (s : State) (x : Net) : Bool :=
  x.span && s.reqs.any fun r => match r.kind with
    | .take _ _ _ => tokenNet r.cell == x.ref && !x.held.any (sameToken r.cell)
    | _ => false

/-- Whether a network has no token in it, as far as this package's hosts and cores know (R296, log 73). -/
def State.isQuiet (s : State) (d : NetRef) : Bool :=
  match s.net d with | some x => x.inside.isEmpty && (x.failed || !s.takesAway x) | none => true

/-- A network held for a command that has no token left in it is quiet (R296). -/
def State.quietIf (s : State) (d : NetRef) : State :=
  match s.net d with | some x => if x.hold && s.isQuiet d then s.after 0 (.networkQuiet d) else s | none => s

/-- `TAKE_TOKEN` (R294): of the tokens of a base cycle the lower wire's first; held at its entry while the network drains; else the balancer passes it by its toggle, and it goes
to the host of the next layer, with weight 1 (DESIGN CHOICE, log 67), or to its output counter. -/
def execTakeToken (a : Arrival) (s : State) : Out1 :=
  let c := a.cell
  let d := tokenNet c
  .next (if !a.room then s.refuse c else match s.lowerFirst c, s.net d with
    | some e, _ => { s with sched := (s.now, e.2) :: (s.now, .takeToken ⟨c, true⟩) :: s.sched.erase e }
    | none, none => s
    | none, some x =>
      if x.failed then s.sendReturn c (BitVec.allOnes 64) true
      else if x.hold && tokenLay c == 1 then (s.updNet d fun x => { x with held := x.held ++ [c] }).quietIf d
      else
        let w := netWidth x.wc
        let l := tokenLay c
        let a := tokenWire c
        let b := pairWire l a
        let bit := w / 2 * (l - 1) + balancerRank w l a
        let out := if x.tog.getLsbD bit then max a b else min a b
        let s1 := s.updNet d fun x =>
          { x with tog := x.tog ^^^ BitVec.ofNat 256 (2 ^ bit)
                   inside := (x.inside.filter fun y => !sameToken y c) ++ [c] }
        if netLayers x.wc ≤ l then
          let r : RingCell := { c with xt := setFld c.xt 8 5 out }
          s1.after 0 (.takeReturn ⟨r, true⟩)
        else
          let host := x.hostPeer (balancerHost w (l + 1) out)
          let r := cellFrom { c with dst := BitVec.ofNat 12 host, xt := setFld (setFld c.xt 8 5 out) 4 4 (l + 1) } c.dst.toNat
          let s2 := s1.sendToken none (c.dst.toNat % 8) 1 host r (.takeToken ⟨r, true⟩)
          if host / 8 = Config.pkg then s2
          else (s2.updNet d fun x => { x with inside := x.inside.filter fun y => !sameToken y c }).quietIf d)

/-- A number that has come back: the register of the `TAKE`, and cause 66 where the network failed (R379). -/
def State.numberCame (s : State) (c : RingCell) : State :=
  match s.req c.tag with
  | none => s
  | some r =>
    match r.kind with
    | .take n k id =>
      let s1 := (s.dropReq c.tag).scalarCame n id (BitVec.ofNat 64 (fld c.xt 13 64))
      (if c.xt.getLsbD 94 then s1.raiseAsync n k 66 (takeFailed (fld c.xt 0 4)) else s1).quietIf (tokenNet r.cell)
    | _ => s

/-- `TAKE_RETURN` (R295): at the host of the last layer the number is base + c_i × w + i; at its context it is written. -/
def execTakeReturn (a : Arrival) (s : State) : Out1 :=
  let c := a.cell
  let d := tokenNet c
  .next (if !a.room then s.refuse c else if c.du ≠ 197 then s.numberCame c
    else
      match s.net d with
      | none => s
      | some x =>
        let i := tokenWire c
        let num := x.base + BitVec.ofNat 64 ((x.cnt.getD i 0).toNat * netWidth x.wc + i)
        let s1 := s.updNet d fun x =>
          { x with cnt := x.cnt.set i (x.cnt.getD i 0 + 1), returned := x.returned + 1
                   inside := x.inside.filter fun y => !sameToken y c }
        (s1.sendReturn c num false).quietIf d)

/-! ### The commands of a quiet network (R296, R313, R380) -/

/-- The network that a fabric-domain word and a network word name, if they keep their layout. -/
def netOf (dom nw : Dword) (config : Bool) : Option NetRef :=
  let ok := if dom.getLsbD 63 then fld dom 16 47 == 0 else fld dom 0 63 == 0
  let okN := if config then fld nw 4 4 == 0 && fld nw 10 2 == 0 && fld nw 13 3 == 0 && fld nw 21 43 == 0 && fld nw 8 2 != 3
    else fld nw 4 60 == 0
  if ok && okN then some { set := if dom.getLsbD 63 then some (fld dom 0 16) else none, net := fld nw 0 4 } else none

/-- The 8 hosts of a host list. -/
def hostList (h0 h1 : Dword) : List (BitVec 14) :=
  (List.range 8).map fun k => BitVec.ofNat 14 (fld (if k < 4 then h0 else h1) (16 * (k % 4)) 14)

/-- A host list that breaks its layout: bits outside the entries, or any bit for package span. -/
def hostsBad (nw h0 h1 : Dword) : Bool :=
  if nw.getLsbD 12 then (List.range 4).any fun k => fld h0 (16 * k + 14) 2 != 0 || fld h1 (16 * k + 14) 2 != 0
  else h0 != 0 || h1 != 0

/-- A network as CNCONFIG leaves it: every toggle and counter clear (R293). -/
def newNet (d : NetRef) (nw base h0 h1 : Dword) : Net :=
  { ref := d, wc := BitVec.ofNat 2 (fld nw 8 2), span := nw.getLsbD 12, salt := BitVec.ofNat 5 (fld nw 16 5), base := base
    hosts := if nw.getLsbD 12 then hostList h0 h1 else [], tog := 0
    cnt := List.replicate (netWidth (BitVec.ofNat 2 (fld nw 8 2))) 0, failed := false, inside := [], held := [], hold := false
    returned := 0 }

/-- The state record of a network (R296). -/
def Net.record (x : Net) : List Byte :=
  leBytes 8 x.base.toNat ++
  leBytes 8 (x.wc.toNat + (if x.span then 4 else 0) + x.salt.toNat * 2 ^ 3 + x.ref.net % 16 * 2 ^ 8) ++
  leBytes 32 x.tog.toNat ++ x.cnt.flatMap fun c => leBytes 4 c.toNat

/-- The host list configured for a fabric domain: the network's own, or that of another network of the domain (R380). -/
def State.domainHosts (s : State) (x : Net) : List (BitVec 14) :=
  if x.hosts.isEmpty then ((s.nets.find? fun y => y.ref.set == x.ref.set && !y.hosts.isEmpty).map (·.hosts)).getD [] else x.hosts

/-- Whether a record may not be restored into a network of a domain with hosts `hs` (R380). -/
def Net.recordBad (x : Net) (hs : List (BitVec 14)) (l : List Byte) : Bool :=
  let h := leNat ((l.drop 8).take 8)
  nbits h 0 2 == 3 || nbits h 8 4 != x.ref.net || (nbits h 2 1 == 1 && hs.isEmpty)

/-- A network restored from a record, with the host list of its domain. -/
def Net.restored (x : Net) (hs : List (BitVec 14)) (l : List Byte) : Net :=
  let h := leNat ((l.drop 8).take 8)
  let w := netWidth (BitVec.ofNat 2 (nbits h 0 2))
  { x with
    hosts := if nbits h 2 1 = 1 then hs else x.hosts
    base := BitVec.ofNat 64 (leNat (l.take 8)), wc := BitVec.ofNat 2 (nbits h 0 2), span := nbits h 2 1 == 1
    salt := BitVec.ofNat 5 (nbits h 3 5), tog := BitVec.ofNat 256 (leNat ((l.drop 16).take 32))
    cnt := (List.range w).map fun i => BitVec.ofNat 32 (leNat ((l.drop (48 + 4 * i)).take 4)) }

/-- Whether a waiting command waits for network `d`. -/
def WaitCmd.waitsFor (d : NetRef) (w : WaitCmd) : Bool :=
  match w with
  | .cnconfig _ e _ _ _ _ => e == d
  | .cnsave _ e _ => e == d
  | .cnrestore _ e _ => e == d
  | _ => false

/-- A waiting command done on its quiet network. -/
def State.netCommand (s : State) (w : WaitCmd) : State :=
  match w with
  | .cnconfig q d nw base h0 h1 =>
    let y := newNet d nw base h0 h1
    let x : Net := { y with failed := (List.range 8).any fun h => s.gone.contains (y.hostPeer h)
                            held := match s.net d with | some o => o.held | none => [] }
    let s1 : State := { s with nets := (s.nets.filter fun z => z.ref != d) ++ [x]
                               sched := s.sched.filter fun e => e.2 != .networkDrainTimeout d }
    s1.complete q 13 0 0 []
  | .cnsave q d fpa =>
    (match s.net d with
     | none => s.complete q 14 2 0 []
     | some x => if x.failed then s.complete q 14 2 0 [] else (s.fwPut fpa x.record).finish q 14 0 0 [])
  | .cnrestore q d l =>
    let x := (s.net d).getD (newNet d (BitVec.ofNat 64 d.net) 0 0 0)
    let hs := s.domainHosts x
    if x.recordBad hs l then s.complete q 15 2 0 []
    else
      let s1 : State := { s with nets := (s.nets.filter fun z => z.ref != d) ++ [x.restored hs l] }
      s1.complete q 15 0 0 []
  | _ => s

/-- Tokens admitted again. -/
def State.enterInside (s : State) : List RingCell → State
  | [] => s
  | c :: r => (s.after 0 (.takeToken ⟨c, true⟩)).enterInside r

/-- A commit to flash (R396): the older copy takes the record with the next generation. -/
def Life.commit (l : Life) : Life :=
  let g := saturate 64 (max l.flashA.gen l.flashB.gen + 1)
  let r := { l.sram with gen := g }
  if l.flashB.gen < l.flashA.gen then { l with sram := r, flashB := r } else { l with sram := r, flashA := r }

/-- The latest committed snapshot. -/
def Life.latest (l : Life) : LifeRec := if l.flashA.gen < l.flashB.gen then l.flashB else l.flashA

/-- A core after RESET: as at reset, but that its numbers for results go on, so that none is used twice. -/
def Core.again (n : Nat) (c : Core) : Core := { Core.reset n with nextId := c.nextId }

/-- The package after RESET or power-on: nothing of its contexts, objects or memory is left (R315). -/
def State.cleared (s : State) : State :=
  { State.reset with
    now := s.now, cores := s.cores.map fun c => (c.1, Core.again c.1 c.2), tags := s.tags, life := s.life, image := s.image
    outbox := s.outbox, sched := s.sched, free := s.free, segs := s.segs, gone := s.gone }

/-- The ready message (R315): a completion cell with CMD 0 and SEQ 0, where a boot host peer is present. -/
def State.ready (s : State) : State :=
  match s.bootHost with
  | some p => s.emit (.completion p 0 0 0 0 [])
  | none => s

/-- The boot (R315): an image that passes its checks runs and tells its boot host; without one the package does not boot. -/
def State.boot (s : State) : State := if s.image then s.ready else { s with fw := { s.fw with up := false } }

/-- Whether an event is the end of a drain. -/
def isDrainEnd (i : Instr) : Bool := match i with | .networkDrainTimeout _ => true | _ => false

/-- RESET once every network is drained: everything cleared, the completion, and the boot. -/
def State.finishReset (s : State) (q : HostCmd) : State :=
  let s1 : State := { s with sched := s.sched.filter fun e => !isDrainEnd e.2 }
  (s1.cleared.complete q 23 0 0 []).boot

/-- A RESET that waits ends once no network holds a token (R380). -/
def State.settleReset (s : State) : State :=
  match s.fw.waiting.findSome? fun w => match w with | .reset q => some q | _ => none with
  | some q => if s.nets.all fun x => s.isQuiet x.ref then s.finishReset q else s
  | none => s

/-- `NETWORK_QUIET` (R296): the commands that wait for the network act on it, and the held tokens are admitted. -/
def execNetworkQuiet (d : NetRef) (s : State) : Out1 :=
  .next (if !s.isQuiet d then s
    else
      let ws := s.fw.waiting.filter fun w => w.waitsFor d
      let s1 : State := { s with fw := { s.fw with waiting := s.fw.waiting.filter fun w => !w.waitsFor d } }
      let s2 := ws.foldl (fun s w => s.netCommand w) s1
      (match s2.net d with
       | none => s2
       | some x => (s2.updNet d fun x => { x with hold := false, held := [] }).enterInside x.held).settleReset)

/-- The tokens of this package's cores outside its own hosts fail (R380). -/
def State.failAway (s : State) (d : NetRef) : State :=
  match s.net d with
  | none => s
  | some x =>
    if !x.span then s
    else (s.reqs.filter fun r => match r.kind with
      | .take _ _ _ => tokenNet r.cell == d && !x.held.any (sameToken r.cell) | _ => false).foldl
        (fun s r => s.numberCame (returnCell r.cell (BitVec.allOnes 64) true)) s

/-- `NETWORK_DRAIN_TIMEOUT` (R380): while CNCONFIG or RESET waits, the tokens return as failed and the network is quiet. -/
def execNetworkDrainTimeout (d : NetRef) (s : State) : Out1 :=
  .next (match s.net d with
    | none => s
    | some x =>
      if x.hold && s.fw.waiting.any (fun w => match w with | .cnconfig _ e _ _ _ _ => e == d | .reset _ => true | _ => false) then
        ((s.flushNet d).failAway d).after 0 (.networkQuiet d)
      else s)

/-- `HOST_STATION_LOST` (R379). -/
def execHostStationLost (d : NetRef) (s : State) : Out1 := .next (s.failNet d)

/-- A command waits for its network, which holds new tokens at their entry until it is quiet. -/
def State.waitNet (s : State) (d : NetRef) (w : WaitCmd) : State :=
  let s1 : State := { s with fw := { s.fw with waiting := s.fw.waiting ++ [w] } }
  let s2 := s1.updNet d fun x => { x with hold := true }
  if s.isQuiet d then s2.after 0 (.networkQuiet d) else s2

/-- `CNCONFIG` (R293, R313, R380). -/
def execCnconfig (q : HostCmd) (dom net base h0 h1 : BitVec 64) (s : State) : Out1 :=
  command q (fun s =>
    match netOf dom net true with
    | none => s.complete q 13 2 0 []
    | some d =>
      if hostsBad net h0 h1 then s.complete q 13 2 0 []
      else (s.waitNet d (.cnconfig q d net base h0 h1)).after Config.latDrain (.networkDrainTimeout d)) s

/-- `CNSAVE` (R296, R379). -/
def execCnsave (q : HostCmd) (dom net : BitVec 64) (fpa : Nat) (s : State) : Out1 :=
  command q (fun s =>
    match netOf dom net false with
    | none => s.complete q 14 2 0 []
    | some d =>
      if (s.net d).isNone then s.complete q 14 2 0 []
      else if 2 ^ 57 ≤ fpa then s.complete q 14 2 0 []
      else s.waitNet d (.cnsave q d fpa)) s

/-- `CNRESTORE` (R296, R380). -/
def execCnrestore (q : HostCmd) (dom net : BitVec 64) (src : Source) (s : State) : Out1 :=
  command q (fun s =>
    match netOf dom net false with
    | none => s.complete q 15 2 0 []
    | some d =>
      if 2 ^ 57 ≤ src.fpa then s.complete q 15 2 0 []
      else s.waitNet d (.cnrestore q d (s.sourceBytes src 176))) s

end Sys2Proof.Machine
end

