-- ==== Sys2Proof/Machine/Engines.lean ====
section
/-!
DEFINITION. The copy, gather and collective engines (R190, R197 to R201, R290 to R292, R326, R381, R382): how an engine
reads and writes, what it does in a cycle, and the events of its commands.
-/

namespace Sys2Proof.Machine

/-! ### What an engine meets at an address -/

/-- What an engine meets at one byte: its value, where it is written, a failure's KIND, a frame to wait for, a line of the
tables or of its data to be fetched from outside the package, or a line that a swap holds at its home slice (R268). -/
inductive Eng where
  | byte (v : Byte)
  | place (a : Nat)
  | fail (kind : Nat)
  | stop (page plane : Nat)
  | table (line : Nat)
  | data (line : Nat)
  | swapping
  deriving DecidableEq, Repr

/-- A command changed. -/
def State.updCmd (s : State) (id : Nat) (f : Cmd → Cmd) : State :=
  { s with cmds := s.cmds.map fun c => if c.id = id then f c else c }

/-- A command by its number. -/
def State.cmd (s : State) (id : Nat) : Option Cmd := s.cmds.find? fun c => c.id == id

/-- Whether an address lies in a byte buffer: width 8, granule 1 (R29). -/
def State.byteBuffer (s : State) (asn : Nat) (va : Dword) : Bool := s.planeShape asn va (fld va 60 4) == some (8, 0)

/-- A byte at its home in the engine's own stack, as an engine sees it (R275): what stands in an L1 alone it does not see. -/
def State.engHome (s : State) (a : Nat) : Byte := if inCsr a then s.homeByte a else s.memByte a

/-- What an address is to an engine command that reads it or writes it (R197, R198, R353): a place, or why it is none. -/
def State.engAt (s : State) (c : Cmd) (va : Dword) (rd : Bool) : Eng :=
  match s.translate c.asn.toNat va rd (!rd) with
  | .need l => .table l
  | .fault cause => .fail (cause - 32)
  | .stop p q => if c.refused = some (p, q) then .fail 0 else .stop p q
  | .primer v _ => if s.byteBuffer c.asn.toNat va then .byte (BitVec.ofNat 8 v) else .fail 29
  | .loc a _ _ =>
    if !s.byteBuffer c.asn.toNat va then .fail 29
    else if nearAt c.stack a && s.slotHeld (lineOf a) then .swapping
    else .place a

/-- A byte as an engine command reads it (R197, R198, R275, R353, R363): at the home in its own stack, or from a line that has come
from another home. -/
def State.engByte (s : State) (c : Cmd) (va : Dword) : Eng :=
  match s.engAt c va true with
  | .place a =>
    if nearAt c.stack a then (if s.badLine (lineOf a) then .fail 31 else .byte (s.engHome a))
    else
      match c.buf.find? fun b => b.1 == lineOf a with
      | some (_, bad, l) => if bad then .fail 31 else .byte (l.getD (a % 128) 0)
      | none => .data (lineOf a)
  | e => e

/-- Where an engine command writes a byte. -/
def State.engPlace (s : State) (c : Cmd) (va : Dword) : Eng := s.engAt c va false

/-- The bytes before the first that an engine cannot read, and what it meets there. -/
def engBytes : List Eng → List Byte × Option Eng
  | [] => ([], none)
  | .byte v :: r => let x := engBytes r; (v :: x.1, x.2)
  | e :: _ => ([], some e)

/-- How many places follow one another from the first, the first, and what ends them. -/
def engPlaces : List Eng → Option Nat → Nat × Option Eng
  | [], _ => (0, none)
  | .place a :: r, next =>
    if next = none ∨ next = some a then let x := engPlaces r (some (a + 1)); (x.1 + 1, x.2) else (0, none)
  | e :: _, _ => (0, some e)

/-- The address of the first place. -/
def firstPlace : List Eng → Nat | .place a :: _ => a | _ => 0

/-! ### Landing (R201, R255, R275) -/

/-- Bytes landed by a copy or gather engine raise the counts of the arrival words of the scratchpad (R201). -/
def State.arrivals (s : State) (a n : Nat) : State :=
  match spOwner a with
  | none => s
  | some (o, x) =>
    (s.core o).armed.foldl (fun s w =>
      let lo := max x (w + 16)
      let hi := min (x + n) (w + 16 + s.readNat (spAddr o w) 4)
      if lo < hi then s.after 0 (.arrivalUpdate o w (hi - lo)) else s) s

/-- The copies that a command's stack has of bytes go before an engine writes them (R255, R398): dirty words written back, then
dropped; and whether no such write-back is still on its way. -/
def State.engClear (s : State) (c : Cmd) (a n : Nat) : Bool × State :=
  let s1 := s.recall c.stack (s.byCtx c.core c.ctx) a n
  ((linesOf a n).all fun l => !s1.backOut c.stack l, s1)

/-- A request of an engine command, in its class. -/
def State.engAsk (s : State) (c : Cmd) (a ty du : Nat) (kd : ReqKind) (l : List Byte) : State :=
  s.request none c.stack (if c.cls = 2 then 2 else 1) c.weight (peerAt a) kd
    fun tag => ringCell (peerAt a) (peerOf c.stack) du ty a tag l

/-- Bytes of a copy or gather on their way: at a home in the engine's stack they land at once, elsewhere as a TYPE 9 cell for the
engine there (R282), whose acceptance a TYPE 5 cell tells (log 29). -/
def State.sendBytes (s : State) (c : Cmd) (a : Nat) (l : List Byte) : State :=
  if nearAt c.stack a then (s.homePut a l).arrivals a l.length
  else s.engAsk c a 9 (if c.cls = 1 then 194 else 195) (.data c.id c.moved) l

/-- The fabric physical address that a cell for this package names. -/
def cellAddr (c : RingCell) : Nat := peerOf (c.dst.toNat % 8) * 2 ^ 45 + c.addr.toNat

/-- `ARRIVAL_UPDATE` (R201). -/
def execArrivalUpdate (n addr bytes : Nat) (s : State) : Out1 :=
  let p := spAddr n addr
  let w := s.readNat p 16
  let tgt := nbits w 0 32
  let cnt := (nbits w 32 32 + bytes) % 2 ^ 32
  let put (s : State) (cnt gen : Nat) : State := s.homePut (p + 4) (leBytes 8 (cnt + gen % 2 ^ 32 * 2 ^ 32))
  .next (if tgt = 0 then s
    else if nbits w 103 1 = 1 ∧ tgt ≤ cnt then
      (put s (cnt - tgt) (nbits w 64 32 + 1)).updCore n fun c => c.setFlags (BitVec.ofNat 64 (2 ^ nbits w 96 6))
    else put s cnt (nbits w 64 32))

/-! ### Copy and gather commands (R197 to R199, R326) -/

/-- The partial-work value of R326; for a collective its low 40 bits are those of R382. -/
def partialWork (c : Cmd) (kind side low : Nat) : Dword :=
  BitVec.ofNat 64 (c.cls.toNat * 2 ^ 61 + kind % 32 * 2 ^ 56 + c.ctag % 256 * 2 ^ 48 + side % 2 * 2 ^ 47 + low % 2 ^ 40)

/-- A command ends with a failure. -/
def State.engineFail (s : State) (c : Cmd) (kind side low : Nat) : State :=
  (s.updCmd c.id fun c => { c with finished := true }).after 0
    (.engineCommandFail (ctxRef c.core c.ctx) (partialWork c kind side low))

/-- A read of a line of another home for a command; bit 0 of XT tells the home that words dirty in its L1s are not to be seen (R275,
log 22). -/
def State.engFetch (s : State) (c : Cmd) (line : Nat) : State :=
  if s.reqs.any (fun r => r.kind == .copy c.id line) then s
  else s.request none c.stack (if c.cls = 2 then 2 else 1) c.weight (peerAt (line * 128)) (.copy c.id line)
    fun tag => { ringCell (peerAt (line * 128)) (peerOf c.stack) 192 0 (line * 128) tag [] with xt := 1 }

/-- A command waits for a frame. -/
def State.engineStop (s : State) (c : Cmd) (page plane : Nat) : State :=
  (s.updCmd c.id fun c => { c with stopped := some (page, plane) }).askFrame c.asn.toNat page plane

/-- What a command does where it can move nothing: it fails once its own bytes have landed, or it waits. -/
def State.engineMeets (s : State) (c : Cmd) (side : Nat) (e : Eng) : State :=
  match e with
  | .fail kind => if s.cellsOut c then s else s.engineFail c kind side c.moved
  | .stop p q => s.engineStop c p q
  | .table l => s.farTable c.stack c.asn.toNat l
  | .data l => s.engFetch c l
  | _ => s

/-- A page that a command reaches is walked by its stack's walkers (R42, R197): the command goes on once the walk ends. -/
def State.engWalk (s : State) (c : Cmd) (va : Dword) : Option State :=
  let p := (fld va 16 41, fld va 60 4)
  let key := pageKey c.asn.toNat p.1
  if c.walked.contains (key * 16 + p.2) then none
  else
    let x := s.walkPage c.stack c.asn.toNat p.1 [p.2]
    some ((x.2.updCmd c.id fun c => { c with walked := c.walked ++ [key * 16 + p.2], since := max c.since x.1 }).meetFrame c.asn.toNat p)

/-- Byte `j` of a `CPY` of `n` bytes; a byte that the command itself writes is read before or after that (R198, log 15). -/
def State.cpyByte (s : State) (c : Cmd) (n : Nat) : Nat → Nat → Eng
  | 0, j => s.engByte c (c.src + BitVec.ofNat 64 j)
  | fuel + 1, j =>
    let m := (c.src + BitVec.ofNat 64 j - c.dst).toNat
    if n ≤ m ∨ m = j then s.engByte c (c.src + BitVec.ofNat 64 j)
    else if Config.copyOrder (c.id * 2 ^ 40 + j) then
      (if m < c.moved then s.engByte c (c.src + BitVec.ofNat 64 j) else s.cpyByte c n fuel m)
    else
      match c.old.find? fun o => o.1 == j with
      | some o => .byte o.2
      | none => s.engByte c (c.src + BitVec.ofNat 64 j)

/-- The bytes that a `CPY` is about to write over and has still to read (R198). -/
def State.keepOld (s : State) (c : Cmd) (n m a : Nat) : List (Nat × Byte) :=
  (List.range m).filterMap fun i =>
    let j := (c.dst + BitVec.ofNat 64 (c.moved + i) - c.src).toNat
    if nearAt c.stack a = true ∧ c.moved + m ≤ j ∧ j < n then some (j, s.engHome (a + i)) else none

/-- The home slice's part in an engine's access to a place of its own stack (R255, R265, R267); a request that goes to another home
meets its slice there. -/
def State.engineTouch (s : State) (c : Cmd) (a : Nat) (wr : Bool) : State :=
  if nearAt c.stack a then s.l2Touch c.stack By.none_ (lineOf a) wr else s

/-- The home slice's part in an engine's read at an address. -/
def State.engineReads (s : State) (c : Cmd) (va : Dword) : State :=
  match s.engAt c va true with | .place a => s.engineTouch c a false | _ => s

/-- One chunk moved: source bytes `sv`, the first at address `sa`, to places `dv`. -/
def State.moveChunk (s : State) (c : Cmd) (sa : Dword) (sv dv : List Eng) (after_ : Nat → Nat → Cmd → Cmd) : State :=
  let (l, se) := engBytes sv
  let (k, de) := engPlaces dv none
  let m := min l.length k
  if m = 0 then
    (match se, de with
     | some e, _ => if l.isEmpty then s.engineMeets c 0 e else (match de with | some d => s.engineMeets c 1 d | none => s)
     | none, some d => s.engineMeets c 1 d
     | none, none => s)
  else
    let x := s.engClear c (firstPlace dv) m
    if x.1 then
      (((x.2.engineReads c sa).engineTouch c (firstPlace dv) true).sendBytes c (firstPlace dv) (l.take m)).updCmd c.id fun d =>
        { after_ m (firstPlace dv) d with buf := d.buf.drop (d.buf.length - 2) }
    else x.2

/-- Bytes of a chunk: up to the end of a 128-byte line of either address. -/
def chunkLen (left : Nat) (a b : Dword) : Nat := min left (min (128 - fld a 0 7) (128 - fld b 0 7))

/-- A cycle of a `CPY`. -/
def State.copyStep (s : State) (c : Cmd) : State :=
  let n := fld c.cnt 0 40
  if n ≤ c.moved then s.updCmd c.id fun c => { c with finished := true }
  else
    let sa := c.src + BitVec.ofNat 64 c.moved
    let da := c.dst + BitVec.ofNat 64 c.moved
    let len := chunkLen (n - c.moved) sa da
    let sv := (List.range len).map fun i => s.cpyByte c n n (c.moved + i)
    let dv := (List.range len).map fun i => s.engPlace c (da + BitVec.ofNat 64 i)
    ((s.engWalk c sa).orElse fun _ => s.engWalk c da).getD (s.moveChunk c sa sv dv fun m a c =>
      { c with old := (c.old.filter fun o => decide (c.moved + m ≤ o.1)) ++ s.keepOld c n m a, moved := c.moved + m })

/-- A cycle of a `GATH`: its next list entry is read, whose line the home slice looks up once, and a chunk of it moved. -/
def State.gatherStep (s : State) (c : Cmd) : State :=
  if fld c.cnt 0 20 ≤ c.entry then s.updCmd c.id fun c => { c with finished := true }
  else
    let la := c.src + BitVec.ofNat 64 (16 * c.entry)
    match s.engWalk c la with
    | some s1 => s1
    | none =>
    match engBytes ((List.range 16).map fun i => s.engByte c (la + BitVec.ofNat 64 i)) with
    | (_, some e) => s.engineMeets c 0 e
    | (l, none) =>
      let len := leNat ((l.drop 8).take 4)
      if len ≤ c.off then s.updCmd c.id fun c => { c with entry := c.entry + 1, off := 0 }
      else
        let sa : Dword := BitVec.ofNat 64 (leNat (l.take 8) + c.off)
        let da := c.dst + BitVec.ofNat 64 c.moved
        let m := chunkLen (len - c.off) sa da
        let r := ((s.engWalk c sa).orElse fun _ => s.engWalk c da).getD (s.moveChunk c sa
          ((List.range m).map fun i => s.engByte c (sa + BitVec.ofNat 64 i))
          ((List.range m).map fun i => s.engPlace c (da + BitVec.ofNat 64 i))
          fun m _ c => { c with moved := c.moved + m, off := c.off + m })
        if c.off = 0 ∧ (r.cmd c.id).map (·.moved) ≠ some c.moved then r.engineReads c la else r

/-- The command that an engine may start: its oldest unfinished one, if it has not started. -/
def State.startable (s : State) (stack : Nat) (cls : BitVec 3) (eng : Nat) : Option Cmd :=
  match s.cmds.find? fun c => c.stack == stack && c.cls == cls && c.eng == eng && !c.finished with
  | some c => if c.started then none else some c
  | none => none

/-- `COPY_COMMAND_START` (R197): the next command begins, and its bytes move after its start-up. -/
def execCopyCommandStart (stack : Nat) (cls : BitVec 3) (eng : Nat) (s : State) : Out1 :=
  .next (match s.startable stack cls eng with
    | none => s
    | some c => s.updCmd c.id fun c => { c with started := true, since := s.now + Config.latCopy })

/-- `ENGINE_COMMAND_FAIL` (R326): cause 64 with the partial-work value. -/
def execEngineCommandFail (who : CtxRef) (value : BitVec 64) (s : State) : Out1 :=
  .next (if s.alive (refCore who) who.ctx then s.raiseAsync (refCore who) who.ctx 64 value else s)

/-! ### Collectives: elements and chunks (R290, R291) -/

/-- Bytes of an element. -/
def CollJob.eb (j : CollJob) : Nat := if j.bf then 2 else 4
/-- Elements of a cell: 256 bytes. -/
def CollJob.per (j : CollJob) : Nat := 256 / j.eb
/-- Elements of a chunk: ceil (n / P). -/
def CollJob.h (j : CollJob) : Nat := (j.n + j.p - 1) / max 1 j.p
/-- The first element of chunk `c`. -/
def CollJob.lo (j : CollJob) (c : Nat) : Nat := min (c * j.h) j.n
/-- Elements of chunk `c`. -/
def CollJob.len (j : CollJob) (c : Nat) : Nat := min ((c + 1) * j.h) j.n - j.lo c
/-- Cells of `n` elements. -/
def CollJob.cells (j : CollJob) (n : Nat) : Nat := (n + j.per - 1) / j.per
/-- `a − b` modulo P. -/
def CollJob.minus (j : CollJob) (a b : Nat) : Nat := (a + j.p - b % max 1 j.p) % max 1 j.p

/-- The format of a collective's type. -/
def CollJob.fmt (j : CollJob) : Fmt := if j.bf then .bf16 else .f32

/-- The elements that a member contributes: their first index and their number. -/
def CollJob.share (j : CollJob) : Nat × Nat :=
  match j.op.toNat with
  | 2 => (j.lo j.rank, j.len j.rank)
  | 3 => (0, if j.rank = 0 then j.n else 0)
  | _ => (0, j.n)

/-- `k` elements of the member's contribution from element `i`. -/
def CollJob.mine (j : CollJob) (i k : Nat) : List (BitVec 32) := (j.own.drop (i - j.share.1)).take k

/-- Elements as bytes. -/
def CollJob.bytes (j : CollJob) (l : List (BitVec 32)) : List Byte := l.flatMap fun x => leBytes j.eb x.toNat

/-- Bytes as elements. -/
def CollJob.elems (j : CollJob) : Nat → List Byte → List (BitVec 32)
  | 0, _ => []
  | fuel + 1, l => if l = [] then [] else BitVec.ofNat 32 (leNat (l.take j.eb)) :: j.elems fuel (l.drop j.eb)

/-- Whether a value is a NaN or an infinity. -/
def Val.nonFinite : Val → Bool | .fin _ _ _ => false | _ => true

/-- Whether an element is a NaN or an infinity. -/
def CollJob.bad (j : CollJob) (x : BitVec 32) : Bool := Val.nonFinite (decode j.fmt x.toNat)

/-- One sum, and the status bits it sets (R291, R292). -/
def CollJob.sum (j : CollJob) (a b : BitVec 32) : BitVec 32 × Word :=
  let x := BitVec.ofNat 32 (roundNe j.fmt (Val.add 0 (decode j.fmt a.toNat) (decode j.fmt b.toNat)).1)
  (x, (if j.bad x then 1 else 0) |||
    (if (match decode j.fmt x.toNat with | .inf _ => true | _ => false) && !j.bad a && !j.bad b then 2 else 0))

/-- Ring steps of an operation. -/
def CollJob.steps (j : CollJob) : Nat := match j.op.toNat with | 0 => 2 * j.p - 2 | 3 => 1 | _ => j.p - 1

/-- The chunk that a member receives in step `s`. -/
def CollJob.chunkAt (j : CollJob) (s : Nat) : Nat :=
  match j.op.toNat with
  | 0 => if s < j.p - 1 then j.minus j.rank (1 + s) else j.minus j.rank (s - (j.p - 1))
  | 2 => j.minus j.rank (1 + s)
  | 3 => 0
  | _ => j.minus j.rank (1 + s)

/-- Cells that a member receives in step `s`. -/
def CollJob.cellsAt (j : CollJob) (s : Nat) : Nat :=
  if j.op = 3 then (if j.rank = 0 then 0 else (List.range j.p).foldl (fun t k => t + j.cells (j.len k)) 0)
  else j.cells (j.len (j.chunkAt s))

/-- Ring steps of which every cell has come, from the first on. -/
def CollJob.received (j : CollJob) : Nat :=
  ((List.range j.steps).takeWhile fun s => decide (j.cellsAt s ≤ assocGet s 0 j.got)).length

/-- Ring steps completed (R382): a broadcast's once the member's copy of the bucket has landed. -/
def CollJob.done (j : CollJob) : Nat := if j.op = 3 then (if j.landed then 1 else 0) else j.received

/-! ### Collectives: messages -/

/-- A collective's command changed. -/
def State.updJob (s : State) (id : Nat) (f : CollJob → CollJob) : State :=
  s.updCmd id fun c => { c with coll := c.coll.map f }

/-- A cell of a collective (R282, R290): TAG is the collective's place among those of its group (log 22). -/
def CollJob.cell (j : CollJob) (dst src ty addr : Nat) (l : List Byte) (xt : Nat) (stat : Word) : RingCell :=
  { ringCell dst src 193 ty addr (j.ord % 2 ^ 16) l with xt := BitVec.ofNat 96 xt, stat := stat }

/-- A chunk cell (R282, R290): group, chunk, step and command in XT; ADDR counts the cells of the chunk (log 22). -/
def State.sendChunk (s : State) (c : Cmd) (j : CollJob) (dst chunk step idx : Nat) (l : List (BitVec 32)) : State :=
  s.send c.stack 2 c.weight dst (.cell (j.cell dst (peerOf c.stack) 10 idx (j.bytes l)
    (j.grp % 2 ^ 12 + chunk % 2 ^ 16 * 2 ^ 12 + step % 2 ^ 13 * 2 ^ 28 + j.op.toNat * 2 ^ 41 +
      (if j.bf then 2 ^ 44 else 0) + j.n % 2 ^ 32 * 2 ^ 45) j.stat))

/-- Every cell of `l` sent as chunk `chunk` of step `step`. -/
def State.sendCells (s : State) (c : Cmd) (j : CollJob) (dst chunk step : Nat) (l : List (BitVec 32)) : State :=
  (List.range (j.cells l.length)).foldl (fun s i => s.sendChunk c j dst chunk step i ((l.drop (i * j.per)).take j.per)) s

/-- A broadcast cell of chunk `k` of a `bc`, from element `i` on (R287, R291): on ring plane k mod 4, clockwise where k is even and
anticlockwise where it is odd; ADDR holds the group and the element (log 22). -/
def State.sendBroadcast (s : State) (c : Cmd) (j : CollJob) (k i : Nat) (l : List (BitVec 32)) : State :=
  let me := peerOf c.stack
  s.send c.stack 2 c.weight me (.cell { j.cell me me 11 (i * 2 ^ 12 + j.grp % 2 ^ 12) (j.bytes l) 0 j.stat with
    bc := true, dir := BitVec.ofNat 1 (k % 2), ring := BitVec.ofNat 2 (k % 4) })

/-- A status cell that began at the member `rank` (R292). -/
def State.sendStatus (s : State) (c : Cmd) (j : CollJob) (dst rank : Nat) (stat : Word) : State :=
  s.send c.stack 2 c.weight dst (.cell (j.cell dst (peerOf c.stack) 14 0 [] (j.grp % 2 ^ 12 + rank % 2 ^ 16 * 2 ^ 12) stat))

/-- The drop cell that a member begins (R290, R381); `mark` is 1, or 3 where commands disagree. -/
def State.dropOthers (s : State) (c : Cmd) (j : CollJob) (rank mark : Nat) : State :=
  s.passDrop c.stack c.weight j.grp (j.cell 0 (peerOf c.stack) 14 0 []
    (j.grp % 2 ^ 12 + rank % 2 ^ 16 * 2 ^ 12 + mark * 2 ^ 28) j.stat)

/-! ### Collectives: the end of a member that drops or survives a drop (R381, R382) -/

/-- The cells of a chunk joined, if every one is there. -/
def joinCells (l : List (Nat × List (BitVec 32))) (n : Nat) : Option (List (BitVec 32)) :=
  (List.range n).foldl (fun acc i => match acc, l.find? fun x => x.1 == i with
    | some a, some x => some (a ++ x.2) | _, _ => none) (some [])

/-- The most complete value that a member holds of chunk `c`, with its contributor mask. -/
def CollJob.best (j : CollJob) (c : Nat) : Option (List (BitVec 32) × Nat) :=
  let x := j.chunks.getD c { part := [], full := [] }
  let k := j.cells (j.len c)
  let own := j.mine (j.lo c) (j.len c)
  match j.op.toNat with
  | 3 => if j.rank = 0 then some (own, 2 ^ 16) else none
  | 2 => if c = j.rank then some (own, 2 ^ 16 + c) else (joinCells x.full k).map fun l => (l, 2 ^ 16 + c)
  | _ =>
    if k = 0 then none
    else match joinCells x.full k, joinCells x.part k with
      | some l, _ => some (l, j.p * 2 ^ 16 + c)
      | none, some l => some (l, (j.minus j.rank c + 1) * 2 ^ 16 + c)
      | none, none => if own.length = j.len c then some (own, 2 ^ 16 + j.rank) else none

/-- Everything that a member writes when a collective ends for it by a drop. -/
def CollJob.salvage (j : CollJob) : List (Dword × List Byte) :=
  ((List.range j.p).flatMap fun c => match j.best c with
    | none => []
    | some (l, m) => [(j.dst + BitVec.ofNat 64 (j.eb * j.lo c), j.bytes l), (j.desc + BitVec.ofNat 64 (32 + 4 * c), leBytes 4 m)]) ++
  [(j.desc + 28, leBytes 4 j.stat.toNat)]

/-- The collective ends for a member: it writes what it holds. -/
def State.endColl (s : State) (c : Cmd) (kind rank : Nat) : State :=
  let s1 := s.updJob c.id fun j =>
    if j.ended.isSome then j
    else if j.phase ≤ 2 ∧ kind ≠ 31 ∧ (kind = 27 ∨ kind = 30) then { j with ended := some (kind, rank), phase := 2 }
    else { j with ended := some (kind, rank), phase := 6, writes := j.salvage }
  s1.updCmd c.id fun c => { c with started := true }

/-- A group is no longer used until COLLCFG defines it again (R381). -/
def State.breakGroup (s : State) (g rank : Nat) : State :=
  { s with groups := s.groups.map fun x => if x.num = g ∧ x.dropped = none then { x with dropped := some rank } else x }

/-- A member drops out because an access of its own failed (R381): the others are told, once. One that was ending for another's drop
reports its own failure (R382), passes over the write that failed and goes on with the others. -/
def State.failColl (s : State) (c : Cmd) (j : CollJob) (kind : Nat) : State :=
  let told := (j.ended.map (·.2)) == some j.rank
  let s1 := if told then s else (s.dropOthers c j j.rank 1).breakGroup j.grp j.rank
  if j.ended.isSome then
    s1.updJob c.id fun j =>
      { j with phase := 6, writes := if j.phase = 2 then j.salvage else j.writes.drop 1
               ended := if told then j.ended else some (kind, j.rank) }
  else s1.endColl c kind j.rank

/-- What a collective does where an access cannot go on. -/
def State.collMeets (s : State) (c : Cmd) (j : CollJob) (e : Eng) : State :=
  match e with
  | .fail kind => s.failColl c j kind
  | e => s.engineMeets c 0 e

/-- The last act of a member after a drop: FLAG and cause 64 (R381, R382). -/
def State.quitColl (s : State) (c : Cmd) (j : CollJob) (kind rank : Nat) : State :=
  let s1 := s.engineFail c kind 0 (rank % 2 ^ 12 * 2 ^ 28 + j.done % 2 ^ 13 * 2 ^ 15)
  if j.fe then s1.updCore c.core fun o => o.setFlags (BitVec.ofNat 64 (2 ^ j.flag.toNat)) else s1

/-! ### Collectives: cells received (R291, R292) -/

/-- A cell stored under its index. -/
def putCell (i : Nat) (l : List (BitVec 32)) (x : List (Nat × List (BitVec 32))) : List (Nat × List (BitVec 32)) :=
  (x.filter fun y => y.1 != i) ++ [(i, l)]

/-- A chunk's record changed. -/
def CollJob.updChunk (j : CollJob) (c : Nat) (f : Chunk → Chunk) : CollJob :=
  { j with chunks := (List.range j.p).map fun i =>
      let x := j.chunks.getD i { part := [], full := [] }
      if i = c then f x else x }

/-- One more cell of a step received. -/
def CollJob.count (j : CollJob) (step : Nat) : CollJob := { j with got := assocSet step (assocGet step 0 j.got + 1) j.got }

/-- Elements to be written at DST from element `i` on. -/
def CollJob.write (j : CollJob) (i : Nat) (l : List (BitVec 32)) : CollJob :=
  if l.isEmpty then j else { j with writes := j.writes ++ [(j.dst + BitVec.ofNat 64 (j.eb * i), j.bytes l)] }

/-- A member's sums for one cell of a reduce-scatter step, and their status. -/
def CollJob.sums (j : CollJob) (l own : List (BitVec 32)) : List (BitVec 32) × Word :=
  let r := (List.zip l own).map fun x => j.sum x.1 x.2
  (r.map (·.1), r.foldl (fun w x => w ||| x.2) 0)

/-- A chunk cell that agrees with the member's command. -/
def State.takeChunk (s : State) (c : Cmd) (j : CollJob) (x : RingCell) : State :=
  let step := fld x.xt 28 13
  let chunk := fld x.xt 12 16
  let idx := x.addr.toNat
  let l := j.elems x.payload.length x.payload
  let at_ := j.lo chunk + idx * j.per
  let next := s.member j.grp ((j.rank + 1) % max 1 j.p)
  let j0 := { j with stat := j.stat ||| x.stat }
  if (j.op = 0 ∨ j.op = 1) ∧ step < j.p - 1 then
    let r := j.sums l (j.mine at_ l.length)
    let j1 := (({ j0 with stat := j0.stat ||| r.2 }).count step).updChunk chunk fun y => { y with part := putCell idx r.1 y.part }
    if step < j.p - 2 then (s.updJob c.id fun _ => j1).sendChunk c j1 next chunk (step + 1) idx r.1
    else
      let j2 := (j1.updChunk chunk fun y => { y with full := putCell idx r.1 y.full }).write at_ r.1
      let s1 := s.updJob c.id fun _ => j2
      if j.op = 0 then s1.sendChunk c j2 next chunk (step + 1) idx r.1 else s1
  else
    let j1 := ((j0.count step).updChunk chunk fun y => { y with full := putCell idx l y.full }).write at_ l
    let s1 := s.updJob c.id fun _ => j1
    if step + 1 < j.steps then s1.sendChunk c j1 next chunk (step + 1) idx l else s1

/-- A broadcast cell's bytes at a member of a `bc`: they are to be written at their place. -/
def State.takeBroadcast (s : State) (c : Cmd) (j : CollJob) (x : RingCell) : State :=
  if j.rank = 0 then s
  else s.updJob c.id fun _ =>
    (({ j with stat := j.stat ||| x.stat }).count 0).write (x.addr.toNat / 2 ^ 12) (j.elems x.payload.length x.payload)

/-- Whether a cell's command differs from the member's own, or its operation uses no cell of the kind (R290). -/
def disagrees (j : CollJob) (x : RingCell) : Bool :=
  if x.ty = 11 then j.op != 3
  else j.op == 3 || fld x.xt 41 3 != j.op.toNat || (fld x.xt 44 1 == 1) != j.bf || fld x.xt 45 32 != j.n % 2 ^ 32

/-- A status cell: ORed in, and passed on until it has been at every member (R292). -/
def State.takeStatus (s : State) (c : Cmd) (j : CollJob) (x : RingCell) : State :=
  let origin := fld x.xt 12 16
  let next := (j.rank + 1) % max 1 j.p
  let s1 := s.updJob c.id fun j => { j with stat := j.stat ||| x.stat, statIn := j.statIn + 1 }
  if next = origin then s1 else s1.sendStatus c j (s.member j.grp next) origin (x.stat ||| j.stat)

/-- A cell of the collective that a command runs; its STAT is ORed in, whatever it is (R292). -/
def State.takeColl (s : State) (c : Cmd) (j0 : CollJob) (x : RingCell) : State :=
  let j := { j0 with stat := j0.stat ||| x.stat }
  let s := s.updJob c.id fun j => { j with stat := j.stat ||| x.stat }
  if x.ty = 14 then
    (if isDrop x then
       let r := fld x.xt 12 16
       if x.xt.getLsbD 29 then s.endColl c 27 r else s.endColl c 30 r
     else s.takeStatus c j x)
  else if disagrees j x then
    let r := if x.ty = 11 then 0 else s.rankOf j.grp x.src.toNat
    (s.dropOthers c j r 3).endColl c 27 r
  else if x.ty = 11 then s.takeBroadcast c j x
  else s.takeChunk c j x

/-- The command at the head of a stack's collective engine. -/
def State.collCmd (s : State) (t : Nat) : Option Cmd := s.cmds.find? fun c => c.stack == t && c.cls == 2 && !c.finished

/-- The collective that a stack runs for a group. -/
def State.jobFor (s : State) (t g : Nat) : Option (Cmd × CollJob) :=
  match s.collCmd t with
  | some c => (match c.coll with | some j => if j.grp = g then some (c, j) else none | none => none)
  | none => none

/-- The group that a cell of a collective names. -/
def collGroup (x : RingCell) : Nat := if x.ty = 11 then x.addr.toNat % 2 ^ 12 else fld x.xt 0 12

/-- A cell of a collective reaches stack `t`: it acts on the collective that it belongs to, waits for it to begin here, or is
discarded after its end (R290, R381). A drop cell goes on round the group, and one that tells of a lost member ends the group. -/
def State.collCell (s : State) (t : Nat) (x : RingCell) : State :=
  let g := collGroup x
  match s.group g with
  | none => s
  | some y =>
    if !y.members.contains (peerOf t) then s
    else
      let own := match s.jobFor t g with | some (_, j) => if j.ord % 2 ^ 16 = x.tag.toNat then j.stat else 0 | none => 0
      let s1 := if isDrop x then s.passDrop t 1 g { x with stat := x.stat ||| own } else s
      let s2 := if isDrop x && !x.xt.getLsbD 29 then s1.breakGroup g (fld x.xt 12 16) else s1
      let wait : State := { s2 with collEarly := s2.collEarly ++ [(t, x)] }
      let later : State :=
        if (isDrop x && !x.xt.getLsbD 29) = false ∧ (x.tag.toNat + 2 ^ 16 - assocGet t 0 y.runs % 2 ^ 16) % 2 ^ 16 < 2 ^ 15 ∧ y.dropped = none then wait else s2
      match s2.jobFor t g with
      | none => later
      | some (c, j) =>
        if j.phase = 0 ∨ j.ord % 2 ^ 16 ≠ x.tag.toNat then later
        else if j.ended.isSome || j.phase == 8 then s2
        else if 3 ≤ j.phase ∨ isDrop x = true then s2.takeColl c j x
        else wait

/-- A cell of a collective taken at its stack (R284), or refused. -/
def State.collAt (s : State) (x : RingCell) (room : Bool) : State := if room then s.collCell (x.dst.toNat % 8) x else s.refuse x

/-- `COLLECTIVE_CHUNK` (R291). -/
def execCollectiveChunk (a : Arrival) (s : State) : Out1 := .next (s.collAt a.cell a.room)
/-- `COLLECTIVE_STATUS` (R292). -/
def execCollectiveStatus (a : Arrival) (s : State) : Out1 := .next (s.collAt a.cell a.room)
/-- `COLLECTIVE_DROP` (R381). -/
def execCollectiveDrop (a : Arrival) (s : State) : Out1 := .next (s.collAt a.cell a.room)

/-! ### Collectives: the engine's cycle (R200, R290) -/

/-- The bucket-ready word is read at its home: the collective starts once it is at least RTGT. -/
def State.evalReady (s : State) (c : Cmd) (j : CollJob) : State :=
  match s.engWalk c j.ready with
  | some s1 => s1
  | none =>
    match engBytes ((List.range 8).map fun i => s.engByte c (j.ready + BitVec.ofNat 64 i)) with
    | (l, none) =>
      let w := leNat l
      let s1 := (s.engineReads c j.ready).updCmd c.id fun c => { c with buf := [] }
      if j.rtgt.toNat ≤ w then
        (s1.updCmd c.id fun c => { c with started := true }).updJob c.id fun j =>
          { j with phase := 2, look := false, stat := BitVec.ofNat 32 (nbits w 32 30 * 4) }
      else s1.updJob c.id fun j => { j with look := false }
    | (_, some e) => s.collMeets c j e

/-- The cells that came for a job before it could take them. -/
def State.earlyFor (s : State) (t : Nat) (j : CollJob) (x : Nat × RingCell) : Bool :=
  x.1 == t && collGroup x.2 == j.grp && x.2.tag.toNat == j.ord % 2 ^ 16

/-- Cells that came before the collective, in order. -/
def State.takeEarly (s : State) (id : Nat) : List RingCell → State
  | [] => s
  | x :: r =>
    (match s.cmd id with
     | some c => (match c.coll with | some j => if j.ended.isSome then s else s.takeColl c j x | none => s)
     | none => s).takeEarly id r

/-- The head of a stack's engine: a group that is not defined, does not hold the stack or has lost a member ends it at
once (R290, R381); else its bucket-ready word is watched and read. -/
def State.collStart (s : State) (c : Cmd) (j : CollJob) : State :=
  let me := peerOf c.stack
  match s.group j.grp with
  | none => s.engineFail c 28 0 0
  | some g =>
    if !g.members.contains me then s.engineFail c 28 0 0
    else
      match g.dropped with
      | some r => s.engineFail c 30 0 (r % 2 ^ 12 * 2 ^ 28)
      | none =>
        let k := assocGet c.stack 0 g.runs
        let j1 := { j with phase := 1, look := true, ord := k, rank := g.members.findIdx fun p => p == me, p := g.members.length }
        let s1 : State := { s.updJob c.id fun _ => j1 with
          groups := s.groups.map fun x => if x.num = j.grp then { x with runs := assocSet c.stack (k + 1) x.runs } else x }
        match s1.collEarly.find? fun x => s1.earlyFor c.stack j1 x && isDrop x.2 with
        | some x => s1.takeColl { c with coll := some j1 } j1 x.2
        | none => s1.evalReady { c with coll := some j1 } j1

/-- `COLL_HEAD` (R190, R200). -/
def execCollHead (stack : Nat) (s : State) : Out1 :=
  .next (match s.collCmd stack with
    | some c => (match c.coll with | some j => if j.phase = 0 then s.collStart c j else s | none => s)
    | none => s)

/-- Reads of a command whose lines are on their way are given up: what they bring is no longer awaited. -/
def State.readAfresh (s : State) (id : Nat) : State :=
  { s.updCmd id (fun c => { c with buf := [] }) with
    reqs := s.reqs.filter fun r => match r.kind with | .copy i _ => i != id | _ => true }

/-- A notification at one stack: the watched word is read and evaluated again. -/
def State.notifyAt (s : State) (stack addr : Nat) : State :=
  if s.watches stack addr then
    match s.collCmd stack with
    | some c => (match c.coll with
      | some j => if j.phase = 1 then ((s.readAfresh c.id).updJob c.id fun j => { j with look := true }).evalReady { c with buf := [] } j else s
      | none => s)
    | none => s
  else s

/-- `SIGST_NOTIFY` (R190): the watched word is evaluated again; a notification of another package names stack 8, which is every one. -/
def execSigstNotify (stack addr : Nat) (s : State) : Out1 := .next ((notified stack).foldl (fun s t => s.notifyAt t addr) s)

/-- The first cells of a member: chunk r of the reduce-scatter or all-gather, the whole bucket of a broadcast (R291). -/
def State.firstCells (s : State) (c : Cmd) (j : CollJob) : State :=
  let next := s.member j.grp ((j.rank + 1) % max 1 j.p)
  let l := j.mine (j.lo j.rank) (j.len j.rank)
  match j.op.toNat with
  | 3 =>
    if j.rank = 0 then
      (List.range j.p).foldl (fun s k => (List.range (j.cells (j.len k))).foldl (fun s i =>
          s.sendBroadcast c j k (j.lo k + i * j.per) ((j.mine (j.lo k) (j.len k)).drop (i * j.per) |>.take j.per)) s)
        (s.updJob c.id fun j => j.write 0 j.own)
    else s
  | 2 => (s.updJob c.id fun j => j.write (j.lo j.rank) l).sendCells c j next j.rank 0 l
  | _ => s.sendCells c j next j.rank 0 l

/-- The contribution is read; then the ring begins, or a member that survives a drop writes what it holds. -/
def State.collLoad (s : State) (c : Cmd) (j : CollJob) : State :=
  let (i, k) := j.share
  let n := k * j.eb
  let va (b : Nat) : Dword := j.src + BitVec.ofNat 64 (i * j.eb + b)
  match (if n = 0 then [] else (List.range (n / 2 ^ 16 + 2)).map fun b => va (min (b * 2 ^ 16) (n - 1))).findSome? fun a => s.engWalk c a with
  | some s1 => s1
  | none =>
  match engBytes ((List.range n).map fun b => s.engByte c (va b)) with
  | (l, none) =>
    let own := j.elems l.length l
    let s0 := ((List.range n).filterMap fun b => match s.engAt c (va b) true with
        | .place a => if nearAt c.stack a then some (lineOf a) else none | _ => none).dedup.foldl (fun s x => s.l2Touch c.stack By.none_ x false) s
    let j1 := { j with own := own, stat := j.stat ||| (if own.any j.bad then 1 else 0), phase := 3 }
    match j.ended with
    | some _ => s0.updJob c.id fun _ => { j1 with phase := 6, writes := j1.salvage }
    | none =>
      let early := (s0.collEarly.filter fun x => s0.earlyFor c.stack j x).map (·.2)
      let s1 : State := { s0 with collEarly := s0.collEarly.filter fun x => !s0.earlyFor c.stack j x }
      ((s1.updJob c.id fun _ => j1).firstCells c j1).takeEarly c.id early
  | (_, some e) => s.collMeets c j e

/-- Whether a write of a command is outstanding. -/
def State.engineOut (s : State) (id : Nat) : Bool := s.reqs.any fun r => r.kind == .engine id

/-- Bytes of a collective written at their place: in its own stack at their home, else by a write whose answer is awaited; and whether
they could be, no write-back of them being on its way. -/
def State.collPut (s : State) (c : Cmd) (a : Nat) (l : List Byte) : Bool × State :=
  let x := s.engClear c a l.length
  if !x.1 then x
  else if nearAt c.stack a then
    (true, (if uncached a then x.2 else x.2.l2Touch c.stack By.none_ (lineOf a) true).homePut a l)
  else (true, x.2.engAsk c a 2 192 (.engine c.id) l)

/-- One write of a collective. -/
def State.collWrite (s : State) (c : Cmd) (j : CollJob) (va : Dword) (l : List Byte) : State :=
  let len := min l.length (128 - fld va 0 7)
  let dv := (List.range len).map fun i => s.engPlace c (va + BitVec.ofNat 64 i)
  let (k, e) := engPlaces dv none
  match s.engWalk c va with
  | some s1 => s1
  | none =>
    if k = 0 then (match e with | some e => s.collMeets c j e | none => s)
    else
      let x := s.collPut c (firstPlace dv) (l.take k)
      if x.1 then x.2.updJob c.id fun j =>
        { j with writes := match j.writes with
            | [] => []
            | (a, m) :: r => if m.length ≤ k then r else (a + BitVec.ofNat 64 k, m.drop k) :: r }
      else x.2

/-- A cycle of a collective. -/
def State.collStep (s : State) (c : Cmd) (j : CollJob) : State :=
  match j.phase with
  | 1 => if j.look then s.evalReady c j else s
  | 2 => s.collLoad c j
  | 3 =>
    (match j.writes with
     | (a, l) :: _ => s.collWrite c j a l
     | [] =>
       if j.op = 3 ∧ j.landed = false then
         (if j.steps ≤ j.received ∧ s.engineOut c.id = false then s.updJob c.id fun j => { j with landed := true } else s)
       else if j.steps ≤ j.done then
         let s1 := s.updJob c.id fun j => { j with phase := 4 }
         s1.sendStatus c j (s.member j.grp ((j.rank + 1) % max 1 j.p)) j.rank j.stat
       else s)
  | 4 => if j.p ≤ j.statIn + 1 ∧ !s.engineOut c.id then s.updJob c.id fun j => { j with phase := 5 } else s
  | 6 =>
    (match j.writes with
     | (a, l) :: _ => s.collWrite c j a l
     | [] => (match j.ended with
       | some (kind, rank) => if s.engineOut c.id then s else s.quitColl c j kind rank
       | none => s))
  | _ => s

/-- Whether a command waits for a line, a frame, a write, a write-back of its stack or the end of a walk. -/
def State.cmdWaits (s : State) (c : Cmd) : Bool :=
  c.stopped.isSome || decide (s.now < c.since) || s.engineOut c.id || s.reqs.any fun r => match r.kind with
    | .copy id _ => id == c.id
    | .table a _ => a == c.asn.toNat
    | .back t _ _ => t == c.stack
    | _ => false

/-- A word of a collective's descriptor at offset `o` written: the value `f` makes of the bytes that stand there. -/
def State.collWord (s : State) (c : Cmd) (j : CollJob) (o : Nat) (f : Nat → Nat) (phase : Nat) : State :=
  let va (i : Nat) : Dword := j.desc + BitVec.ofNat 64 (o + i)
  let dv := (List.range 4).map fun i => s.engPlace c (va i)
  match s.engWalk c (va 0), engBytes ((List.range 4).map fun i => s.engByte c (va i)), engPlaces dv none with
  | some s1, _, _ => s1
  | none, (l, none), (4, _) =>
    let x := s.collPut c (firstPlace dv) (leBytes 4 (f (leNat l)))
    if x.1 then x.2.updJob c.id fun j => { j with phase := phase } else x.2
  | none, (_, some e), _ => s.collMeets c j e
  | none, (_, none), (_, some e) => s.collMeets c j e
  | none, (_, none), (_, none) => s.failColl c j 0

/-- The next act at the end of a collective (R200): STAT, then DONE + 1, each with release; then the flag. -/
def State.collEnd (s : State) (id : Nat) : State :=
  match s.cmd id with
  | none => s
  | some c =>
    match c.coll with
    | none => s
    | some j =>
      if s.cmdWaits c then s
      else
        match j.phase with
        | 5 => s.collWord c j 28 (fun _ => j.stat.toNat) 7
        | 7 => s.collWord c j 20 (fun v => v + 1) 8
        | 8 =>
          let s1 := s.updCmd c.id fun c => { c with finished := true }
          if j.fe then s1.updCore c.core fun o => o.setFlags (BitVec.ofNat 64 (2 ^ j.flag.toNat)) else s1
        | _ => s

/-- `COLL_COMPLETE` (R200): STAT, DONE + 1 and FLAG, each once the one before has performed at its home. -/
def execCollComplete (stack : Nat) (s : State) : Out1 :=
  .next (match s.collCmd stack with
    | none => s
    | some c => ((s.collEnd c.id).collEnd c.id).collEnd c.id)

/-- One cycle of every engine: commands that have started and wait for nothing. -/
def State.runEngines (s : State) : State :=
  s.cmds.foldl (fun s c0 =>
    match s.cmd c0.id with
    | none => s
    | some c =>
      if c.finished || c.stopped.isSome then s
      else
        match c.coll with
        | some j => if s.collCmd c.stack = some c ∧ c.since ≤ s.now then s.collStep c j else s
        | none => if c.started && decide (c.since ≤ s.now) then (if c.cls = 1 then s.copyStep c else s.gatherStep c) else s)
    { s with cmds := s.cmds.filter fun c => !c.finished || s.cellsOut c || s.engineOut c.id }

end Sys2Proof.Machine
end

