-- ==== Sys2Proof/Machine/Fabric.lean ====
section
/-!
DEFINITION. Ring cells as a station of this package takes them (R282 to R287, R363, R375, R377, R378): requests served at
their home, responses taken by their originator, signals, broadcasts, refused and lost cells, segments and peers.
The spec gives no layout to the payload of a TYPE 4 cell, nor to the answers; log 22 names the ones used here.
-/

namespace Sys2Proof.Machine

/-- A cell put on a ring again at the station of stack `t`: it arrives in this package, or leaves it, as a broadcast of a ring above does. -/
def State.reinsert (s : State) (t : Nat) (c : RingCell) : State :=
  if c.dst.toNat / 8 = Config.pkg ∧ (c.bc = true → c.lvl = 0) then s.arriveCell (ringTime c.dir c.dst.toNat (peerOf t)) c else s.emit (.cell c)

/-- The stack beside which a station stands: its own, or that of its bridge (R7, R280). -/
def stationStack (g : SegRef) : Nat := if g.lvl = 0 then g.pos % 8 else g.ring % 4 * 2

/-- The answer to a request kept for its originator: the last 256 for each peer (R377). -/
def keepReply (p : BitVec 12) (t : BitVec 16) (c : RingCell) (l : List (BitVec 12 × BitVec 16 × RingCell)) :
    List (BitVec 12 × BitVec 16 × RingCell) :=
  let m := l.filter fun r => !(r.1 == p && r.2.1 == t)
  let mine := m.filter fun r => r.1 == p
  (if 256 ≤ mine.length then (match mine with | o :: _ => m.erase o | [] => m) else m) ++ [(p, t, c)]

/-- The answer to a request: sent, and kept. DESIGN CHOICE: it is of the load/store class with weight 1 (log 67), and its DU is 192
whatever unit asked (log 22). -/
def State.reply (s : State) (c : RingCell) (ty : Nat) (l : List Byte) : State :=
  let r := ringCell c.src.toNat c.dst.toNat 192 ty c.addr.toNat c.tag.toNat l
  ({ s with replies := keepReply c.src c.tag r s.replies }).send (c.dst.toNat % 8) 0 1 c.src.toNat (.cell r)

/-- A request taken at its home (R284, R377): refused without room; one already answered is answered from the record, whether it is the
reissued cell or the first, so that it takes effect once; one for a line of a page that a swap moves comes again at its end (R268); one
that reaches no place stops the model. -/
def takeRequest (c : RingCell) (room wr : Bool) (n : Nat) (f : State → State) (s : State) : Out1 :=
  if !room then .next (s.refuse c)
  else
    match s.replies.find? fun r => r.1 == c.src && r.2.1 == c.tag with
    | some r => .next (s.send (c.dst.toNat % 8) 0 1 c.src.toNat (.cell r.2.2))
    | none =>
      if !localMapped c.addr.toNat || !localMapped (c.addr.toNat + n - 1) then .fault .unmapped
      else if csrStop wr [(cellAddr c, n)] then .refused .csrWindow
      else .next (match (if s.slotHeld (lineOf (cellAddr c)) then s.swapOver (lineOf (cellAddr c)) else none) with
        | some w => s.arriveCell (w.ends - s.now) c
        | none => f s)

/-! ### Requests at their home -/

/-- The mark of poison that follows the data of an answer (log 22). -/
def poisonMark (p : Bool) : List Byte := if p then [1] else []

/-- `READ_REQUEST`: the line at its home, marked if it is poisoned. A copy of the home's cores that is dirty is seen (R259), but not by an
engine (R275, log 22). -/
def execReadRequest (c : RingCell) (room : Bool) (s : State) : Out1 :=
  takeRequest c room false 1 (fun s =>
    let a := cellAddr c / 128 * 128
    let p := s.badLine (lineOf a)
    let l := if c.xt.getLsbD 0 then (List.range 128).map fun i => s.engHome (a + i) else s.homeBytes a 128
    (s.homeAccess (lineOf a) false).reply c 1 ((if p then List.replicate 128 0 else l) ++ poisonMark p)) s

/-- `WRITE`. -/
def execWrite (c : RingCell) (room : Bool) (s : State) : Out1 :=
  takeRequest c room true (max 1 c.payload.length)
    (fun s => ((s.homeAccess (lineOf (cellAddr c)) true).homePut (cellAddr c) c.payload).reply c 5 []) s

/-- `COPY_OR_GATHER_DATA` (R201, R282): the bytes land, and its sender is told (log 29). -/
def execCopyOrGatherData (a : Arrival) (s : State) : Out1 :=
  let c := a.cell
  takeRequest c a.room true (max 1 c.payload.length) (fun s =>
    (((s.homeAccess (lineOf (cellAddr c)) true).homePut (cellAddr c) c.payload).arrivals (cellAddr c) c.payload.length).reply c 5 []) s

/-- Bytes merged at their home under a mask of one bit a byte. -/
def State.maskedPut (s : State) (a mask : Nat) : List Byte → State
  | [] => s
  | v :: r => (if mask % 2 = 1 then s.homePut a [v] else s).maskedPut (a + 1) (mask / 2) r

/-- `BYTE_MASKED_WRITE`: a 16-byte mask, then the bytes; a write of a whole line clears its poison (R363). -/
def execByteMaskedWrite (c : RingCell) (room : Bool) (s : State) : Out1 :=
  takeRequest c room true (max 1 (c.payload.length - 16)) (fun s =>
    let a := cellAddr c
    let m := leNat (c.payload.take 16)
    let l := c.payload.drop 16
    let s1 := s.homeAccess (lineOf a) true
    (if m = 2 ^ 128 - 1 ∧ l.length = 128 then s1.homePut a l else s1.maskedPut a m l).reply c 5 []) s

/-- What a TYPE 4 cell does at the home slice (R193, R194, R257, R363): the answer's bytes and the state. -/
def State.serveAtomic (s : State) (c : RingCell) : List Byte × State :=
  let a := cellAddr c
  let code := leNat (c.payload.take 1)
  let len := leNat ((c.payload.drop 1).take 7)
  let fpc : Dword := BitVec.ofNat 64 (leNat ((c.payload.drop 8).take 8))
  let data := (c.payload.drop 16).take len
  let other := (c.payload.drop 16).drop len
  if code = mergeCode then
    let m := leNat (other.take 1)
    ([], s.homePut a [BitVec.ofNat 8 (((s.homeByte a).toNat &&& (255 - m)) ||| (leNat (data.take 1) &&& m))])
  else if s.badLine (lineOf a) then (leBytes (if code < 16 then len else 0) 0 ++ [1], s)
  else if code < 16 then
    let old := leNat (s.homeBytes a len)
    (leBytes len old ++ [0],
     s.homePut a (leBytes len (atomNew code fpc (BitVec.ofNat 64 old) (BitVec.ofNat 64 (leNat data))
       (BitVec.ofNat 64 (leNat other))).toNat))
  else
    ([0], s.homePut a (leBytes len (redvAll (code - 16) fpc (8 * len) (leNat (s.homeBytes a len)) (leNat data))))

/-- `ATOMIC_REQUEST`. -/
def execAtomicRequest (c : RingCell) (room : Bool) (s : State) : Out1 :=
  takeRequest c room true 1 (fun s =>
    let r := (s.homeAccess (lineOf (cellAddr c)) true).serveAtomic c
    r.2.reply c 5 r.1) s

/-! ### Responses at their originator -/

/-- Whether a word's flight waits for a line to come to its stack's copies. -/
def Flight.awaits (f : Flight) (line : Nat) : Bool :=
  match f.kind with | .check _ _ _ st p => st == 4 && !f.past && (linesIn p.spans).contains line | _ => false

/-- A line handed to those that wait for it, and to no copy: to the flights of a core that await it, or to the fetch for which core `n`
asked. -/
def State.handLine (s : State) (t n line : Nat) (bad : Bool) (l : List Byte) : State :=
  { s with cores := s.cores.map fun (m, c) =>
      if stackOf m = t then
        let ids := (c.flights.filter fun f => f.awaits line).map (·.id)
        let ids := if m = n ∧ ids = [] then [fetchId] else ids
        (m, { c with came := c.came ++ ids.map fun i => { id := i, line := line, bad := bad, bytes := l } })
      else (m, c) }

/-- A line that has come to a stack's copies: its invalid words are filled, or it is marked as poisoned. One whose copies an acquire has
done away with meanwhile serves those that wait for it alone (R274). -/
def State.lineCame (s : State) (t n : Nat) (b : By) (line : Nat) (bad : Bool) (l : List Byte) : State :=
  if (s.stack t).stale.contains line then
    (s.updStack t fun x => { x with stale := x.stale.filter fun y => y != line }).handLine t n line bad l
  else
    let s1 := if bad then s.updStack t fun x => { x with bad := addPoison line x.bad } else s.fillLine t line l
    s1.l2Touch t b line false

/-- A line that has come past the caches for a flight that still waits for it, or for a fetch. -/
def State.cameBy (s : State) (n id line : Nat) (bad : Bool) (l : List Byte) : State :=
  if id = fetchId ∨ ((s.core n).flight id).isSome = true then
    s.updCore n fun c => { c with came := c.came ++ [{ id := id, line := line, bad := bad, bytes := l }] }
  else s

/-- A line of a table that has come to the translation caches of an address space. -/
def State.tabCame (s : State) (asn line : Nat) (bad : Bool) (l : List Byte) : State :=
  { s with tabs := (s.tabs.filter fun x => !(x.1 == asn && x.2.line == line)) ++ [(asn, { id := 0, line := line, bad := bad, bytes := l })] }

/-- Whether a request brings bytes. -/
def isRead : ReqKind → Bool
  | .fill _ _ _ _ => true
  | .read _ _ _ _ => true
  | .table _ _ => true
  | .copy _ _ => true
  | _ => false

/-- What a read that was awaited brings: its bytes, or that they are poisoned. -/
def State.readCame (s : State) (kd : ReqKind) (bad : Bool) (l : List Byte) : State :=
  match kd with
  | .fill t line n k => s.lineCame t n (s.byCtx n k) line bad l
  | .read n _ id line => s.cameBy n id line bad l
  | .table asn line => s.tabCame asn line bad l
  | .copy id line => s.updCmd id fun x => { x with buf := x.buf ++ [(line, bad, l)] }
  | _ => s

/-- `READ_RESPONSE`: the line has come, and what waits for it goes on. -/
def execReadResponse (a : Arrival) (s : State) : Out1 :=
  let c := a.cell
  .next (if !a.room then s.refuse c
    else match s.req c.tag with
    | none => s
    | some r => if isRead r.kind then (s.dropReq c.tag).readCame r.kind (decide (128 < c.payload.length)) c.payload else s)

/-- `WRITE_RESPONSE`: a store, write-back or engine's write has performed, or an atomic's old value has come. -/
def execWriteResponse (a : Arrival) (s : State) : Out1 :=
  let c := a.cell
  .next (if !a.room then s.refuse c
    else match s.req c.tag with
    | none => s
    | some r =>
      let bad (n k : Nat) (s : State) : State :=
        if c.payload.getLast? = some 1 then s.raiseAsync n k 65 (poisonVal n (r.cell.dst.toNat * 2 ^ 45 + r.cell.addr.toNat)) else s
      match r.kind with
      | .store n k _ => bad n k (s.dropReq c.tag)
      | .atomic n k id _ => bad n k ((s.dropReq c.tag).scalarCame n id (BitVec.ofNat 64 (leNat (c.payload.dropLast))))
      | .back _ _ _ => s.dropReq c.tag
      | .firm => s.dropReq c.tag
      | .engine _ => s.dropReq c.tag
      | .data _ _ => s.dropReq c.tag
      | _ => s)

/-! ### Signals (R152) -/

/-- `SIGNAL`: the flag that ADDR names is set on the core (log 21). -/
def execSignal (a : Arrival) (s : State) : Out1 :=
  let c := a.cell
  .next (if !a.room then s.refuse c
    else if c.du.toNat < 192 then
      s.updCore (c.dst.toNat % 8 * 192 + c.du.toNat) fun o => o.setFlags (BitVec.ofNat 64 (2 ^ (c.addr.toNat % 64)))
    else s)

/-! ### Broadcasts (R287) -/

/-- CPD with bit `pos` set. -/
def cellCopied (c : RingCell) (pos : Nat) : RingCell := { c with xt := setFld c.xt pos 1 1 }

/-- A broadcast cell goes on from a position of its ring: to the next station of this package's ring, or back to its originator;
on the rings above it leaves the package. The second circulation is marked in RFS (log 22). -/
def State.goOn (s : State) (c : RingCell) (pos : Nat) : State :=
  if c.lvl = 0 ∧ c.src.toNat / 8 = Config.pkg then
    s.after 3 (if pos % 8 = c.src.toNat % 8 then .broadcastReturn c (c.rfs == 1) else .broadcastData c (nextStop c pos) true)
  else s.emit (.cell c)

/-- A bridge's copy from the rack ring: it originates a broadcast cell on the package ring below. -/
def State.spread (s : State) (c : RingCell) : State :=
  let r : RingCell := { c with lvl := 0, xt := 0, rfs := 0, src := BitVec.ofNat 12 (peerOf (c.src.toNat % 8)), dst := BitVec.ofNat 12 (peerOf (c.src.toNat % 8)) }
  s.after 9 (.broadcastData r (nextStop r (c.src.toNat % 8)) true)

/-- Whether the bridge beside position `pos` takes a member's broadcast cell up to its rack ring: that of the cell's ring plane, for
a group that extends beyond the package (R287). -/
def State.goesUp (s : State) (c : RingCell) (pos : Nat) : Bool :=
  c.lvl == 0 && c.bc && c.du == 193 && pos == 2 * c.ring.toNat &&
  (match s.group (collGroup c) with
   | some g => g.members.head? == some c.src.toNat && g.members.any fun p => p / 8 != Config.pkg
   | none => false)

/-- Whether the rings below a bridge hold a member of a broadcast cell's group (R291), `unit` being what the bridge belongs to; other
data goes to every station. -/
def State.membersIn (s : State) (c : RingCell) (unit : Nat → Bool) : Bool :=
  c.du != 193 || (match s.group (collGroup c) with | some g => g.members.any unit | none => false)

/-- What a station makes of a broadcast cell's payload: a collective's goes to its engine, other data to its place in the stack; a
bridge originates it on the ring above, or on the ring below where that holds members. -/
def State.copyCell (s : State) (c : RingCell) (pos : Nat) : State :=
  if c.lvl = 0 then
    let a := peerOf pos * 2 ^ 45 + c.addr.toNat
    let s1 := if c.du = 193 then s.collCell pos c else (s.homeAccess (lineOf a) true).homePut a c.payload
    if s1.goesUp c pos then
      s1.emit (.cell { c with lvl := 1, xt := 0, rfs := 0, src := BitVec.ofNat 12 (peerOf pos), dst := BitVec.ofNat 12 (peerOf pos) })
    else s1
  else if c.lvl = 1 then (if s.membersIn c fun p => p / 8 == Config.pkg then s.spread c else s)
  else if s.membersIn c fun p => p / 256 == Config.pkg / 32 then s.emit (.cell { c with lvl := 1, xt := 0, rfs := 0 })
  else s

/-- `BROADCAST_DATA`: a station with room copies the payload, once, and sets its bit, and the cell goes on. A bridge station that
takes a copy originates the cell on the next ring. -/
def execBroadcastData (c : RingCell) (pos : Nat) (room : Bool) (s : State) : Out1 :=
  .next (if !room then (if c.bc then s.goOn c pos else s.refuse c)
    else
      let s1 := if c.bc && c.xt.getLsbD pos then s else s.copyCell c pos
      if c.bc then s1.goOn (cellCopied c pos) pos else s1)

/-- The ring on which a broadcast cell circulates, as a segment names it. -/
def ringOf (c : RingCell) : Nat :=
  match c.lvl.toNat with | 0 => c.src.toNat / 8 | 1 => c.src.toNat / 256 * 4 + c.ring.toNat | _ => c.ring.toNat

/-- Stations of the ring on which a broadcast cell circulates: 8 of a package, 32 of a rack, 16 of a row (R280). -/
def ringSize (lvl : BitVec 2) : Nat := match lvl.toNat with | 0 => 8 | 1 => 32 | _ => 16

/-- The peer that stands for position `p` of the ring of an originator. -/
def ringPeer (lvl : BitVec 2) (src p : Nat) : Nat :=
  match lvl.toNat with
  | 0 => src / 8 * 8 + p
  | 1 => src / 256 * 256 + p * 8
  | _ => p * 256

/-- Positions of ring `b` of a level that have a station (R280, R281): a package's eight, the packages of the rack and on ring 0 its
adapters, the racks of the row. -/
def ringHas (lvl : BitVec 2) (b src p : Nat) : Bool :=
  match lvl.toNat with
  | 0 => true
  | 1 => (rackStations (src / 256) b).any fun x => x != rowBridge && x / 8 == p
  | _ => (rowStations (src / 256)).contains p

/-- A broadcast cell starts round its ring. -/
def State.again (s : State) (c : RingCell) : State :=
  if c.lvl = 0 ∧ c.src.toNat / 8 = Config.pkg then s.after 3 (.broadcastData c (nextStop c c.src.toNat) true) else s.emit (.cell c)

/-- `BROADCAST_RETURN`: removed when every station has copied; else once more round, and then as ordinary cells. -/
def execBroadcastReturn (c : RingCell) (second : Bool) (s : State) : Out1 :=
  let left := (List.range (ringSize c.lvl)).filter fun p => ringHas c.lvl c.ring.toNat c.src.toNat p && !c.xt.getLsbD p
  .next (if left.isEmpty then s
    else if !second then s.again { c with rfs := 1 }
    else left.foldl (fun s p =>
      (s.updStack (c.src.toNat % 8) fun t => t.count 10 1).reinsert (c.src.toNat % 8)
        { escapeCell c with bc := false, rfs := 0, dir := s.escapeDir c.lvl.toNat (ringOf c), dst := BitVec.ofNat 12 (ringPeer c.lvl c.src.toNat p) }) s)

/-! ### Unreachable destinations (R372, R377, R381) -/

/-- A copy or gather command whose data cannot be delivered from an offset on (R326, R377): it ends with KIND 31, its other data
awaited no more. -/
def State.dataLost (s : State) (id off : Nat) : State :=
  let lost := s.reqs.filterMap fun r => match r.kind with | .data i o => if i = id then some o else none | _ => none
  let s1 : State := { s with reqs := s.reqs.filter fun r => match r.kind with | .data i _ => i != id | _ => true }
  match s.cmd id with
  | some c => s1.engineFail c 31 1 (lost.foldl min off)
  | none => s1

/-- An access whose destination is unreachable (R377): a read delivers poison, which a load meets as cause 65, and fills no copy; a store, write-back or
atomic is dropped or delivers 0, with cause 65; an engine command fails. -/
def State.unreachable (s : State) (tag : BitVec 16) : State :=
  match s.req tag with
  | none => s
  | some r =>
    let s1 := s.dropReq tag
    match r.kind with
    | .engine id => (match s1.cmd id with
      | some c => (match c.coll with | some j => s1.failColl c j 31 | none => s1)
      | none => s1)
    | .data id off => s1.dataLost id off
    | .store n k line => s1.raiseAsync n k 65 (poisonVal n (line * 128))
    | .back _ (some (n, k)) line => s1.raiseAsync n k 65 (poisonVal n (line * 128))
    | .atomic n k id line => (s1.scalarCame n id 0).raiseAsync n k 65 (poisonVal n (line * 128))
    | .take n k id =>
      ((s1.scalarCame n id (BitVec.allOnes 64)).raiseAsync n k 66 (takeFailed (fld r.cell.xt 0 4))).quietIf (tokenNet r.cell)
    | .fill t line n _ =>
      (s1.updStack t fun x => { x with stale := x.stale.filter fun y => y != line }).handLine t n line true []
    | kd => s1.readCame kd true []

/-- `REQUEST_REISSUE`: once more, on the escape channel. -/
def execRequestReissue (tag : BitVec 16) (s : State) : Out1 :=
  .next (match s.req tag with
    | none => s
    | some r =>
      if r.again then s
      else
        let c : RingCell := { escapeCell r.cell with dir := s.escapeDir 0 Config.pkg }
        let s1 : State := { s with reqs := s.reqs.map fun q => if q.tag = tag then { q with again := true } else q }
        ((s1.updStack (r.cell.src.toNat % 8) fun t => t.count 10 1).send (r.cell.src.toNat % 8) 0 1 r.cell.dst.toNat (.cell c)).after
          Config.latReissue (.destinationUnreachable tag))

/-- `DESTINATION_UNREACHABLE`: logged and told to the boot host (R375, R395). -/
def execDestinationUnreachable (tag : BitVec 16) (s : State) : Out1 :=
  .next (match s.req tag with
    | none => s
    | some r => (s.unreachable tag).fabricNotice 2 0 r.cell.lvl.toNat r.cell.src.toNat r.cell.src.toNat)

/-- An endpoint bound to a peer that is lost. -/
def Chan.lost (e : Chan) (p : Nat) : Chan :=
  match e.bound with
  | some b => if b.who.peer = p then e.broke { kind := 4, party := b.who } else e
  | none => e

/-- A context whose endpoints to a peer are lost, presenting its bundle again. -/
def Ctx.losePeer (x : Ctx) (p : Nat) : Ctx :=
  let y : Ctx := { x with chans := vmap (fun e => e.lost p) x.chans }
  y.wakeFrom .channel

/-- Endpoints of this package bound to a peer break with KIND 4 (R372). -/
def State.breakPeerChannels (s : State) (p : Nat) : State :=
  { s with cores := s.cores.map fun (n, c) => (n, { c with ctxs := vmap (fun x => x.losePeer p) c.ctxs }) }

/-- The waits of this package on domain objects of a peer are told of it (R370). -/
def State.breakPeerWaits (s : State) (p : Nat) : State :=
  (s.cores.flatMap fun c => ([0, 1, 2, 3].filter fun k =>
    (c.2.ctx k).syncs.any fun w => w.obj.peer == p).map fun k => (c.1, k)).foldl (fun s c =>
      match (s.ctx c.1 c.2).syncs.find? fun w => w.obj.peer == p with
      | some w => s.after 0 (.brokenWait c.1 c.2 (brokenStatus { kind := 4, party := { peer := p, core := 255, ctx := 0 } } w.lv.toNat 0 0))
      | none => s) s

/-- Whether some context of this package's stack at peer `p` is a member of object `o`. -/
def State.memberOn (s : State) (p : Nat) (o : DomRef) : Bool :=
  s.cores.any fun c => peerOf (stackOf c.1) == p && ([0, 1, 2, 3] : List Nat).any fun k =>
    (s.alive c.1 k || (s.ctx c.1 k).st == .retired) && (s.ctx c.1 k).arch.domains.contains o

/-- Objects of this package with a member on a peer break with KIND 4 (R370); of members in another package their waits are known
(log 16). -/
def State.breakPeerDoms (s : State) (p : Nat) : State :=
  ((List.range 8).flatMap fun t => (s.stack t).doms.filterMap fun d =>
    let o : DomRef := { peer := peerOf t, obj := d.1 }
    if (d.2.waiters.any fun w => w.peer == p) || s.memberOn p o then some o else none).foldl (fun s o =>
      s.breakDom o { kind := 4, party := { peer := p, core := 255, ctx := 0 } }) s

/-- The collectives of this package whose group holds a lost peer lose that member (R381). -/
def State.dropMember (s : State) (p : Nat) : State :=
  (s.groups.filter fun g => g.members.contains p).foldl (fun s g =>
    let r := g.members.findIdx fun q => q == p
    (List.range 8).foldl (fun s t => match s.jobFor t g.num with
      | some (c, j) => if j.ended.isSome || j.phase == 0 then s else s.endColl c 30 r
      | none => s) (s.breakGroup g.num r)) s

/-- A peer with no route left (R377): its cells are dropped, its accesses, domains, channels and networks fail. -/
def State.losePeer (s : State) (p : Nat) : State :=
  if s.gone.contains p then s
  else
    let s1 : State := { s with gone := s.gone ++ [p], told := s.told.filter fun x => x.2 != p }
    let tags := (s1.reqs.filter fun r => r.cell.dst.toNat == p ||
      (r.cell.src.toNat == p && (match r.kind with | .take _ _ _ => true | _ => false))).map (·.tag)
    let s2 := (((tags.foldl (fun s t => s.unreachable t) s1).breakPeerChannels p).breakPeerWaits p).breakPeerDoms p
    let s3 := (s2.nets.filter fun d => (List.range 8).any fun h => d.hostPeer h == p).foldl (fun s d => s.failNet d.ref) s2
    (s3.dropMember p).fabricNotice 2 0 0 (peerOf 0) p

/-! ### Segments (R375, R378) -/

/-- A segment's record replaced. -/
def State.setSeg (s : State) (x : Seg) : State :=
  { s with segs := if s.segs.any (fun y => y.ref == x.ref) then s.segs.map (fun y => if y.ref = x.ref then x else y) else s.segs ++ [x] }

/-- The stack stations that no route reaches: both package ring segments beside them are down (R280). -/
def State.cutStacks (s : State) : List Nat :=
  (List.range 8).filter fun t => s.segDown 0 Config.pkg t && s.segDown 0 Config.pkg ((t + 7) % 8)

/-- The packages of this rack that no route reaches: on every rack ring both segments beside them are down. -/
def State.cutSlots (s : State) : List Nat :=
  (List.range 32).filter fun x => (List.range 4).all fun b =>
    let l := (rackStations (Config.pkg / 32) b).map (· / 8)
    s.segDown 1 (ownRack b) x && s.segDown 1 (ownRack b) (l.getD ((l.findIdx (fun y => y == x) + l.length - 1) % max 1 l.length) 0)

/-- The peers that a cut package leaves without a route: its own, or where it is this one every present peer beyond it. -/
def cutPeers (x : Nat) : List Nat :=
  if x = Config.pkg % 32 then (List.range 4096).filter fun p => p / 8 != Config.pkg && (Config.peerPresent p || isAdapter p)
  else (List.range 8).map fun t => (Config.pkg / 32 * 32 + x) * 8 + t

/-- `CELL_CRC_FAIL` (R375): the cell is sent again; the eighth failure in a row puts the segment down, and the cell goes the other way.
The other cells of the store that are still on their way arrive all the same. -/
def execCellCrcFail (c : RingCell) (seg : SegRef) (s : State) : Out1 :=
  let x := s.seg seg
  let t := stationStack seg
  let s1 := s.setSeg { x with fails := x.fails + 1, down := x.down || decide (8 ≤ x.fails + 1) }
  .next (if x.down || decide (x.fails + 1 < 8) then s1.reinsert t c
    else
      let s2 := (s1.fabricNotice 1 c.dir.toNat seg.lvl (peerOf t) (peerOf t)).reinsert t { c with dir := ~~~c.dir }
      let s3 := s2.cutStacks.foldl (fun s t => s.losePeer (peerOf t)) s2
      s3.cutSlots.foldl (fun s x => (cutPeers x).foldl (fun s p => s.losePeer p) s) s3)

/-- `SEGMENT_TRAINED_UP`: the escape route is clockwise again. -/
def execSegmentTrainedUp (seg : SegRef) (s : State) : Out1 := .next (s.setSeg { ref := seg, fails := 0, down := false })

/-- `DIRECTION_TIMEOUT` (R283): a channel word keeps the route of its binding (R288), and an escape cell its direction (R285). -/
def execDirectionTimeout (c : RingCell) (seg : SegRef) (s : State) : Out1 :=
  .next (s.reinsert (stationStack seg) (if c.ty = 7 ∨ c.ty = 8 ∨ c.vc = 2 then c else { c with dir := ~~~c.dir }))

/-- `RETURNED_CELL` (R284): reinserted on the escape channel with RFS cleared. -/
def execReturnedCell (c : RingCell) (seg : SegRef) (s : State) : Out1 :=
  .next ((s.updStack (stationStack seg) fun t => t.count 10 1).reinsert (stationStack seg) (s.escapeAt seg c))

/-- `ESCAPE_CELL_REMOVED` (R378): the access it carried is unreachable. -/
def execEscapeCellRemoved (c : RingCell) (seg : SegRef) (s : State) : Out1 :=
  .next ((if s.carries c then s.unreachable c.tag else s).fabricNotice 3 c.dir.toNat seg.lvl (peerOf (stationStack seg))
    (peerOf (stationStack seg)))

end Sys2Proof.Machine
end

