-- ==== Sys2Proof/Machine/Errors.lean ====
section
/-!
DEFINITION. Stored-data errors (R362 to R364), the pool's ports (R270, R271, R365), and the swap engine (R266 to R269).
-/

namespace Sys2Proof.Machine

/-! ### Errors (R325, R362, R363, R395) -/

/-- A lifetime error count of structure `t` of a stack: 0 corrected, 1 uncorrectable (R395, region 4). -/
def State.countError (s : State) (stack t u : Nat) : State := s.lifeCount 4 ((8 * stack + t) * 2 + u)

/-- The state that R323 leaves before the pc moves, of a trap without a cause: `TRAPPC` is the next bundle. -/
def Arch.interrupted (a : Arch) : Arch :=
  { a.enter a.pc 0 0 0 with pc := a.pc, csr := { a.csr with trappc := a.pc } }

/-- A context whose own state is damaged passes to firmware, WHY 3 (R325, R328): what had not retired is undone. One being
saved already is written where its save goes, and of one that stands Saved the notification is sent (log 55). -/
def State.damaged (s : State) (n k : Nat) : State :=
  let x := s.ctx n k
  let esc : Esc := { why := 3, pw := 0, cyc := (s.core n).time }
  if x.st = .saved then s.notifyFault n k (x.saveTo.getD 0) esc
  else if !(s.alive n k || (x.st == .retired && !x.killed)) then s
  else
    let s1 := match x.ckpts with | q :: _ => s.undoAll n k q.seq | [] => s
    (s1.updCtx n k fun x => { x with arch := x.arch.interrupted }).escalate n k 3 0

/-- A line whose words in an L1 or a slice cannot be read (R362): no copy of it stands any more in the package, and where its home is in
another its copies are poisoned (log 55). -/
def State.loseCopies (s : State) (line : Nat) : State :=
  (List.range 8).foldl (fun s t =>
    if (s.copyOf t line).isNone then s
    else
      let s1 := s.dropWords t line (BitVec.allOnes 32)
      if ownFpa (line * 128) then s1 else s1.updStack t fun x => { x with bad := addPoison line x.bad }) s

/-- Half of a row in a landing buffer zeroed: the lower 128 bytes, or the upper. -/
def FKind.zeroHalf (f : FKind) (hi : Bool) : FKind :=
  match f with
  | .land q x a late => .land q (if hi then x &&& BitVec.ofNat 2048 (2 ^ 1024 - 1) else x >>> (1024 : Nat) <<< (1024 : Nat)) a late
  | f => f

/-- `UNCORRECTABLE_ERROR` (R362): the line is poisoned, the words of a landing row deliver 0 with cause 65 (R363), or the context is
escalated. -/
def execUncorrectableError (e : ErrSite) (s : State) : Out1 :=
  .next (match e with
    | .line t fpa =>
      let s1 := if t = 3 then s.loseCopies (lineOf fpa) else s
      let s2 : State := if ownFpa fpa then { s1 with poison := addPoison (lineOf fpa) s1.poison } else s1
      (s2.countError (stackAt fpa) t.toNat 1).lifeLog fpa 8 0 0 (peerAt fpa)
    | .landing n id fpa hi =>
      let s1 := (s.countError (stackOf n) 1 1).lifeLog fpa 8 0 n (peerOf (stackOf n))
      (match (s.core n).flight id with
       | some f => (s1.updCore n fun c => c.updFlight id fun f => { f with kind := f.kind.zeroHalf hi }).raiseAsync n f.ctx 65 (poisonVal n fpa)
       | none => s1)
    | .context t n k =>
      (((s.countError (stackOf n) t.toNat 1).lifeLog 0 8 0 n (peerOf (stackOf n)))).damaged n k)

/-- `CORRECTED_ERROR` (R362): counted, and not reported to the program. -/
def execCorrectedError (stack : Nat) (site : BitVec 3) (s : State) : Out1 := .next (s.countError stack site.toNat 0)

/-- `DROOP_EVENT` (R396): counted by depth. -/
def execDroopEvent (stack : Nat) (depth : BitVec 2) (s : State) : Out1 := .next (s.lifeCount 2 (4 * stack + depth.toNat))

/-! ### The pool (R271, R365) -/

/-- `BACK_INVALIDATE` (R271): the line leaves the stack's L1s and L2, its dirty words are written back, and the pool holds what its
other user writes. -/
def execBackInvalidate (stack : Nat) (l : PoolLine) (s : State) : Out1 :=
  .next (if stackAt (l.line * 128) = stack % 8 ∧ ownFpa (l.line * 128) = true then
      ((s.l2Evict (stack % 8) By.none_ l.line).flushOwn (l.line * 128) 128).store (l.line * 128) (l.written.take 128)
    else s)

/-- `CXL_REQUEST_FAILED` (R365): an uncorrectable error on its line, for a read and for a write. -/
def execCxlRequestFailed (fpa : Nat) (_write : Bool) (s : State) : Out1 :=
  .next ({ s with poison := addPoison (lineOf fpa) s.poison }.lifeLog fpa 8 0 0 (peerAt fpa))

/-- `CXL_LINK_LOSS` (R365): later requests to the port's addresses fail, and the boot host is told. -/
def execCxlLinkLoss (stack : Nat) (port : BitVec 1) (s : State) : Out1 :=
  let res := 2 * (stack % 8) + port.toNat + 2 ^ 16 * peerOf stack
  .next (((s.updStack stack fun t => { t with ports := t.ports &&& ~~~ BitVec.ofNat 2 (2 ^ port.toNat) }).lifeLog res 7 0 0
    (peerOf stack)).notice 0x81 res)

/-- `PORT_RETRAINED` (R365): requests to its addresses no longer fail at once. -/
def execPortRetrained (stack : Nat) (port : BitVec 1) (s : State) : Out1 :=
  .next (s.updStack stack fun t => { t with ports := t.ports ||| BitVec.ofNat 2 (2 ^ port.toNat) })

/-! ### The swap engine (R266 to R269) -/

/-- `COUNTER_HALVING` (R267). -/
def execCounterHalving (stack : Nat) (s : State) : Out1 :=
  .next (s.updStack stack fun t => { t with remap := t.remap.map fun e => (e.1, { e.2 with cnt := vmap (fun (c : BitVec 4) => c >>> (1 : Nat)) e.2.cnt }) })

/-- The lines of a page of a stack that the swap engine cannot read. -/
def State.unreadable (s : State) (t g k : Nat) : List Nat :=
  ((List.range 512).map fun i => lineOf (peerOf t * 2 ^ 45 + pageAddr g k) + i).filter s.badLine

/-- `SWAP` (R267, R268, R364): a scheduled swap runs, unless eight do already; one that cannot read both pages will be abandoned. -/
def execSwap (stack group : Nat) (home : BitVec 4) (s : State) : Out1 :=
  .next (match (s.stack stack).swaps.find? fun w => w.group == group && !w.running with
    | none => s
    | some _ =>
      if 8 ≤ (s.stack stack).running then s
      else (s.updStack stack fun t => { t with swaps := t.swaps.map fun w =>
          if w.group = group then { w with home := home, running := true, ends := s.now + Config.latSwap } else w }).after Config.latSwap
        (.swapComplete stack group ((s.unreadable (stack % 8) group home.toNat).isEmpty &&
          (s.unreadable (stack % 8) group ((s.stack stack).remapOf group).res.toNat).isEmpty)))

/-- CMP of a frame entry written (R269): bit 62, in another package by a cell that changes that bit alone. -/
def State.putCmp (s : State) (a : Nat) (b : Bool) : State :=
  if ownFpa a then
    let e := leNat (s.homeBytes a 16)
    s.fwPut a (leBytes 16 (e - nbits e 62 1 * 2 ^ 62 + (if b then 2 ^ 62 else 0)))
  else s.ask 0 By.none_ (a + 7) 4 .firm (reqPayload mergeCode 1 0 [if b then 0x40 else 0] [0x40])

/-- CMP of the frame entries of the registered frames in a group's pages follows the slots' (R269). -/
def State.syncCmp (s : State) (t g : Nat) : State :=
  (s.fw.frames.filter fun f => ownFpa f.fpa && stackAt f.fpa == t && (match homePage (f.fpa % 2 ^ 45) with | some x => x.1 == g | none => false)).foldl
    (fun s f => s.putCmp f.entry (s.pageCmp f.fpa)) s

/-- The next scheduled swap of a stack starts. -/
def State.nextSwap (s : State) (t : Nat) : State :=
  match (s.stack t).swaps.find? fun w => !w.running with
  | some w => s.after 0 (.swap t w.group w.home)
  | none => s

/-- The end of a swap: the fills and write-backs that it held are made against the new placement (R268), a pin that waited for it is
set (R266), and the next swap starts. -/
def State.swapEnds (s : State) (t g : Nat) (held : List (Nat × Bool)) : State :=
  ((held.foldl (fun s l => s.slotMade l.1 l.2) s).settlePin t g).nextSwap t

/-- `SWAP_COMPLETE` (R268, R318, R364): RES and CMP take their new values and both counters are cleared, 64 KiB having been read from the
fast slot and written there; an abandoned swap changes neither slot nor entry, clears the counters, poisons the lines that could not be
read and is logged. -/
def execSwapComplete (stack group : Nat) (ok : Bool) (s : State) : Out1 :=
  .next (match (s.stack stack).swaps.find? fun w => w.group == group && w.running with
    | none => s
    | some w =>
      let t := stack % 8
      let r := (s.stack t).remapOf group
      let k := w.home.toNat
      let j := r.res.toNat
      let packs (j : Nat) : Bool := Config.compressible ((List.range 65536).map fun i => s.memByte (peerOf t * 2 ^ 45 + pageAddr group j + i))
      let cmp := packs j
      let c0 := packs 0
      let put (s : State) (r : Remap) : State := s.updStack t fun x =>
        { x with remap := assocSet group r x.remap, swaps := x.swaps.filter fun v => v.group != group }
      if ok then
        let s1 := (put s (r.swapped k cmp c0)).updStack t fun x => ((x.count 7 1).count 4 256).count 5 256
        (((if cmp then s1.updStack t fun x => x.count 8 1 else s1)).syncCmp t group).swapEnds t group w.held
      else
        let s1 : State := { s with poison := (s.unreadable t group k ++ s.unreadable t group j).foldl (fun p x => addPoison x p) s.poison }
        (((put s1 { r.swapped k false false with res := r.res, cmp := r.cmp }).countError t 7 1).lifeLog
          (peerOf t * 2 ^ 45 + pageAddr group k) 4 0 0 (peerOf t)).swapEnds t group w.held)

end Sys2Proof.Machine
end

