-- ==== Sys2Proof/Machine/Life.lean ====
section
/-!
DEFINITION. Power and the lifetime record (R315, R395 to R397): power-on, ring training, samples, commits, power loss and the
regions that LIFEREAD copies.
-/

namespace Sys2Proof.Machine

/-! ### Regions (R395) -/

/-- Bytes of a region; none beyond region 6. -/
def regionSize (r : Nat) : Option Nat :=
  match r with | 0 => some 64 | 1 => some 2048 | 2 => some 256 | 3 => some 512 | 4 => some 512 | 5 => some 512 | 6 => some 8192 | _ => none

/-- A counter of the record. -/
def LifeRec.counter (l : LifeRec) (region entry : Nat) : Nat :=
  ((l.counts.find? fun c => c.1 == (region, entry)).map (·.2)).getD 0

/-- The bytes of a region. -/
def LifeRec.region (l : LifeRec) (r : Nat) : List Byte :=
  match r with
  | 0 => leBytes 8 l.gen ++ leBytes 4 l.pwrc ++ leBytes 4 l.logn ++ leBytes 8 l.secs ++ List.replicate 40 0
  | 6 => (List.range 256).flatMap fun i => leBytes 32 (assocGet i 0 l.log).toNat
  | 2 => (List.range 32).flatMap fun i => leBytes 8 (l.counter 2 i)
  | r => (List.range (((regionSize r).getD 0) / 4)).flatMap fun i => leBytes 4 (l.counter r i)

/-- `LIFEREAD` (R397): bytes of the latest snapshot copied; RES is its GEN. -/
def execLiferead (q : HostCmd) (region offset length dst : Nat) (s : State) : Out1 :=
  command q (fun s =>
    let r := s.life.latest
    match regionSize region with
    | none => s.complete q 20 2 0 []
    | some n =>
      if offset % 8 ≠ 0 ∨ length % 8 ≠ 0 ∨ length < 8 ∨ 8192 < length ∨ n < offset + length ∨ 2 ^ 57 ≤ dst then
        s.complete q 20 2 0 []
      else (s.fwPut dst (((r.region region).drop offset).take length)).finish q 20 0 r.gen []) s

/-! ### Samples and commits (R396) -/

/-- The temperature bin of a value in °C (R395). -/
def tempBin (t : Nat) : Nat := if t < 40 then 0 else if 152 ≤ t then 15 else (t - 32) / 8

/-- The voltage bin of a value in mV (R395). -/
def voltBin (v : Nat) : Nat := if v < 330 then 0 else if 470 ≤ v then 15 else (v - 320) / 10

/-- One count for each value of a list, in its bin. -/
def State.sampleAll (s : State) (region : Nat) (bin : Nat → Nat) : Nat → List Nat → State
  | _, [] => s
  | i, v :: r => (s.lifeCount region (16 * i + bin v)).sampleAll region bin (i + 1) r

/-- A sample (R396): a second more; the hottest sensor of each ply, stack by stack, in °C; each stack's core rail in mV. -/
def State.lifeSample (s : State) (temps volts : List Nat) : State :=
  let s1 : State := { s with life := { s.life with sram := { s.life.sram with secs := saturate 64 (s.life.sram.secs + 1) } } }
  (s1.sampleAll 1 tempBin 0 (temps.take 32)).sampleAll 5 voltBin 0 (volts.take 8)

/-- The sample that the firmware takes itself once a second (R396): what the sensors show is open (log 14). -/
def State.sampleNow (s : State) : State :=
  s.lifeSample ((List.range 32).map fun i => Config.plyTemp i s.now) ((List.range 8).map fun t => Config.railVolt t s.now)

/-- `LIFETIME_SAMPLE` (R396). -/
def execLifetimeSample (temps volts : List Nat) (s : State) : Out1 := .next (s.lifeSample temps volts)

/-- `SNAPSHOT_COMMIT` (R396): none where the machine has lost its power. -/
def execSnapshotCommit (s : State) : Out1 := .next (if s.fw.up then { s with life := s.life.commit } else s)

/-! ### Power (R315, R396) -/

/-- `POWER_ON` (R315, R396): the record resumes from the copy of the higher generation, PWRC is one more, and the package
boots. -/
def execPowerOn (s : State) : Out1 :=
  let l := s.life.latest
  .next ({ s.cleared with life := { s.life with sram := { l with pwrc := saturate 32 (l.pwrc + 1) } } }.boot)

/-- `POWER_LOSS` (R396): the machine stops; the two copies in flash stand, what SRAM held is lost. -/
def execPowerLoss (s : State) : Out1 :=
  let c := s.cleared
  .next { c with life := { s.life with sram := LifeRec.reset }, fw := { c.fw with up := false } }

/-- `RING0_RETRAIN` (R315): while no boot host peer is known, the first adapter that training finds gets the ready message. -/
def execRing0Retrain (found : Option Nat) (s : State) : Out1 :=
  .next (match s.bootHost, found with
    | none, some p => if s.fw.up then State.ready { s with fw := { s.fw with boot := some (BitVec.ofNat 12 p) } } else s
    | _, _ => s)

end Sys2Proof.Machine
end

