-- ==== Sys2Proof/Machine/Firmware.lean ====
section
/-!
DEFINITION. The firmware's commands (R48 to R51, R309 to R318, R360, R383): what each checks, what it changes and how it
completes.
-/

namespace Sys2Proof.Machine

/-! ### Identity (R311, R316) -/

/-- Bytes of the package's identity (log 13): serial 8, firmware version 8, digest of the public key 64, digest of the
image 64, fused key hash 64, modulus 512, exponent 8. -/
def identityBytes (o n : Nat) : List Byte := (List.range n).map fun i => Config.identity (o + i)

/-- The SHA-512 digest of the identity public key: modulus and exponent, as ATTEST reports them (R311, R316; log 13). -/
def keyDigest : List Byte := (List.range 64).map fun i => Config.sha512 (identityBytes 208 520) i

/-- `IDENT`. -/
def execIdent (q : HostCmd) (s : State) : Out1 :=
  command q (fun s => s.complete q 1 0 0x9A1536
    (identityBytes 0 16 ++ leBytes 8 (Config.pkg * 8) ++ keyDigest.take 24)) s

/-- "OLV-9A1536", zero-filled to 16 bytes (R316). -/
def partName : List Byte := [0x4F, 0x4C, 0x56, 0x2D, 0x39, 0x41, 0x31, 0x35, 0x33, 0x36, 0, 0, 0, 0, 0, 0]

/-- The report of R316 for a nonce. -/
def report (nonce : List Byte) : List Byte :=
  let l := nonce ++ partName ++ identityBytes 0 16 ++ identityBytes 80 64 ++ identityBytes 144 64 ++ identityBytes 208 520
  l ++ (List.range 512).map fun i => Config.signature l i

/-- `ATTEST`. -/
def execAttest (q : HostCmd) (nonce : List (BitVec 8)) (dst : Nat) (s : State) : Out1 :=
  command q (fun s =>
    if nonce.length ≠ 32 ∨ 2 ^ 57 ≤ dst then s.complete q 2 2 0 []
    else (s.fwPut dst (report nonce)).finish q 2 0 1224 []) s

/-! ### Images and tables (R22, R23, R32, R43, R311) -/

/-- What LOADIMG finds for one destination page, `n` bytes of which must lie within BOUND (R311): its frame entry, or nothing where a
check fails, or a line of the tables to be fetched first. -/
def State.loadPage (s : State) (asn page plane n : Nat) : Rd :=
  match s.pageEntries asn page plane with
  | .need l => .need l
  | .bad => .bad
  | .ok e pe fe =>
    if nbits e 13 17 < n ∨ nbits pe 0 1 = 0 ∨ nbits pe 1 4 ≠ 4 ∨ nbits pe 5 4 ≠ 0 ∨ nbits fe 60 2 = 3 ∨
        (nbits fe 57 1 = 1 ∧ peerMapped (nbits fe 0 57) = false) then .bad
    else .ok fe

/-- The pages of an image: page number, first offset, bytes. -/
def imagePages (pos len : Nat) : List (Nat × Nat × Nat) :=
  if len = 0 then []
  else (List.range ((pos + len - 1) / 65536 - pos / 65536 + 1)).map fun i =>
    let pg := pos / 65536 + i
    let lo := max pos (pg * 65536)
    (pg, lo % 65536, min (pos + len) (pg * 65536 + 65536) - lo)

/-- The supply of a missing frame of an image (R37, R356): what the agent gives, or the one the event names. -/
def supplyFor (frames : List PageSupply) (asn page plane : Nat) : PageSupply :=
  (frames.find? fun f => f.asn == asn && f.page == page && f.plane == plane).getD
    { asn := asn, page := page, plane := plane, ok := true, content := none }

/-- The missing frames of an image supplied, in order: done, refused, or to be gone on with. -/
def State.supplyAllPages (s : State) (frames : List PageSupply) (asn plane : Nat) : List (Nat × Nat × Nat) → Supplied
  | [] => .done false s
  | (pg, _, _) :: r =>
    match s.loadPage asn pg plane 0 with
    | .need l => .again (s.farTable 0 asn l)
    | .bad => .done true s
    | .ok fe =>
      if nbits fe 57 1 = 1 then s.supplyAllPages frames asn plane r
      else
        match s.supplyStep (supplyFor frames asn pg plane) with
        | .again s1 => .again s1
        | .done true s1 => .done true s1
        | .done false s1 => (s1.wakeStops asn pg plane false).supplyAllPages frames asn plane r

/-- The bytes of an image written to its pages. -/
def State.writeImage (s : State) (asn plane : Nat) : List (Nat × Nat × Nat) → List Byte → State
  | [], _ => s
  | (pg, o, n) :: r, l =>
    match s.loadPage asn pg plane 0 with
    | .ok fe => (s.fwPut (nbits fe 0 57 + o) (l.take n)).writeImage asn plane r (l.drop n)
    | _ => s

/-- `LOADIMG` (R311): every destination page checked, every missing frame supplied, and the bytes written; it waits for lines of tables
on other peers (R32). -/
def execLoadimg (q : HostCmd) (asn : Nat) (dst : BitVec 64) (src : Source) (n : Nat) (frames : List PageSupply) (s : State) : Out1 :=
  command q (fun s =>
    let plane := fld dst 60 4
    let wait (s : State) : State := s.waitAgain (.loadimg q asn dst src n frames)
    if fld dst 57 3 ≠ 0 ∨ 4096 ≤ asn ∨ 2 ^ 57 ≤ src.fpa ∨ 2 ^ 32 < n then s.complete q 3 2 0 []
    else
      let pages := imagePages (fld dst 0 57) n
      let found := pages.map fun p => if 2 ^ 41 ≤ p.1 then .bad else s.loadPage asn p.1 plane (p.2.1 + p.2.2)
      if found.contains .bad then s.complete q 3 2 0 []
      else
        match found.findSome? fun r => match r with | .need l => some l | _ => none with
        | some l => wait (s.farTable 0 asn l)
        | none =>
          match s.supplyAllPages frames asn plane pages with
          | .again s1 => wait s1
          | .done true s1 => s1.complete q 3 2 0 []
          | .done false s1 => (s1.writeImage asn plane pages (s.sourceBytes src n)).finish q 3 0 0 []) s

/-- Every translation cache drops its copies for an address space (R43), and of its tables. -/
def State.dropSpace (s : State) (asn : Nat) : State :=
  { s.dropTabs asn with
    cores := s.cores.map fun (n, c) =>
      (n, { c with pages := c.pages.filter fun x => x / 2 ^ 41 != asn, frames := c.frames.filter fun x => x / 16 / 2 ^ 41 != asn })
    stk := vmap (fun (t : Stack) => { t with xl := t.xl.map fun (i, l) =>
      (i, l.filter fun x => (if x % 2 = 0 then x / 2 else x / 2 / 16) / 2 ^ 41 != asn) }) s.stk }

/-- An address space changed. -/
def State.updSpace (s : State) (asn : Nat) (f : Space → Space) : State :=
  { s with spaces := assocSet asn (f (s.space asn)) s.spaces }.dropSpace asn

/-- `PSETDESC` (R23, R311): the table base, and a descriptor unless the source is 0; what the translation caches read before the write has
performed is dropped, too (R43). -/
def execPsetdesc (q : HostCmd) (asn base index : Nat) (src : Source) (s : State) : Out1 :=
  command q (fun s =>
    if 4096 ≤ asn ∨ 2 ^ 57 ≤ base ∨ base % 256 ≠ 0 ∨ 4096 ≤ index ∨ 2 ^ 57 ≤ src.fpa then s.complete q 4 2 0 []
    else
      let s1 := s.updSpace asn fun x => { x with base := some base }
      (if src.fpa = 0 then s1 else s1.fwPut (base + 256 * index) (s.sourceBytes src 256)).finishDrop q 4 0 0 [] (some asn)) s

/-- `PTROOT` (R32, R311). -/
def execPtroot (q : HostCmd) (asn root : Nat) (s : State) : Out1 :=
  command q (fun s =>
    if 4096 ≤ asn ∨ 2 ^ 57 ≤ root ∨ root % 16384 ≠ 0 then s.complete q 5 2 0 []
    else (s.updSpace asn fun x => { x with root := some root }).complete q 5 0 0 []) s

/-! ### Tensor handles (R44, R45, R266, R360) -/

/-- Whether a descriptor fails the checks of R45 and R360. -/
def descBad (d : BitVec 512) : Bool :=
  fld d 400 112 != 0 || fld d 96 32 != 0 || fld d 45 3 != 0 || fld d 0 12 != 0 ||
  decide (2 ≤ fld d 54 2) || decide (fld d 48 4 < 2) || decide (6 < fld d 48 4) ||
  (List.range (fld d 52 2 + 1)).any fun i => fld d (128 + 32 * i) 32 == 0

/-- Bytes of a handle's extent: up to its last element. -/
def Handle.bytes (h : Handle) : Nat :=
  (h.index (h.size 0 - 1) (h.size 1 - 1) (h.size 2 - 1) (h.size 3 - 1) * h.width + h.width + 7) / 8

/-- `HANDLE` (R45, R266, R360): the descriptor checked and written, its extent pinned; PSC 0 becomes 127. It completes
once every page of the extent is pinned. -/
def execHandle (q : HostCmd) (stack num asn : Nat) (desc : BitVec 512) (s : State) : Out1 :=
  command q (fun s =>
    if 8 ≤ stack ∨ 4096 ≤ num ∨ 4096 ≤ asn ∨ descBad desc = true then s.complete q 6 2 0 []
    else
      let h : Handle := { num := num, asn := BitVec.ofNat 12 asn, desc := if fld desc 56 8 = 0 then setFld desc 56 8 127 else desc }
      let s1 := match s.handleOf stack num with
        | some o => s.pinExtent stack false (fld o.desc 0 45) o.bytes
        | none => s
      let s2 := (s1.pinExtent stack true (fld h.desc 0 45) h.bytes).updStack stack fun t =>
        { t with handles := (t.handles.filter fun x => x.num != num) ++ [h] }
      if s2.pinned stack (fld h.desc 0 45) h.bytes then s2.complete q 6 0 0 []
      else { s2 with fw := { s2.fw with waiting := s2.fw.waiting ++ [.pinning q stack num] } }) s

/-! ### LAUNCH (R48 to R51, R58, R59, R313, R383) -/

/-- The parameters of a LAUNCH. -/
structure LaunchArgs where
  entry : Dword
  nte : Flags
  pool : Nat
  fuse : Bool
  pre : Bool
  prio : Nat
  shape : BitVec 4
  cpi : Nat
  icnt : Nat
  asn : BitVec 12
  flags : Dword
  fmbr : Nat
  fhome : Nat
  fset : Nat
  deriving DecidableEq, Repr

/-- The doublewords of a LAUNCH read. -/
def launchArgs (d0 d1 d2 d3 : Dword) : LaunchArgs :=
  { entry := d0, nte := BitVec.ofNat 6 (fld d1 56 6), pool := fld d1 48 4 + 1, fuse := d1.getLsbD 43, pre := d1.getLsbD 42
    prio := fld d1 40 2, shape := BitVec.ofNat 4 (fld d1 36 4), cpi := fld d1 32 2 + 1, icnt := fld d1 16 13
    asn := BitVec.ofNat 12 (fld d1 0 12), flags := d2, fmbr := fld d3 32 24, fhome := fld d3 16 12, fset := fld d3 0 16 }

/-- Whether a LAUNCH breaks the layout or the ranges of R48 and R313. -/
def launchBad (d1 d3 : Dword) : Bool :=
  fld d1 62 2 != 0 || fld d1 52 4 != 0 || fld d1 44 4 != 0 || fld d1 34 2 != 0 || fld d1 29 3 != 0 || fld d1 12 4 != 0 ||
  fld d1 16 13 == 0 || decide (6144 < fld d1 16 13) ||
  (if d1.getLsbD 39 then fld d3 56 8 != 0 || fld d3 28 4 != 0 else d3 != 0)

/-- The free context slots of a core (R50), with those of retired contexts that have returned (R52). -/
def Core.freeSlots (c : Core) : List Nat := (List.range 4).filter fun k => (c.ctx k).st == .free || c.returned (c.ctx k)

/-- Units of 256 KiB of the register file that launches hold on a core. -/
def Core.poolUsed (c : Core) : Nat :=
  c.ctxs.toList.foldl (fun t x => t + match x.bnd with | some b => if c.returned x then 0 else b.pool | none => 0) 0

/-- The flag bits that launches other than `l` hold on a core. -/
def Core.flagsUsed (c : Core) (l : Nat) : Dword :=
  c.ctxs.toList.foldl (fun m x => match x.bnd with
    | some b => if b.launch = l || !c.keeps b.launch then m else m ||| b.flags | none => m) 0

/-- The L1 mode of a cluster, where a launch is resident in it (R16, R50). -/
def State.clusterMode (s : State) (n : Nat) : Option Bool :=
  ((List.range 8).flatMap fun j => ((s.core (n / 8 * 8 + j)).ctxs.toList.filterMap fun x => x.bnd)).findSome? fun b =>
    (s.launches.find? fun l => l.num == b.launch).map (·.fuse)

/-- Whether a core is eligible for an instance of launch `l` (R50). -/
def State.eligible (s : State) (a : LaunchArgs) (l n : Nat) : Bool :=
  let c := s.core n
  decide (a.cpi ≤ c.freeSlots.length) && decide (c.poolUsed + a.cpi * a.pool ≤ 16) && (c.flagsUsed l &&& a.flags) == 0 &&
  (match s.clusterMode n with | some m => m == a.fuse | none => true)

/-- Instances that a core could take as it stands (R50). -/
def State.roomFor (s : State) (a : LaunchArgs) (l n : Nat) : Nat :=
  let c := s.core n
  if s.eligible a l n then min (c.freeSlots.length / a.cpi) ((16 - c.poolUsed) / (a.cpi * a.pool)) else 0

/-- Instances that the package could take. -/
def State.roomAll (s : State) (a : LaunchArgs) (l : Nat) : Nat :=
  (List.range 1536).foldl (fun t n => t + s.roomFor a l n) 0

/-- The cursor advanced past cores that are not eligible or are marked taken, the marks of those passed cleared (R51). -/
def State.advance (s : State) (a : LaunchArgs) (l : Nat) : Nat → Nat → List Nat → Nat × List Nat
  | 0, cur, taken => (cur, taken)
  | fuel + 1, cur, taken =>
    if s.eligible a l cur && !taken.contains cur then (cur, taken)
    else s.advance a l fuel ((cur + 1) % 1536) (taken.filter fun n => n != cur)

/-- The window of R51: the first 8 eligible, unmarked cores from the cursor on. -/
def State.window (s : State) (a : LaunchArgs) (l cur : Nat) (taken : List Nat) : List Nat :=
  (((List.range 1536).map fun i => (cur + i) % 1536).filter fun n => s.eligible a l n && !taken.contains n).take 8

/-- The weighted heat of a core (R51); what its sensors show is open (log 14). -/
def State.heat (s : State) (n : Nat) : Nat := s.fw.wt * (Config.sensor n s.now).1 + s.fw.wd * (Config.sensor n s.now).2

/-- The core of least heat, the earliest on a tie. -/
def State.coolest (s : State) : List Nat → Option Nat
  | [] => none
  | n :: r => match s.coolest r with | none => some n | some m => if s.heat n ≤ s.heat m then some n else some m

/-- The core of a window that is taken (R51). -/
def State.pick (s : State) (win : List Nat) (skips : List (Nat × Nat)) : Option Nat :=
  (win.find? fun n => assocGet n 0 skips == 8).or (s.coolest win)

/-- The units of a level that a core lies in: the home stack of the object and a key of the unit (R58). -/
def unitOf (lv n : Nat) : Nat × Nat :=
  match lv with
  | 1 => (stackOf n, n)
  | 2 => (stackOf n, n / 8)
  | 3 => (stackOf n, stackOf n)
  | _ => (0, 0)

/-- The lowest free object index of a stack. DESIGN CHOICE (log 17): where all 4096 are in use, for which R58 has no word, index 4095
is used once more. -/
def Stack.freeDom (t : Stack) : Nat := ((List.range 4096).find? fun i => !t.doms.any fun d => d.1 == i).getD 4095

/-- The index of a fabric set's object at its home peer, where no other set's object stands there (log 17). -/
def fsetObj (fset : Nat) : Nat := 4095 - fset % 2048

/-- The index of the object of a fabric set (R58, log 17): at a home of this package that of the set's object there, or the first free
one from `fsetObj` down. -/
def State.fsetIndex (s : State) (home fset : Nat) : Nat :=
  let doms := (s.stack home).doms
  if home / 8 ≠ Config.pkg then fsetObj fset
  else
    match doms.find? fun d => d.2.fset == some fset with
    | some d => d.1
    | none => (((List.range 2048).map fun i => 4095 - (fset + i) % 2048).find? fun o => !doms.any fun d => d.1 == o).getD (fsetObj fset)

/-- The domain objects of a launch made so far, by level and unit. -/
abbrev Units := List ((Nat × Nat) × DomRef)

/-- A domain object for level `lv` of the unit of core `n`: made with one member, or given one more (R58). -/
def State.joinUnit (s : State) (l lv n : Nat) (u : Units) : State × Units × DomRef :=
  let (st, key) := unitOf lv n
  match u.find? fun x => x.1 == (lv, key) with
  | some (_, o) => (s.updDom o fun d => { d with mbr := d.mbr + 1 }, u, o)
  | none =>
    let i := (s.stack st).freeDom
    let o : DomRef := { peer := peerOf st, obj := i }
    let d : Dom := { lvl := BitVec.ofNat 3 lv, ph := false, arr := 0, mbr := 1, waiters := [], broken := none, launch := l, fset := none }
    (s.updStack st fun t => { t with doms := t.doms ++ [(i, d)] }, u ++ [((lv, key), o)], o)

/-- The membership register of an object (R59). -/
def dmlOf (o : DomRef) (lv : Nat) : Dword := BitVec.ofNat 64 (o.peer % 4096 * 2 ^ 52 + o.obj % 4096 * 2 ^ 32 + lv)

/-- The domains of one instance's contexts: levels 1 to 4 as the shape selects, and the registers. -/
def State.joinUnits (s : State) (a : LaunchArgs) (l n : Nat) (u : Units) : List Nat → State × Units × List (Nat × DomRef)
  | [] => (s, u, [])
  | lv :: r =>
    if lv = 1 ∨ a.shape.getLsbD (lv - 2) then
      (let (s1, u1, o) := s.joinUnit l lv n u
       let (s2, u2, m) := s1.joinUnits a l n u1 r
       (s2, u2, (lv, o) :: m))
    else s.joinUnits a l n u r

/-- What a context of a launch is given (R48, R49). -/
def bindOf (a : LaunchArgs) (q : HostCmd) (l i ix : Nat) : Bind :=
  { launch := l, inst := i, icount := a.icnt, iix := ix, cpi := a.cpi, asn := a.asn, nte := a.nte, flags := a.flags, pool := a.pool
    prio := a.prio, pre := a.pre, shape := a.shape, fset := if a.shape.getLsbD 3 then some a.fset else none, host := q.peer }

/-- The registers of an instance's first context at start (R49, R59, R164). -/
def startArch (a : LaunchArgs) (arbw : Dword) (i : Nat) (m : List (Nat × DomRef)) : Arch :=
  let r := ((Arch.reset.setS 1 (BitVec.ofNat 64 i)).setS 2 (BitVec.ofNat 64 a.icnt)).setS 3 0
  { r with
    pc := a.entry
    csr := { Csrs.reset with
      arbw := arbw
      dml := Vector.ofFn fun j : Fin 5 => match m.find? fun x => x.1 == j.val + 1 with | some x => dmlOf x.2 (j.val + 1) | none => 0 } }

/-- An instance placed on a core (R49, R50): its slots reserved, the first Ready, its flag bits clear. -/
def State.place (s : State) (a : LaunchArgs) (q : HostCmd) (l i n : Nat) (u : Units) : State × Units :=
  let (s1, u1, m0) := s.joinUnits a l n u [1, 2, 3, 4]
  let m := if a.shape.getLsbD 3 then m0 ++ [(5, ({ peer := a.fhome, obj := s.fsetIndex a.fhome a.fset } : DomRef))] else m0
  let arch := startArch a s.fw.arbw i m
  let s2 := (List.range 8).foldl (fun s j => s.setFused (n / 8 * 8 + j) a.fuse) s1
  (s2.updCore n fun c =>
    let slots := c.freeSlots.take a.cpi
    (List.zip (List.range a.cpi) slots).foldl (fun (c : Core) x =>
      c.updCtx x.2 fun y =>
        { Ctx.reset with st := if x.1 = 0 then .ready else .reserved, bnd := some (bindOf a q l i x.1), seq := y.seq
                         arch := if x.1 = 0 then arch else Arch.reset })
      { c with flg := c.flg &&& ~~~a.flags, flgNew := c.flgNew &&& ~~~a.flags }, u1)

/-- The placing of `k` instances from instance `i` on (R51). -/
def State.placeAll (s : State) (a : LaunchArgs) (q : HostCmd) (l : Nat) : Nat → Nat → Units → State × Units
  | 0, _, u => (s, u)
  | k + 1, i, u =>
    let (cur, taken) := s.advance a l 3072 s.fw.cursor s.fw.taken
    let win := s.window a l cur taken
    match s.pick win s.fw.skips with
    | none => (s, u)
    | some p =>
      let skips := win.foldl (fun t n => assocSet n (if n = p then 0 else assocGet n 0 t + 1) t) s.fw.skips
      let s1 : State := { s with fw := { s.fw with
        skips := skips, cursor := if p = cur then (cur + 1) % 1536 else cur, taken := if p = cur then taken else taken ++ [p] } }
      let (s2, u2) := s1.place a q l i p u
      s2.placeAll a q l k (i + 1) u2

/-- The lowest launch number from the firmware's count on that no resident launch has. -/
def State.launchNumber (s : State) : Nat :=
  (((List.range 65536).map fun i => (s.fw.launches + i) % 65536).find? fun i => !s.launches.any fun l => l.num == i).getD 0

/-- The level-5 object of a fabric set, made by the package of its home (R58), anew where the set's members have all retired. -/
def State.fabricDom (s : State) (a : LaunchArgs) (l : Nat) : State :=
  if a.shape.getLsbD 3 && a.fhome / 8 == Config.pkg then
    let i := s.fsetIndex a.fhome a.fset
    let d : Dom := { lvl := 5, ph := false, arr := 0, mbr := a.fmbr, waiters := [], broken := none, launch := l, fset := some a.fset }
    match s.domAt { peer := a.fhome, obj := i } with
    | none => s.updStack a.fhome fun t => { t with doms := t.doms ++ [(i, d)] }
    | some o => if o.launch = 65536 ∧ o.mbr = 0 then s.updDom { peer := a.fhome, obj := i } fun _ => d else s
  else s

/-- Whether a launch has been placed on the slot of a context whose words still run in state `s`. -/
def State.placedOnRunning (s t : State) (l : Nat) : Bool :=
  s.cores.any fun c => (List.range 4).any fun k => (c.2.ctx k).st == .retired && ((t.ctx c.1 k).ofLaunch l)

/-- LAUNCH (R48 to R51). One whose placing takes the slot of a retired context with words that still run (R52, R53) waits until they
have completed (log 54). -/
def State.launchCmd (s : State) (q : HostCmd) (d0 d1 d2 d3 : Dword) : State :=
  let a := launchArgs d0 d1 d2 d3
  let l := s.launchNumber
  let room := s.roomAll a l
  if launchBad d1 d3 then s.complete q 7 2 0 []
  else if room < a.icnt then s.complete q 7 3 room []
  else
    let rec_ : LaunchRec := { num := l, host := q.peer, fuse := a.fuse, bnd := bindOf a q l 0 0, doms := [] }
    let s1 : State := { s with fw := { s.fw with skips := [], taken := [], launches := (l + 1) % 65536 }, launches := s.launches ++ [rec_] }
    let (s2, u) := (s1.fabricDom a l).placeAll a q l a.icnt 0 []
    let doms := u.map (·.2) ++ (if a.shape.getLsbD 3 then [({ peer := a.fhome, obj := s2.fsetIndex a.fhome a.fset } : DomRef)] else [])
    if s.placedOnRunning s2 l then { s with fw := { s.fw with waiting := s.fw.waiting ++ [.launch q d0 d1 d2 d3] } }
    else { s2 with launches := s2.launches.map fun (r : LaunchRec) => if r.num = l then { r with doms := doms } else r }.complete q 7 0 l []

/-- `LAUNCH`. -/
def execLaunch (q : HostCmd) (d0 d1 d2 d3 : BitVec 64) (s : State) : Out1 := command q (fun s => s.launchCmd q d0 d1 d2 d3) s

/-! ### Contexts from outside (R152, R170, R311, R312) -/

/-- Whether an MBXWRITE target word breaks its layout (R312). -/
def mbxBad (t : Dword) : Bool :=
  fld t 32 32 != 0 || fld t 25 1 != 0 || fld t 19 5 != 0 || fld t 14 2 != 0 || fld t 11 1 != 0

/-- `MBXWRITE` (R170, R312): the value, then the flag. -/
def execMbxwrite (q : HostCmd) (target value : BitVec 64) (s : State) : Out1 :=
  command q (fun s =>
    let n := fld target 0 11
    let k := fld target 12 2
    if mbxBad target then s.complete q 11 2 0 []
    else if !s.alive n k then s.complete q 11 4 0 []
    else
      let s1 := s.updCtx n k fun x => x.changeAll fun a => { a with mb := a.mb.set (fld target 16 3) value (by unfold fld nbits; omega) }
      (if fld target 24 1 = 1 then s1.updCore n fun c => c.setFlags (BitVec.ofNat 64 (2 ^ fld target 26 6)) else s1).complete q 11 0 0 []) s

/-- `FLAGSET` (R311). -/
def execFlagset (q : HostCmd) (n : Nat) (mask : BitVec 64) (s : State) : Out1 :=
  command q (fun s =>
    if !coreExists n then s.complete q 12 4 0 [] else (s.updCore n fun c => c.setFlags mask).complete q 12 0 0 []) s

/-! ### Groups, weights, counters, power (R290, R311, R312, R318) -/

/-- `COLLCFG` (R290). -/
def execCollcfg (q : HostCmd) (group p : Nat) (src : Source) (s : State) : Out1 :=
  command q (fun s =>
    let b := s.sourceBytes src (2 * min p 4096)
    let members := (List.range (min p 4096)).map fun i => (b.getD (2 * i) 0).toNat + (b.getD (2 * i + 1) 0).toNat * 256
    if 4096 ≤ group ∨ p < 2 ∨ 4096 < p ∨ 2 ^ 57 ≤ src.fpa ∨ members.any (fun m => decide (4096 ≤ m)) then s.complete q 16 2 0 []
    else
      let gs : List CollGroup := (s.groups.filter fun (g : CollGroup) => g.num != group) ++ [{ num := group, members := members, dropped := none, runs := [] }]
      let s1 : State := { s with groups := gs, collEarly := s.collEarly.filter fun (c : Nat × RingCell) => collGroup c.2 != group }
      s1.complete q 16 0 0 []) s

/-- `ARBSET` (R311). -/
def execArbset (q : HostCmd) (arbw swt : BitVec 64) (s : State) : Out1 :=
  command q (fun s =>
    if fld arbw 24 40 ≠ 0 ∨ swt.toNat = 0 ∨ 15 < swt.toNat then s.complete q 17 2 0 []
    else { s with fw := { s.fw with arbw := arbw, swt := swt.toNat } }.complete q 17 0 0 []) s

/-- `CTRSEL` (R318): a counter selected, enabled or not, and cleared. -/
def execCtrsel (q : HostCmd) (stack ctr src : Nat) (en : Bool) (s : State) : Out1 :=
  command q (fun s =>
    if 8 ≤ stack ∨ 32 ≤ ctr ∨ src = 0 ∨ 12 < src then s.complete q 18 2 0 []
    else (s.updStack stack fun t => { t with ctrs := assocSet ctr { src := src, en := en, val := 0 } t.ctrs }).complete q 18 0 0 []) s

/-- `CTRREAD` (R318). -/
def execCtrread (q : HostCmd) (stack first count : Nat) (s : State) : Out1 :=
  command q (fun s =>
    if 8 ≤ stack ∨ count = 0 ∨ 30 < count ∨ 32 < first + count then s.complete q 19 2 0 []
    else s.complete q 19 0 0 ((List.range count).flatMap fun i =>
      leBytes 8 (assocGet (first + i) { src := 0, en := false, val := 0 } (s.stack stack).ctrs).val)) s

/-- `PLYSTAT` (R311): `PLY` of core c in bits 4c + 3 : 4c. -/
def execPlystat (q : HostCmd) (stack : Nat) (s : State) : Out1 :=
  command q (fun s =>
    if 8 ≤ stack then s.complete q 21 2 0 []
    else s.complete q 21 0 0 ((List.range 96).map fun i =>
      BitVec.ofNat 8 ((s.core (stack * 192 + 2 * i)).ply.toNat + 16 * (s.core (stack * 192 + 2 * i + 1)).ply.toNat))) s

/-- `POWERCAP` (R312). -/
def execPowercap (q : HostCmd) (limit wt wd : Nat) (s : State) : Out1 :=
  command q (fun s =>
    if limit < 1200 ∨ 3600 < limit then s.complete q 22 2 0 []
    else { s with fw := { s.fw with limit := limit, wt := wt, wd := wd } }.complete q 22 0 limit []) s

/-! ### RESET (R315, R380) -/

/-- Every network holds new tokens at their entry. -/
def State.holdNets (s : State) : State := { s with nets := s.nets.map fun x => { x with hold := true } }

/-- `RESET`: the lifetime counts are committed (R396) and every context ends at once; the networks drain, for 1 ms at most; then
everything is cleared and the package boots again. -/
def execReset (q : HostCmd) (s : State) : Out1 :=
  command q (fun s =>
    let s1 : State := { s.holdNets with
      life := s.life.commit, fw := { s.fw with waiting := s.fw.waiting ++ [.reset q] }
      cores := s.cores.map fun c => (c.1, Core.again c.1 c.2) }
    (s1.nets.foldl (fun s d => if s1.isQuiet d.ref then s else s.after Config.latDrain (.networkDrainTimeout d.ref)) s1).settleReset) s

/-! ### The command port (R309 to R311, R313) -/

/-- The header doubleword of a command cell (R309). -/
def commandHeader (c : RingCell) : Nat := leNat (c.payload.take 8)

/-- The host peer and the number of a command cell. -/
def commandFrom (c : RingCell) : HostCmd := { peer := c.src, seq := BitVec.ofNat 32 (nbits (commandHeader c) 0 32) }

/-- Doubleword `i` of the parameters, which follow the header (R313). -/
def paramAt (c : RingCell) (i : Nat) : Nat := leNat ((c.payload.drop (8 + 8 * i)).take 8)

/-- The doublewords of parameters that a command code takes (R311, R313). -/
def paramCount : Nat → Option Nat
  | 1 => some 0 | 2 => some 5 | 3 => some 4 | 4 => some 4 | 5 => some 2 | 6 => some 11 | 7 => some 4 | 8 => some 1
  | 9 => some 3 | 10 => some 3 | 11 => some 2 | 12 => some 2 | 13 => some 5 | 14 => some 3 | 15 => some 3 | 16 => some 3
  | 17 => some 2 | 18 => some 4 | 19 => some 3 | 20 => some 4 | 21 => some 1 | 22 => some 3 | 23 => some 0 | _ => none

/-- Whether a command cell's header is none of a command: a bit of 63:48 set, a code that is not in R311, a parameter count that is not
the command's, an enable that is neither 0 nor 1 (R309, R311). -/
def commandBad (c : RingCell) : Bool :=
  let h := commandHeader c
  nbits h 48 16 != 0 || c.len.toNat != 8 + nbits h 40 8 || (paramCount (nbits h 32 8)).map (8 * ·) != some (nbits h 40 8) ||
  (nbits h 32 8 == 18 && decide (1 < paramAt c 3))

/-- What a command cell names at a fabric physical address: of another package's memory, what a free function says (log 4). -/
def cellSource (fpa n : Nat) : Source := { fpa := fpa, bytes := (List.range n).map fun i => Config.farByte (fpa + i) }

/-- The command of a cell at the command port (R309, R311, R313): its row, with the parameters in the order of R311. A cell that holds no
command is refused with ST 2 (R314; DESIGN CHOICE, log 74). -/
def runCommand (c : RingCell) (s : State) : Out1 :=
  let q := commandFrom c
  let w := paramAt c
  let d (i : Nat) : Dword := BitVec.ofNat 64 (w i)
  let cmd := nbits (commandHeader c) 32 8
  if commandBad c then command q (fun s => s.complete q cmd 2 0 []) s
  else match cmd with
  | 1 => execIdent q s
  | 2 => execAttest q ((c.payload.drop 8).take 32) (w 4) s
  | 3 => execLoadimg q (w 0) (d 1) (cellSource (w 2) (min (w 3) (2 ^ 32))) (w 3) [] s
  | 4 => execPsetdesc q (w 0) (w 1) (w 2) (cellSource (w 3) 256) s
  | 5 => execPtroot q (w 0) (w 1) s
  | 6 => execHandle q (w 0) (w 1) (w 2) (BitVec.ofNat 512 (leNat ((c.payload.drop 32).take 64))) s
  | 7 => execLaunch q (d 0) (d 1) (d 2) (d 3) s
  | 8 => execKill q (d 0) s
  | 9 => execPreempt q (w 0) (w 1) (w 2) s
  | 10 => execResume q (w 0) (w 1) (w 2) s
  | 11 => execMbxwrite q (d 0) (d 1) s
  | 12 => execFlagset q (w 0) (d 1) s
  | 13 => execCnconfig q (d 0) (d 1) (d 2) (d 3) (d 4) s
  | 14 => execCnsave q (d 0) (d 1) (w 2) s
  | 15 => execCnrestore q (d 0) (d 1) (cellSource (w 2) 176) s
  | 16 => execCollcfg q (w 0) (w 1) (cellSource (w 2) (2 * min (w 1) 4096)) s
  | 17 => execArbset q (d 0) (d 1) s
  | 18 => execCtrsel q (w 0) (w 1) (w 2) (w 3 == 1) s
  | 19 => execCtrread q (w 0) (w 1) (w 2) s
  | 20 => execLiferead q (w 0) (w 1) (w 2) (w 3) s
  | 21 => execPlystat q (w 0) s
  | 22 => execPowercap q (w 0) (w 1) (w 2) s
  | _ => execReset q s

end Sys2Proof.Machine
end

