-- ==== Sys2Proof/Machine/Issue.lean ====
section
/-!
DEFINITION. When an engine issues a word (R69, R70, R76 to R81, R85, R195, R196, R208, R213, R216 to R220, R320, R339,
R352): what a word waits for, what freezes the core (R57, R86), and the issue itself.
-/

namespace Sys2Proof.Machine

/-! ### Operands -/

/-- The rows that a word pushes into each of its destination queues (R339). -/
def rowsOf (a : Arch) (i : Instr) : Nat :=
  match i with
  | .tld _ _ _ _ _ t _ _ => tileRows t
  | .ldx _ _ _ _ _ q _ => indexRows a q
  | i => (info i).rows

/-- The rows that must stand when a word issues: of a `PST` the first queue's, of an `LDX` the index row (R77, R192), of a
`VDRP` also one of `rq` (R245). -/
def issueSrcs (i : Instr) : List (Bool × BitVec 5) :=
  match i with
  | .pst _ _ _ _ _ _ => (info i).vsrc.take 1
  | .ldx _ _ _ _ _ q _ => [(false, q)]
  | i => (info i).vsrc ++ (if (info i).rq then [(false, 29)] else [])

/-- The scale queues that a word reads (R226). -/
def scaleSrcs (i : Instr) : List (BitVec 3) :=
  match i with
  | .vdq _ _ _ _ _ _ _ _ b => if b = 30 then [] else [b.setWidth 3]
  | .vscl _ _ _ k _ _ _ q => [q, k]
  | .vospl _ _ _ _ _ _ _ q => [q]
  | .vmsk _ _ _ q => [q]
  | _ => []

/-- The scope of an acquiring L word, or of an ordered `ATOM` (R193, R195). -/
def acquireOf (i : Instr) : Option (BitVec 3) :=
  match i with
  | .lds _ _ _ _ _ _ o _ => ordScope o
  | .ldg _ _ _ _ _ _ o _ => ordScope o
  | .ldv _ _ _ _ _ o => ordScope o
  | .lgv _ _ _ _ _ _ o => ordScope o
  | .tld _ _ _ _ _ _ _ o => ordScope o
  | .ldx _ _ _ _ _ _ o => ordScope o
  | .atom _ _ _ _ _ _ o => ordScope o
  | _ => none

/-! ### What a word waits for besides rows and room -/

/-- Whether a word of an older bundle of the context still holds back its later words (R195, R196). -/
def Core.heldBack (c : Core) (k seq : Nat) (is : Instr → Bool) : Bool :=
  c.queue.any (fun e => e.ctx == k && decide (e.seq < seq) && is e.instr) ||
  c.held.any (fun h => h.entry.ctx == k && decide (h.entry.seq < seq) && is h.entry.instr) ||
  ((c.ctx k).wq.any fun h => decide (h.entry.seq < seq) && is h.entry.instr) ||
  c.flights.any (fun f => f.ctx == k && decide (f.seq < seq) && is f.instr)

/-- Whether an older acquire holds back an L or T word of bundle `seq`. -/
def Core.acquiring (c : Core) (k seq : Nat) : Bool :=
  decide (c.cyc < (c.ctx k).acqUntil) || c.heldBack k seq fun i => (acquireOf i).isSome

/-- Whether a flight's push goes through the L write port at its due cycle (R78). -/
def Flight.portCycle (f : Flight) : Option Nat :=
  match f.kind with
  | .land _ _ _ false => some f.due
  | .push _ _ _ => if f.slot = 1 then some f.due else none
  | _ => none

/-- The cycles from issue at which an L word's rows go through the L write port. -/
def portLats (i : Instr) : List Nat :=
  match i with
  | .ldv _ _ _ _ _ _ => [6]
  | .ldvt _ _ _ _ _ _ => [6]
  | .lgv _ _ _ _ _ x _ => [4 * x.toNat]
  | .pld _ _ _ _ x _ _ => [4 * x.toNat]
  | _ => []

/-- Rows that an L word needs in the landing buffer (R85). -/
def landingRows (i : Instr) : Nat :=
  match i with | .lgv _ _ _ _ _ _ _ => 1 | .pld _ _ _ _ _ _ m => popCount 4 m.toNat | _ => 0

/-- Rows in the landing buffer: an entry frees at its push. -/
def Core.landings (c : Core) : Nat :=
  (c.flights.filter fun f => match f.kind with | .land _ _ _ late => !late | _ => false).length

/-- The scratchpad bytes that a scratchpad load reads, as fabric physical addresses (R181 to R183, R195). -/
def State.spReads (s : State) (n : Nat) (e : Entry) : List (Nat × Nat) :=
  let a := e.ops.addr
  match e.instr with
  | .lds _ _ _ _ _ z _ f => let w := sizeOf' z; [(spAddr n ((fld a 0 21 + f.toNat * w) / w * w), w)]
  | .ldv _ _ _ d _ _ => let w := (s.ctx n e.ctx).arch.widthOfQueue d / 8; [(spAddr n (fld a 0 21 / w * w), w)]
  | .ldvt _ _ _ _ _ b => let w := 8 * 2 ^ b.toNat; (List.range 64).map fun r => (spAddr n (tileByte a w r), w / 8)
  | _ => []

/-- Whether an L word may issue, rows and room apart. -/
def State.mayIssueL (s : State) (n : Nat) (e : Entry) : Bool :=
  let c := s.core n
  !c.acquiring e.ctx e.seq && !c.heldBack e.ctx e.seq isFence &&
  (portLats e.instr).all (fun d => !(c.flights.any fun f => f.portCycle == some (c.cyc + d))) &&
  (landingRows e.instr == 0 || decide (c.landings + landingRows e.instr ≤ 64)) &&
  (let sp := s.spReads n e; sp.isEmpty || !s.olderOverlap n e.ctx e.seq false sp)

/-- Whether a T word may issue, rows apart: not while an older word of its context still pops its rows (R192). -/
def State.mayIssueT (s : State) (n : Nat) (e : Entry) : Bool :=
  let c := s.core n
  let popping (h : Held) : Bool := decide (h.rows.length < h.need)
  !c.acquiring e.ctx e.seq && !(c.held.any fun h => h.entry.ctx == e.ctx && popping h) && !((c.ctx e.ctx).wq.any popping)

/-- Whether a bundle of a context has retired (R319). -/
def Ctx.hasRetired (x : Ctx) (seq : Nat) : Bool := !x.ckpts.any fun q => decide (q.seq ≤ seq)

/-- Whether every earlier bundle has retired and every other word of the own one is past its check point (R320): a plane
instruction beside it once the agent has answered (R359), and a wait bundle once every word has entered (R75). -/
def Core.retiring (c : Core) (k seq slot : Nat) : Bool :=
  !((c.ctx k).ckpts.any fun q => decide (q.seq < seq) || (q.seq == seq && (q.agent || q.wait))) &&
  ((List.range 8).all fun i => i == slot || !c.unpassed k seq i) && !((c.ctx k).faults.any fun f => f.seq == seq)

/-- Whether the array is idle as `MDRN` waits for it (R216): every row pushed, no load under way, no row in the tandem
buffer. -/
def Core.arrayIdle (c : Core) : Bool :=
  c.rows.isEmpty && !((c.load.toList ++ c.loadsBack).any WLoad.started) && !(c.tandem.any fun r => r.due == 0)

/-- Whether a row may be entered into the array (R208, R220). -/
def State.mayEnter (s : State) (n : Nat) (k : Nat) (q : BitVec 5) : Bool :=
  let c := s.core n
  decide (c.rowFrom ≤ c.cyc) && decide (c.rowCount k + 1 ≤ 44) &&
  (!c.forwards || decide ((s.core (eastOf n)).tandem.length < 16)) &&
  (!(q == 30 && c.follower) || (match c.tandem with | [] => false | r :: _ => r.due == 0))

/-- Whether an M word may issue, rows apart. -/
def State.mayIssueM (s : State) (n : Nat) (e : Entry) : Bool :=
  let c := s.core n
  match e.instr with
  | .mma _ _ q _ => s.mayEnter n e.ctx q
  | .mmac _ _ q _ _ => s.mayEnter n e.ctx q
  | .mlw _ _ _ _ => c.load.isNone && c.loadsBack.isEmpty
  | .mswp _ _ => c.load.isNone && c.loadsBack.isEmpty && c.retiring e.ctx e.seq 3
  | .mzer _ _ => c.arrayIdle && c.retiring e.ctx e.seq 3
  | .mchn _ _ _ => c.arrayIdle && c.retiring e.ctx e.seq 3
  | .mdrn _ _ => c.arrayIdle
  | .msts _ _ _ =>
    !(c.rows.any fun r => r.ctx == e.ctx) && !(c.runs.any fun r => r.ctx == e.ctx && r.rows.n != 0) &&
    !((c.load.toList ++ c.loadsBack).any fun l => l.entry.ctx == e.ctx) &&
    (match c.recAt.find? fun r => r.1 == e.ctx with | some r => decide (r.2 < c.cyc) | none => true)
  | _ => true

/-- Whether a K word's ring has room (R352). -/
def Core.kRoom (c : Core) (e : Entry) : Bool :=
  match (info e.instr).kdst with
  | some q => decide (((c.ctx e.ctx).arch.kqueue q).held + c.kReserved e.ctx q < 8)
  | none => true

/-- Whether a K word may issue: its ring has room, and no older acquire, `FENCE` or `FENCEX` of its context holds back one that reads
memory (R196, R279). -/
def Core.mayIssueK (c : Core) (e : Entry) : Bool :=
  let reads := match e.instr with | .kld _ _ _ _ _ _ => true | .ktab _ _ _ _ _ => true | .kout _ _ _ _ _ _ => true | _ => false
  c.kRoom e && !(reads && (c.acquiring e.ctx e.seq || c.heldBack e.ctx e.seq isFence))

/-- Whether a word waits for a lane mask (R225): a reader until every earlier write of the mask has been made, a writer until
every earlier reader has issued and so that its write is made after the earlier ones. -/
def Core.maskHeld (c : Core) (e : Entry) : Bool :=
  let f := info e.instr
  let first (k seq slot : Nat) : Bool := k == e.ctx && (decide (seq < e.seq) || (seq == e.seq && decide (slot < slotNum e.slot)))
  let queued (is : Info → Bool) : Bool := c.queue.any fun g => first g.ctx g.seq (slotNum g.slot) && is (info g.instr)
  let writes (m : BitVec 3) (g : Flight) : Bool := first g.ctx g.seq g.slot && (match g.kind with | .mask x _ _ => x == m | _ => false)
  f.mr.any (fun m => queued (fun i => i.mw == some m) || c.flights.any (writes m)) ||
  (match f.mw with
   | none => false
   | some m =>
     queued (fun i => i.mw == some m || i.mr.contains m) ||
     c.flights.any fun g => writes m g && (decide (c.cyc + 2 < g.due) || (c.cyc + 2 == g.due && decide (slotNum e.slot < g.slot))))

/-- Whether a word's engine lets it issue, rows and room of its queues apart. -/
def State.engineFree (s : State) (n : Nat) (e : Entry) : Bool :=
  !(s.core n).maskHeld e &&
  match e.slot with
  | .l => s.mayIssueL n e
  | .t => s.mayIssueT n e
  | .m => s.mayIssueM n e
  | .x => (s.core n).multi.isEmpty
  | .k => (s.core n).mayIssueK e
  | _ => true

/-- Whether every row stands that a word reads, and there is room for those it pushes; a word that breaks
a limit or R339 issues, to raise its fault. -/
def Core.rowsReady (c : Core) (e : Entry) : Bool :=
  let a := (c.ctx e.ctx).arch
  let f := info e.instr
  let m := rowsOf a e.instr
  limitBad a e.instr || depthZero a f || tooMany a f m || (standing a (issueSrcs e.instr) [] && c.room e.ctx f m)

/-- The flight whose late data a word would read (R57, R81, R86). -/
def Core.absentFor (c : Core) (e : Entry) : Option Nat :=
  let a := (c.ctx e.ctx).arch
  if limitBad a e.instr || depthZero a (info e.instr) then none
  else (absentRow a (issueSrcs e.instr)).orElse fun _ => (scaleSrcs e.instr).findSome? fun q => (a.kqueue q).top.wait

/-- Whether a word waits for nothing but, it may be, late data: it has been a cycle in its queue, its ports are free, its
engine, rows and room are ready. The words that RESUME put back wait for the first bundle (R63). -/
def State.wouldIssue (s : State) (n : Nat) (e : Entry) : Bool :=
  let c := s.core n
  decide (e.enq < c.cyc) && !(c.ctx e.ctx).replay && (e.ports.all fun p => !c.ports.getLsbD p) && s.engineFree n e && c.rowsReady e

/-- The first word of each context in an engine's queue, the earliest entered first (R70). -/
def Core.firsts (c : Core) (g : Engine) : List Entry :=
  (c.queue.filter fun e => e.slot == g).foldl (fun l e => if l.any fun x => x.ctx == e.ctx then l else l ++ [e]) []

/-- The word that an engine issues in this cycle, as far as late data lets it. -/
def State.engineNext (s : State) (n : Nat) (g : Engine) : Option Entry := ((s.core n).firsts g).find? fun e => s.wouldIssue n e

/-- The next word to issue: engines in the order of their slots, each at most once in a cycle, so that the lower slot has a
read port that two name (R76). Where it reads late data the core freezes first (R57), and the word issues in the cycle in
which the clock goes on (R81). -/
def State.nextIssue (s : State) (n : Nat) : Option Entry :=
  ([.l, .t, .m, .a, .b, .x, .k] : List Engine).findSome? fun g =>
    if (s.core n).issued.toNat < 2 ^ slotNum g then s.engineNext n g else none

/-- The core stops on the late data of a flight (R57). -/
def State.freeze (s : State) (n id : Nat) : State :=
  s.updCore n fun c => { c with clk := .frozen id s.now (match c.clk with
    | .running => .running | .switching l k => .switching l k | .freewheel w => .freewheel w | .frozen _ _ b => b) }

/-! ### The issue -/

/-- A word leaves its queue and is the running word; its engine and ports are taken for the cycle, and its issue is an event of
R317, which `EVCNT` shows once the word has completed (R96). -/
def State.issueStart (s : State) (n : Nat) (e : Entry) : State :=
  let b := slotNum e.slot
  let take := match e.instr with | .take _ _ _ _ => true | _ => false
  let s1 := s.updCore n fun c =>
    let c1 : Core :=
      { c with
        queue := c.queue.erase e
        issued := c.issued ||| BitVec.ofNat 8 (2 ^ b)
        ports := e.ports.foldl (fun m p => m ||| BitVec.ofNat 6 (2 ^ p)) c.ports }
    let c2 := if 4 ≤ b ∧ b ≤ 6 then c1.countWord 12 e.ctx e.seq b else c1
    if take then c2.countWord 15 e.ctx e.seq b else c2
  { s1 with act := { core := n, ctx := e.ctx, entry := e, sword := none, dry := false } }

/-- No word is running any more. -/
def State.rest (s : State) : State := { s with act := Act.blank }

/-- A dispatch fault stands in a slot above 0: of the S word's trial run only the faults are kept (R321). -/
def State.keepFaults (s t : State) : State :=
  s.updMe fun x => { x with faults := (t.ctx s.act.core s.act.ctx).faults }

/-- What follows the S word of a dispatch: its open loops settle, or the trial run's faults are kept. -/
def State.afterSword (s t : State) : State :=
  if s.act.dry then (s.keepFaults t).rest
  else ({ t with act := s.act } : State).settleFront.rest

end Sys2Proof.Machine
end

