-- ==== Sys2Proof/Machine/Tick.lean ====
section
/-!
DEFINITION. The machine's own course: which event happens next in a cycle (log 7), and what the end of a cycle does (R19,
R55 to R57, R60, R83, R155, R192, R213, R249, R267, R289, R317, R318, R329, R340, R374, R396, R399).
-/

namespace Sys2Proof.Machine

/-- What a step does: an event that was to come at time `t`, an event that is due in this cycle, a word that issues, a
core that freezes on late data (R57), a command cell that the port takes (R310), or the end of the cycle. -/
inductive Move where
  | sched (t : Nat) (i : Instr)
  | event (i : Instr)
  | issue (n : Nat) (e : Entry)
  | freeze (n id : Nat)
  | command (t : Nat) (c : RingCell)
  | tick
  deriving DecidableEq, Repr

/-! ### Firmware commands (R309, R310) -/

/-- The host peer of a firmware command. -/
def commandPeer (i : Instr) : Option (BitVec 12) :=
  match i with
  | .ident q => some q.peer
  | .attest q _ _ => some q.peer
  | .loadimg q _ _ _ _ _ => some q.peer
  | .psetdesc q _ _ _ _ => some q.peer
  | .ptroot q _ _ => some q.peer
  | .handle q _ _ _ _ => some q.peer
  | .launch q _ _ _ _ => some q.peer
  | .kill q _ => some q.peer
  | .preempt q _ _ _ => some q.peer
  | .resume q _ _ _ => some q.peer
  | .mbxwrite q _ _ => some q.peer
  | .flagset q _ _ => some q.peer
  | .cnconfig q _ _ _ _ _ => some q.peer
  | .cnsave q _ _ _ => some q.peer
  | .cnrestore q _ _ _ => some q.peer
  | .collcfg q _ _ _ => some q.peer
  | .arbset q _ _ => some q.peer
  | .ctrsel q _ _ _ _ => some q.peer
  | .ctrread q _ _ _ => some q.peer
  | .liferead q _ _ _ _ => some q.peer
  | .plystat q _ => some q.peer
  | .powercap q _ _ _ => some q.peer
  | .reset q => some q.peer
  | _ => none

/-- Whether an event brings the data of a flight that still waits for it: it takes its turn among the core's results (R80). -/
def State.returns (s : State) (i : Instr) : Bool :=
  match i with | .globalLoadReturn n id => ((s.core n).flight id).isSome | _ => false

/-- Whether an event is one of the array's faults, which are detected in a cycle after its words have issued (R390). -/
def arrayFault (i : Instr) : Bool := match i with | .plyFailure _ _ => true | .weightParityError _ _ => true | _ => false

/-- Whether a scheduled entry is due and happens in the course of its cycle: no firmware command, and no fault of an array. -/
def State.dueEvent (s : State) (e : Nat × Instr) : Bool :=
  decide (e.1 ≤ s.now) && (commandPeer e.2).isNone && !s.returns e.2 && !arrayFault e.2

/-- Whether a fault of an array is detected in this cycle. -/
def State.dueFault (s : State) (e : Nat × Instr) : Bool := decide (e.1 ≤ s.now) && arrayFault e.2

/-- Whether a scheduled firmware command executes at the end of this cycle: each is atomic, so one that waits before it completes holds
back the later ones, of whichever host peer (R310). -/
def State.dueCommand (s : State) (e : Nat × Instr) : Bool :=
  decide (e.1 ≤ s.now) && (commandPeer e.2).isSome && s.fw.waiting.isEmpty

/-- Whether the command port takes a cell that stands there at the end of this cycle. -/
def State.portDue (s : State) (e : Nat × RingCell) : Bool := decide (e.1 ≤ s.now) && s.fw.waiting.isEmpty

/-! ### Results due (R62, R63, R80) -/

/-- Whether a result is written or pushed now: it is due, and it is neither held in a snapshot latch nor waiting for the
first bundle after RESUME. -/
def Core.isDue (c : Core) (f : Flight) : Bool :=
  let x := c.ctx f.ctx
  decide (f.due ≤ c.cyc) && !(x.replay && x.latches.any fun l => l.1 == f.id) &&
  !(x.st == .saving && decide (x.cf ≤ f.due)) && x.st != .saved &&
  (match f.kind with
   | .push _ _ _ => true | .land _ _ _ late => !late | .sreg _ _ => true | .mask _ _ _ => true
   | .scale _ _ _ late => !late | .krng _ => true | _ => false)

/-- The order of pushes (R80): push cycle, slot, order of issue. -/
def Flight.before (f g : Flight) : Bool :=
  decide (f.due < g.due) || (f.due == g.due && (decide (f.slot < g.slot) || (f.slot == g.slot && decide (f.id ≤ g.id))))

/-- The first of the results due. -/
def firstFlight : List Flight → Option Flight
  | [] => none
  | f :: r => match firstFlight r with | none => some f | some g => if f.before g then some f else some g

/-- The data that has come for flights of core `n`: when, and the flight as it stands among the results of this cycle. -/
def State.returnsDue (s : State) (n : Nat) : List (Nat × Flight) :=
  s.sched.filterMap fun e => match e.2 with
    | .globalLoadReturn m id =>
      if m = n ∧ e.1 ≤ s.now then ((s.core n).flight id).map fun f => (e.1, { f with due := (s.core n).cyc }) else none
    | _ => none

/-- The event of a result due. -/
def Flight.event (n : Nat) (f : Flight) : Instr :=
  match f.kind with
  | .land _ _ _ _ => .landingPush n f.id
  | .scale _ _ _ _ => .scalePush n f.id
  | _ => .pipelineResult n f.id

/-- The result that is written or pushed next on a core, what has returned from memory among them (R80). -/
def State.resultMove (s : State) (n : Nat) : Option Move :=
  let c := s.core n
  let r := s.returnsDue n
  (firstFlight (c.flights.filter c.isDue ++ r.map (·.2))).map fun f =>
    match r.find? fun x => x.2.id == f.id with
    | some x => .sched x.1 (.globalLoadReturn n f.id)
    | none => .event (f.event n)

/-! ### The matrix array (R207, R211, R213, R399) -/

/-- Whether the oldest row leaves the array: one in a cycle, once it is due and the `fl` of its context has room. -/
def Core.rowLeaves (c : Core) : Bool :=
  match c.rows with
  | [] => false
  | r :: _ =>
    let x := c.ctx r.ctx
    decide (r.iss + 40 ≤ c.cyc) && c.rowPushed != c.cyc + 1 &&
    (x.killed || (x.st == .saving && decide (x.cf ≤ c.time)) || decide ((x.arch.queue 28).rows.length < 4))

/-- Whether M has issued every word of context `k` before the next `MSWP`, or has none to issue (R211). -/
def Core.beforeSwap (c : Core) (k : Nat) : Bool :=
  match c.queue.find? fun e => e.ctx == k && e.slot == .m with
  | none => true
  | some e => (match e.instr with | .mswp _ _ => true | _ => false)

/-- Whether a weight load starts: its bundle has retired, and the rows before it have left their product stages. -/
def Core.loadStarts (c : Core) (l : WLoad) : Bool :=
  !l.started && (c.ctx l.entry.ctx).hasRetired l.entry.seq &&
  (if l.exposed then c.beforeSwap l.entry.ctx && c.rows.all fun r => decide (r.iss + 14 ≤ c.cyc)
   else c.rows.all fun r => decide (c.swapAt < r.iss) || decide (r.iss + 14 ≤ c.cyc))

/-- The next step of the array. -/
def Core.arrayEvent (c : Core) (n : Nat) : Option Instr :=
  if c.rowLeaves then some (.matrixRowPush n)
  else
    match c.load with
    | none => none
    | some l =>
      if c.loadStarts l then some (.mlwLoadStart n)
      else if l.started && l.rows.length == 64 && decide (l.start + 64 ≤ c.cyc) then some (.mlwComplete n)
      else if l.started && decide (l.rows.length < 64) && decide (2 ^ 20 ≤ l.waited) then some (.mlwStarved n)
      else none

/-! ### Retirement, traps, checks, limits -/

/-- The retirement, trap or limit of context `k` that is due (R319, R321, R325, R340, R374). -/
def Core.ctxEvent (c : Core) (n k : Nat) : Option Instr :=
  let x := c.ctx k
  if x.st = .saved then none
  else if c.retirable k then some (.bundleRetire n k)
  else
    match c.trapDue k with
    | some p =>
      if p.cause = stopCause then
        (c.flights.find? fun f => f.ctx == k && f.seq == p.seq && f.slot == p.slot &&
          (match f.kind with | .check _ _ _ st _ => st == 3 | _ => false)).map fun f => .translationComplete n f.id
      else some (.faultTaken n k)
    | none =>
      if (c.asyncDue k).isSome then some (.asyncTrapTaken n k)
      else
        match ([1, 2, 3, 4, 5, 6, 7] : List Nat).find? fun i => decide (2 ^ 20 ≤ (x.waits[i % 8]'(Nat.mod_lt _ (by decide))).1) with
        | some i => some (.queueWaitLimit n k (engineOf i))
        | none => if x.st = .blocked .channel ∧ 2 ^ 20 ≤ x.probe then some (.probeSend n k) else none

/-- Whether lines of tables of an address space are on their way to its translation caches. -/
def State.tablesOut (s : State) (asn : Nat) : Bool := s.reqs.any fun r => match r.kind with | .table a _ => a == asn | _ => false

/-- Whether lines that flight `id` of a core needs are on their way. -/
def State.fetching (s : State) (n id : Nat) (lines : List Nat) : Bool :=
  lines.any fun l => s.filling (stackOf n) l || s.reading n id l

/-- Whether the checks or the read of a word, which have been waiting, go on (R195, R273, R286, R319). -/
def State.checkGoesOn (s : State) (n : Nat) (f : Flight) : Bool :=
  match f.kind with
  | .check e _ _ st p =>
    let k := f.ctx
    let coll := match e.instr with | .coll _ _ _ _ _ _ _ => true | _ => false
    !(s.sched.any fun x => x.2 == .translationComplete n f.id) &&
    (match st with
     | 0 => !s.tablesOut (s.ctx n k).asn
     | 1 => !s.olderOverlap n k e.seq (f.past && !coll) p.spans && !(coll && s.olderWait n k e.seq)
     | 2 => !s.readsBusy n k (f.past && !coll) p.spans
     | 4 => !s.fetching n f.id (s.lacks n f.id (f.past && !coll) (if coll then ({ p with rows := p.rows.take 1 } : Places) else p).spans)
     | _ => false)
  | _ => false

/-- The check that goes on next on a core. -/
def State.checkEvent (s : State) (n : Nat) : Option Instr :=
  ((s.core n).flights.find? fun f => s.checkGoesOn n f).map fun f => .translationComplete n f.id

/-! ### The front end (R52, R55, R56, R75) -/

/-- What the front end does in this cycle. A context that leaves after its bundle has dispatched in this cycle is followed
by the switch from the next cycle on (R54, R154, log 36). -/
def Core.frontEvent (c : Core) (n : Nat) : Option Instr :=
  match c.clk with
  | .freewheel true => some (.freewheelWake n)
  | .running =>
    (match c.cur with
     | none => some (.contextSwitch n)
     | some k =>
       let x := c.ctx k
       if x.st ≠ .current then (if c.disp then none else some (.contextSwitch n))
       else if 1 ≤ c.curFor ∧ (c.ready.any fun j => decide (4096 ≤ (c.ctx j).waitCnt)) = true then some (.waitCounterRaise n)
       else if c.disp || !x.faults.isEmpty || (!x.asyncs.isEmpty && !x.arch.ih) then none
       else some (if 0 < x.present then .waitBundlePresent n else .bundleDispatch n))
  | _ => none

/-- The T word that still pops rows, the first of its core. -/
def Core.popper (c : Core) : Option Held :=
  let is (h : Held) : Bool := decide (h.rows.length < h.need)
  (c.held.find? is).orElse fun _ => ([0, 1, 2, 3] : List Nat).findSome? fun k => (c.ctx k).wq.find? is

/-- Whether nothing of a core moves (R56). -/
def Core.idle (c : Core) : Bool :=
  c.queue.isEmpty && c.rows.isEmpty && c.multi.isEmpty && c.load.isNone && c.loadsBack.isEmpty && c.popper.isNone &&
  c.flights.all fun f => match f.kind with | .check _ _ _ _ _ => true | .gload _ _ _ => true | .ret _ _ _ => true | _ => false

/-- Whether the clock of a core stands: in freewheel once nothing moves (R56), and in a freeze (R57). -/
def Core.stands (c : Core) : Bool := match c.clk with | .freewheel _ => c.idle | .frozen _ _ _ => true | _ => false

/-- The contexts whose `rq` takes a row in this cycle (R83): none while the clock stands (R19). -/
def Core.refills (c : Core) (n : Nat) : Option Instr :=
  (([0, 1, 2, 3] : List Nat).find? fun k => ((c.ctx k).holds || (c.ctx k).st == .retired) && (c.ctx k).st != .saved &&
    decide ((c.ctx k).arch.rqn < 8) && !c.filled.getLsbD k && !c.stands).map fun k => .rqRefill n k

/-! ### Saving (R62, R221) -/

/-- Whether a weight load of context `k` stands in the way of its save: one that has started and waits for no row. -/
def Core.loadBusy (c : Core) (k : Nat) : Bool :=
  match c.load with
  | some l =>
    l.entry.ctx == k && l.started &&
    !(decide (l.rows.length < 64) && !standing (c.ctx k).arch ((mSources l.entry.instr).map fun q => (false, q)) [])
  | none => false

/-- Whether a result of a context being saved is in its latch: its data has come. -/
def Flight.latched (f : Flight) : Bool :=
  match f.kind with
  | .check _ _ _ _ _ => false
  | .gload _ _ r => r && f.due != 0
  | .ret _ _ r => r && f.due != 0
  | .land _ _ a _ => a
  | .scale _ _ a _ => a
  | _ => true

/-- Whether a context's state can be written to its save area: nothing of it moves any more. -/
def State.savable (s : State) (n k : Nat) : Bool :=
  let c := s.core n
  let x := c.ctx k
  x.st == .saving && decide (x.cf ≤ c.time) && x.wq.isEmpty && !s.writesOut n k && x.incs == 0 &&
  (match x.agent with | some (.plane _ _ _ _ _ _) => false | some (.applied _ _) => false | some (.spill _ _) => false | _ => true) &&
  c.flights.all (fun f => f.ctx != k || f.latched) && c.rows.all (fun r => r.ctx != k) && !c.loadBusy k &&
  c.held.all (fun h => h.entry.ctx != k || (h.checked && decide (h.need ≤ h.rows.length))) &&
  (([.l, .t, .m, .a, .b, .x, .k] : List Engine).all fun g =>
    (c.firsts g).all fun e => e.ctx != k || !s.wouldIssue n e)

/-! ### The choice of the next event -/

/-- The next event of a core. A frozen core's own work stands still, while its checks go on (R57, R355). -/
def State.coreEvent (s : State) (n : Nat) : Option Move :=
  let c := s.core n
  match c.clk with
  | .frozen _ since _ =>
    match s.checkEvent n with
    | some i => some (.event i)
    | none => if since + 300000 ≤ s.now then some (.event (.freezeTimeout n)) else none
  | _ =>
    match ((s.resultMove n).orElse fun _ => ((c.arrayEvent n).orElse fun _ =>
        (([0, 1, 2, 3] : List Nat).findSome? fun k => c.ctxEvent n k).orElse fun _ => s.checkEvent n).map Move.event) with
    | some m => some m
    | none =>
      match s.nextIssue n with
      | some e => some (match (s.core n).absentFor e with | some id => .freeze n id | none => .issue n e)
      | none =>
        ((c.frontEvent n).orElse fun _ => (c.refills n).orElse fun _ =>
          (([0, 1, 2, 3] : List Nat).find? fun k => s.savable n k).map fun k => .saveComplete n k).map Move.event

/-- The start of a copy or gather command, or the head or completion of a collective, that is due (R190, R197, R200). -/
def State.engineEvent (s : State) : Option Instr :=
  s.cmds.findSome? fun c =>
    match c.coll with
    | none => (s.startable c.stack c.cls c.eng).bind fun d => if d = c then some (.copyCommandStart c.stack c.cls c.eng) else none
    | some j =>
      if s.collCmd c.stack = some c then
        (if j.phase = 0 then some (.collHead c.stack)
         else if (j.phase = 5 ∨ j.phase = 7 ∨ j.phase = 8) ∧ s.cmdWaits c = false then some (.collComplete c.stack) else none)
      else none

/-- What the next step does. -/
def nextMove (s : State) : Move :=
  match s.sched.find? s.dueEvent with
  | some e => .sched e.1 e.2
  | none =>
    match s.cores.findSome? fun c => s.coreEvent c.1 with
    | some m => m
    | none =>
      match s.engineEvent with
      | some i => .event i
      | none =>
        match (s.sched.find? s.dueFault).or (s.sched.find? s.dueCommand) with
        | some e => .sched e.1 e.2
        | none => match s.fw.port.find? s.portDue with | some e => .command e.1 e.2 | none => .tick

/-- A scheduled event that happens now. -/
def State.take (s : State) (t : Nat) (i : Instr) : State := { s with sched := s.sched.erase (t, i) }

/-- A command cell that the port takes. -/
def State.takeCell (s : State) (t : Nat) (c : RingCell) : State := { s with fw := { s.fw with port := s.fw.port.erase (t, c) } }

/-! ### Rows popped one a cycle (R192, R213, R249) -/

/-- The queue from which a held T word pops its next row. -/
def Held.nextQueue (h : Held) : BitVec 5 :=
  match h.entry.instr with
  | .pst _ _ d _ _ m => (planeQueues d m).getD h.rows.length d
  | .tst _ _ d _ _ _ _ _ => d
  | .stx _ _ _ d _ _ _ => d
  | _ => 30

/-- A row of queue `q` popped for a word. -/
def State.popFor (s : State) (n : Nat) (e : Entry) (q : BitVec 5) (w : Nat) : Row × State :=
  let r := ({ s with act := { core := n, ctx := e.ctx, entry := e, sword := none, dry := false } } : State).src false q w
  (r.1, { r.2 with act := s.act })

/-- A held word with one more row. -/
def Held.more (h : Held) (id : Nat) (x : Row) : Held := if h.id = id then { h with rows := h.rows ++ [x] } else h

/-- The next row of a T word, once it stands; not in a cycle in which T has issued. -/
def State.popT (s : State) (n : Nat) : State :=
  let c := s.core n
  match c.popper with
  | none => s
  | some h =>
    let k := h.entry.ctx
    let a := (c.ctx k).arch
    let q := h.nextQueue
    if c.issued.getLsbD 2 || !standing a [(false, q)] [] then s
    else
      let (x, s1) := s.popFor n h.entry q (a.widthOfQueue q)
      (s1.updCore n fun c => { c with held := c.held.map fun y => y.more h.id x }).updCtx n k fun y =>
        { y with wq := y.wq.map fun z => z.more h.id x }

/-- The queue of an `XTLD`, and its row width. -/
def xtldQueue (i : Instr) : BitVec 5 × Nat := match i with | .xtld _ _ w _ _ a => (a, rowWidth w) | _ => (30, 2048)

/-- The slot of the X tables that an `XTLD` loads, and its width code. -/
def xtldSlot (i : Instr) : BitVec 2 × BitVec 2 := match i with | .xtld _ _ w n _ _ => (n, w) | _ => (0, 0)

/-- The next row of an `XTLD`; after its last the table replaces the slot's contents (R249). -/
def State.popX (s : State) (n : Nat) : State :=
  let c := s.core n
  match c.multi with
  | [] => s
  | m :: rest =>
    let (q, w) := xtldQueue m.entry.instr
    if c.issued.getLsbD 6 || !standing (c.ctx m.entry.ctx).arch [(false, q)] [] then s
    else
      let (x, s1) := s.popFor n m.entry q w
      let rows := m.rows ++ [x]
      if rows.length < m.need then s1.updCore n fun c => { c with multi := { m with rows := rows } :: rest }
      else
        let sl := xtldSlot m.entry.instr
        (s1.updCore n fun c => { c with multi := rest }).onArchAt n m.entry.ctx m.entry.seq fun a =>
          { a with tb := a.tb.set sl.1.toNat (tableOf sl.2 rows) sl.1.isLt }

/-- Whether the load of a core pops its next row now. -/
def Core.loadPops (c : Core) : Option WLoad :=
  match c.load with
  | some l => if l.started && decide (l.rows.length < 64) then some l else none
  | none => none

/-- A load that RESUME brought back takes the weight path once no other that has started holds it (R221). DESIGN CHOICE (log 49): one
of another context that has not started gives way and waits behind it, and of several brought back the first of RESUME goes
first. -/
def Core.loadOn (c : Core) : Core :=
  match c.load with
  | none =>
    (match (c.loadsBack.find? WLoad.started).orElse fun _ => c.loadsBack.head? with
     | some l => { c with load := some l, loadsBack := c.loadsBack.erase l }
     | none => c)
  | some l =>
    if l.started then c
    else match c.loadsBack.find? WLoad.started with
      | some r => { c with load := some r, loadsBack := c.loadsBack.erase r ++ [l] }
      | none => c

/-- The next row of a weight load (R213); without one it counts (R399). -/
def State.popW (s : State) (n : Nat) : State :=
  let s := s.updCore n Core.loadOn
  let c := s.core n
  match c.loadPops with
  | none => s
  | some l =>
    let x := c.ctx l.entry.ctx
    let q := (mSources l.entry.instr).getD 0 30
    if standing x.arch [(false, q)] [] then
      let (r, s1) := s.popFor n l.entry q 1024
      s1.updCore n fun c => { c with load := some { l with rows := l.rows ++ [BitVec.ofNat 1024 r.toNat], waited := 0 } }
    else
      let still := match x.st with | .blocked _ => true | .saved => true | _ => false
      s.updCore n fun c =>
        { c with load := some { l with waited := if 0 < c.reserved l.entry.ctx q then 0 else if still then l.waited else l.waited + 1 } }

/-- Late data that one of the words popping a row a cycle meets. -/
def State.awaitedMore (s : State) (n : Nat) : Option Nat :=
  let c := s.core n
  let at_ (k : Nat) (q : BitVec 5) : Option Nat :=
    if standing (c.ctx k).arch [(false, q)] [] then absentRow (c.ctx k).arch [(false, q)] else none
  (c.popper.bind fun h => if c.issued.getLsbD 2 then none else at_ h.entry.ctx h.nextQueue).orElse fun _ =>
  (match c.multi with
   | m :: _ => if c.issued.getLsbD 6 then none else at_ m.entry.ctx (xtldQueue m.entry.instr).1
   | [] => none).orElse fun _ =>
  c.loadPops.bind fun l => at_ l.entry.ctx ((mSources l.entry.instr).getD 0 30)

/-! ### Waits (R340, R374) -/

/-- The queue on which a word waits, a number for it, its rows held and its rows reserved. -/
def Core.waitOn (c : Core) (e : Entry) : Option (Nat × Nat × Nat) :=
  let a := (c.ctx e.ctx).arch
  let f := info e.instr
  let m := rowsOf a e.instr
  let here (q : BitVec 5) : Nat × Nat × Nat := (q.toNat, (a.queue q).rows.length, c.reserved e.ctx q)
  if !decide (e.enq < c.cyc) || limitBad a e.instr || depthZero a f || tooMany a f m then none
  else
    match (issueSrcs e.instr).find? fun x => x.2 != 29 && x.2 != 30 && !standing a [x] [] with
    | some x => some (here x.2)
    | none =>
      match (issueSrcs e.instr).find? fun x => x.2 != 29 && x.2 != 30 && !standing a (issueSrcs e.instr) [] with
      | some x => some (here x.2)
      | none =>
        match f.vdst.find? fun q => !c.room e.ctx { f with vdst := [q] } m with
        | some q => some (here q)
        | none =>
          match f.kdst with
          | some k => if c.kRoom e then none else some (32 + k.toNat, (a.kqueue k).held, c.kReserved e.ctx k)
          | none => none

/-- The wait count of a slot after a cycle: counted while the queue stands unchanged, nothing is reserved in it, and the
context is neither blocked nor saved. -/
def waitStep (still : Bool) (old : Nat × Nat) (w : Option (Nat × Nat × Nat)) : Nat × Nat :=
  match w with
  | none => (0, 0)
  | some (q, held, reserved) =>
    let key := q * 2 ^ 20 + held + 1
    if reserved ≠ 0 ∨ old.2 ≠ key then (0, key)
    else if still then old
    else (old.1 + 1, key)

/-- The counts of a context after a cycle. -/
def Core.countWaits (c : Core) (k : Nat) (x : Ctx) : Ctx :=
  let still := match x.st with | .blocked _ => true | .saved => true | _ => false
  { x with
    waits := Vector.ofFn fun i : Fin 8 => waitStep still x.waits[i] ((c.firstOf k (engineOf i.val)).bind c.waitOn)
    probe := if x.st = .blocked .channel then x.probe + 1 else 0
    waitCnt := if x.st = .ready then x.waitCnt + 1 else x.waitCnt }

/-! ### Blocked contexts (R54, R56) -/

/-- What would block the next bundle of a context if it were presented now. -/
def State.wouldBlock (s : State) (n k : Nat) : Option Cause :=
  let a := (s.ctx n k).arch
  match s.fetch n k a.pc 4 with
  | .ok l _ =>
    let hdr := wordOf l
    (match s.fetch n k (a.pc + 4) (4 * popCount 8 hdr.toNat) with
     | .ok ws _ =>
       let sw := slotWords hdr ws
       if headerBad' a.pc hdr sw then none else s.blockOf n k ((s.core n).shown k a.pc hdr sw)
     | _ => none)
  | _ => none

/-- A context blocked on a pending scalar, a command queue or its `TAKE` words is Ready once that has cleared. -/
def State.wakeBlocked (s : State) (n k : Nat) : State :=
  match (s.ctx n k).st with
  | .blocked c =>
    if (c = .scalar ∨ c = .command ∨ c = .takes) ∧ s.wouldBlock n k ≠ some c then s.updCtx n k Ctx.wake else s
  | _ => s

/-! ### The end of a core's cycle -/

/-- Whether every word of context `k` in its bundles before `b` (every bundle where none is named) has completed (R72). -/
def Core.complete (c : Core) (k : Nat) (b : Option Nat) : Bool :=
  let mine (ctx seq : Nat) : Bool := ctx == k && (match b with | some b => decide (seq < b) | none => true)
  !(c.queue.any fun e => mine e.ctx e.seq) && !(c.flights.any fun f => mine f.ctx f.seq) &&
  !(c.held.any fun h => mine h.entry.ctx h.entry.seq) &&
  ((c.ctx k).wq.all fun h => !mine k h.entry.seq || (decide (h.need ≤ h.rows.length) && !isWait h.entry.instr)) &&
  !(c.rows.any fun r => mine r.ctx r.seq) && !(c.multi.any fun m => mine m.entry.ctx m.entry.seq) &&
  !((c.load.toList ++ c.loadsBack).any fun l => mine l.entry.ctx l.entry.seq) && (c.ctx k).incs == 0

/-- The number of the wait bundle that a context has entered in part, if any (R75): SYN does not wait for its own words. -/
def Ctx.openSeq (x : Ctx) : Option Nat := match x.ckpts.getLast? with | some q => if q.wait then some q.seq else none | none => none

/-- Whether the word that made an event has completed (R96). -/
def Core.wordDone (c : Core) (w : EvWait) : Bool :=
  let is (k seq slot : Nat) : Bool := k == w.ctx && seq == w.seq && slot == w.slot
  !(c.queue.any (fun e => is e.ctx e.seq (slotNum e.slot)) || c.flights.any (fun f => is f.ctx f.seq f.slot) ||
    c.held.any (fun h => is h.entry.ctx h.entry.seq (slotNum h.entry.slot)) ||
    (c.ctx w.ctx).wq.any (fun h => is w.ctx h.entry.seq (slotNum h.entry.slot)) || c.rows.any (fun r => is r.ctx r.seq 3) ||
    c.multi.any (fun m => is m.entry.ctx m.entry.seq 6) ||
    (c.load.toList ++ c.loadsBack).any fun l => is l.entry.ctx l.entry.seq 3)

/-- The events of words that have completed are counted (R96). -/
def Core.settleEvents (c : Core) : Core :=
  (c.evWait.filter c.wordDone).foldl (fun c w => c.count w.src (some w.ctx) 1) { c with evWait := c.evWait.filter fun w => !c.wordDone w }

/-- The flags set in the cycle stand, and wait bundles are presented again where one has changed (R56, R152). -/
def Core.mergeFlags (c : Core) : Core :=
  let v := c.flg ||| c.flgNew
  { c with flg := v, flgNew := 0, ctxs := if v = c.flg then c.ctxs else vmap (fun x => x.wakeFrom .flags) c.ctxs }

/-- The clock and counters of a core that runs, or freewheels: its next cycle begins. -/
def Core.advance (c : Core) : Core :=
  let c1 : Core :=
    { (c.settleEvents.mergeFlags) with
      issued := 0, ports := 0, disp := false, filled := 0
      synOk := ([0, 1, 2, 3] : List Nat).foldl (fun m k => if c.complete k (c.ctx k).openSeq then m ||| BitVec.ofNat 4 (2 ^ k) else m) 0 }
  let wake := ([0, 1, 2, 3] : List Nat).any fun k => (c1.ctx k).st == .ready
  match c1.clk with
  | .freewheel _ =>
    if c.idle then { c1 with clk := .freewheel wake, stopped := c1.stopped + 1 }
    else { c1 with clk := .freewheel wake, cyc := c1.cyc + 1 }
  | .switching left k =>
    let c2 : Core := { c1 with cyc := c1.cyc + 1 }
    if 1 < left then { c2 with clk := .switching (left - 1) k }
    else if (c2.ctx k).st = .ready then c2.makeCurrent k
    else { c2 with clk := .running, cur := none }
  | .running =>
    let c2 : Core := { (match c1.cur with | some k => c1.count 1 (some k) 1 | none => c1) with cyc := c1.cyc + 1 }
    { c2 with curFor := match c2.cur with | some _ => c2.curFor + 1 | none => 0 }
  | .frozen _ _ _ => c

/-- The end of a core's cycle: it freezes on late data that a word popping a row a cycle meets (R57), or the words that pop a row a cycle go on, waits are counted,
and the next cycle begins. -/
def State.tickCore (s : State) (n : Nat) : State :=
  match (s.core n).clk with
  | .frozen _ _ _ => s
  | _ =>
    match s.awaitedMore n with
    | some id => s.freeze n id
    | none =>
      let s1 := ((s.popT n).popX n).popW n
      let s2 := s1.updCore n fun c => { c with ctxs := Vector.ofFn fun k : Fin 4 => c.countWaits k.val c.ctxs[k] }
      let s3 := ([0, 1, 2, 3] : List Nat).foldl (fun s k => s.wakeBlocked n k) s2
      s3.updCore n Core.advance

/-! ### Contexts at the end of a cycle -/

/-- The arrival of a `SYNCD` leaves once every earlier access has performed at its scope (R60, R274). -/
def State.sendArrival (s : State) (n k : Nat) : State :=
  match (s.ctx n k).syncs.find? fun w => !w.sent with
  | none => s
  | some w =>
    if !s.settled n k w.seq || !((s.ctx n k).wq.all fun h => decide (w.seq ≤ h.entry.seq)) then s
    else
      let s1 := if w.lv.toNat < 4 then s else s.release (stackOf n) (s.byCtx n k) w.lv.toNat
      if s1.writesOut n k then s1
      else
        let gone (y : SyncWait) : SyncWait := if y = w then { w with sent := true } else y
        (s1.updCtx n k fun x => { x with sync := x.sync.map gone, outer := x.outer.map gone }).sendFrom n k w.obj.peer
          (.event (.domainArrival w.obj (ctxRef n k)))

/-- Whether a message is a break notice of a killed context. -/
def isNotice (who : CtxRef) (i : Instr) : Bool :=
  match i with
  | .channelBreakNotice _ y => y.party == who
  | .domainBreakNotice _ y => y.party == who
  | _ => false

/-- Whether break notices of a context are still on their way in this package, or not yet handled in another. -/
def State.noticesOut (s : State) (n k : Nat) : Bool :=
  (s.told.any fun x => x.1 == ctxRef n k) ||
  (s.sched.any fun e => isNotice (ctxRef n k) e.2) ||
  (s.stack (stackOf n)).inject.any fun i => match i.msg with | .event j => isNotice (ctxRef n k) j | _ => false

/-- Whether every word of a context that has retired, or was killed, has completed. -/
def State.wordsDone (s : State) (n k : Nat) : Bool :=
  let c := s.core n
  let x := c.ctx k
  x.st == .retired && x.ckpts.isEmpty && x.wq.isEmpty && c.complete k none

/-- The retired stores of a killed context go home, so that they perform at system scope (R272, R329). -/
def State.flushKilled (s : State) (n k : Nat) : State :=
  if (s.ctx n k).killed && !(s.ctx n k).flushed && s.wordsDone n k then
    (s.release (stackOf n) (s.byCtx n k) 6).updCtx n k fun x => { x with flushed := true }
  else s

/-- Whether a context that has retired, or was killed, ends: every word of it has completed (R53, R155), and of a killed one every store,
command and notice too (R329, R371, R372). -/
def State.hasEnded (s : State) (n k : Nat) : Bool :=
  let x := s.ctx n k
  s.wordsDone n k && !s.writesOut n k &&
  (!x.killed || (x.flushed && !s.noticesOut n k && s.cmds.all fun c => !(c.core == n && c.ctx == k)))

/-- A KILL whose contexts have ended completes (R329). -/
def State.finishKills (s : State) : State :=
  let isOver (w : WaitCmd) : Bool :=
    match w with
    | .kill _ l => l.all fun c => !((s.ctx c.1 c.2).st == .retired && (s.ctx c.1 c.2).killed) && !(s.ctx c.1 c.2).dying
    | _ => false
  let s1 : State := { s with fw := { s.fw with waiting := s.fw.waiting.filter fun w => !isOver w } }
  (s.fw.waiting.filter isOver).foldl (fun s w => match w with | .kill q _ => s.complete q 8 0 0 [] | _ => s) s1

/-- Whether a waiting command has what it waits for: its writes acknowledged, its pages pinned, its lines of tables come (R310). -/
def State.waitOver (s : State) (w : WaitCmd) : Bool :=
  match w with
  | .writes _ _ _ _ _ _ => !s.firmOut
  | .pinning _ t num => (match s.handleOf t num with | some h => s.pinned t (fld h.desc 0 45) h.bytes | none => true)
  | .resume _ n k fpa => (s.areaLacks fpa (s.ctx n k).saveBytes).isEmpty
  | .launch _ _ _ _ _ => s.now % 64 == 0
  | .again _ => s.now % 64 == 0 && !(s.reqs.any fun r => match r.kind with | .table _ _ => true | _ => false)
  | _ => false

/-- Waiting commands that have what they wait for complete, or execute again before any other. -/
def State.finishWaits (s : State) : State :=
  (s.fw.waiting.filter s.waitOver).foldl (fun s w =>
    match w with
    | .writes q cmd st res data d => (match d with | some a => s.dropSpace a | none => s).complete q cmd st res data
    | .pinning q _ _ => s.complete q 6 0 0 []
    | .resume q n k fpa => s.resumeCmd q n k fpa
    | .launch q d0 d1 d2 d3 => s.launchCmd q d0 d1 d2 d3
    | .again i => { s with sched := (s.now, i) :: s.sched }
    | _ => s) { s with fw := { s.fw with waiting := s.fw.waiting.filter fun w => !s.waitOver w } }

/-- The host peer of a command that waits. -/
def WaitCmd.peer (w : WaitCmd) : Option (BitVec 12) :=
  match w with
  | .again i => commandPeer i
  | .writes q _ _ _ _ _ => some q.peer
  | .pinning q _ _ => some q.peer
  | .save q _ _ => some q.peer
  | .resume q _ _ _ => some q.peer
  | .launch q _ _ _ _ => some q.peer
  | .kill q _ => some q.peer
  | .cnconfig q _ _ _ _ _ => some q.peer
  | .cnsave q _ _ => some q.peer
  | .cnrestore q _ _ => some q.peer
  | .reset q => some q.peer

/-- Command cells that have come while 16 of their peer are without completion are refused twice and come again on the escape channel
(R284, R310): counted as refusals at stack 0; each is taken in its turn later. -/
def State.countRefused (s : State) : State :=
  let due := s.sched.filter fun e => decide (e.1 ≤ s.now) && (commandPeer e.2).isSome
  let late := due.filter fun e => e.1 == s.now &&
    decide (16 < (due.filter fun d => commandPeer d.2 == commandPeer e.2).length + (s.fw.waiting.filter fun w => w.peer == commandPeer e.2).length +
      (s.fw.port.filter fun p => some p.2.src == commandPeer e.2).length)
  if late.isEmpty then s else s.updStack 0 fun t => t.count 9 (2 * late.length)

/-- A KILL or a PREEMPT that met a trap in progress acts once that is over (R329). -/
def State.actLate (s : State) (n k : Nat) : State :=
  let x := s.ctx n k
  if x.trapping then s
  else if x.dying then s.killCtx n k
  else
    match x.leave with
    | some a => s.updCore n fun c => c.updCtx k fun x => { x.startSave a (c.nextDispatch k) none with leave := none }
    | none => s

/-- A killed context's store that waits for a row which no retired word brings any more is given up. -/
def State.giveUp (s : State) (n k : Nat) : State :=
  let c := s.core n
  let dead (h : Held) : Bool :=
    decide (h.rows.length < h.need) && !standing (c.ctx k).arch [(false, h.nextQueue)] [] && c.reserved k h.nextQueue == 0
  if (c.ctx k).killed && (c.ctx k).wq.any dead then s.updCtx n k fun x => { x with wq := x.wq.filter fun h => !dead h } else s

/-- What the end of a cycle does for one context: its handed-over words perform, its arrival leaves, it ends. -/
def State.tickCtx (s : State) (n k : Nat) : State :=
  let s := (s.actLate n k).giveUp n k
  let s1 := if (s.ctx n k).wq.isEmpty then s else s.pump n k ((s.ctx n k).wq.length * 4 + 4)
  let s2 := (s1.sendArrival n k).flushKilled n k
  if s2.hasEnded n k then s2.endContext n k
  else
    match (s2.ctx n k).st, (s2.ctx n k).bnd with
    | .retired, some b => s2.updCore n fun c => c.releaseLaunch b.launch
    | _, _ => s2

/-! ### Injection at the stations (R289) -/

/-- The weight of the cell at the head of a class. -/
def headWeight (l : List Inject) (cls : Nat) : Option Nat := (l.find? fun i => i.cls == cls).map (·.weight)

/-- The classes among which the station chooses, with their weights: those of weight 0 only where no other waits. -/
def contenders (l : List Inject) : List (Nat × Nat) :=
  let w := ([0, 1, 2] : List Nat).filterMap fun c => (headWeight l c).map fun x => (c, x)
  if w.any fun x => x.2 != 0 then w.filter fun x => x.2 != 0 else w

/-- `cur` of a class. -/
def curOf (v : Vector Int 3) (c : Nat) : Int := v[c % 3]'(Nat.mod_lt _ (by decide))

/-- `cur` with a class changed. -/
def addCur (v : Vector Int 3) (c : Nat) (x : Int) : Vector Int 3 := v.set (c % 3) (curOf v c + x) (Nat.mod_lt _ (by decide))

/-- The class of the largest `cur`, the lowest among equals. -/
def largest (v : Vector Int 3) : List (Nat × Nat) → Option Nat
  | [] => none
  | (c, _) :: r => match largest v r with | none => some c | some d => if curOf v d ≤ curOf v c then some c else some d

/-- The class that takes the slot, and `cur` after it. -/
def arbitrate (v : Vector Int 3) (l : List Inject) : Option (Nat × Vector Int 3) :=
  let w := contenders l
  let v1 := w.foldl (fun v x => addCur v x.1 x.2) v
  (largest v1 w).map fun c => (c, addCur v1 c (-((w.foldl (fun t x => t + x.2) 0 : Nat) : Int)))

/-- The time of a cell's way within the package from stack `t`, cc (R281): a token's leg as R202 has it, a home's part with its answers. -/
def cellTime (t : Nat) (c : RingCell) : Nat :=
  if c.ty = 12 then Config.latToken
  else ringTime c.dir c.dst.toNat (peerOf t) + (if c.ty = 1 ∨ c.ty = 5 then Config.latHome else 0)

/-- A cell injected at a station: within the package it arrives after its way, else it leaves on its rack ring (R283, R285, R375). -/
def State.deliverCell (s : State) (t : Nat) (i : Inject) : State :=
  let s1 := match i.core with | some n => s.updCore n fun c => c.count 16 none 1 | none => s
  match i.msg with
  | .cell c =>
    if i.dst / 8 = Config.pkg then
      let y := s1.onRing t c
      (s1.crossed t y).arriveCell (cellTime t y) y
    else s1.emit (.cell (s1.leaving c))
  | .event e =>
    if i.dst / 8 = Config.pkg then
      s1.after (if i.dst = peerOf t then Config.latSig else ringTime (firstTurn i.dst (peerOf t)) i.dst (peerOf t)) e
    else s1.emit (.event e)

/-- The slot of a stack's station. -/
def State.injectAt (s : State) (t : Nat) : State :=
  let x := s.stack t
  match arbitrate x.cur x.inject with
  | none => s
  | some (c, v) =>
    match x.inject.find? fun i => i.cls == c with
    | none => s
    | some i => (s.updStack t fun y => { y with cur := v, inject := y.inject.erase i }).deliverCell t i

/-! ### The end of a cycle -/

/-- Every stack's halving of its remap counters, every 2^20 bc, the commit of the lifetime record every 60 s, its sample once a second
(R396), and the training of rack ring 0 once a second while no boot host peer is present (R315). -/
def State.periodic (s : State) : State :=
  let s1 := if s.now % Config.halving = 0 then
      ([0, 1, 2, 3, 4, 5, 6, 7] : List Nat).foldl (fun s t => s.after 0 (.counterHalving t)) s else s
  let s2 := if s.now % Config.commitEvery = 0 ∧ s.fw.up = true then s1.after 0 .snapshotCommit else s1
  if s.now % Config.second = 0 ∧ s.fw.up = true then
    let s3 := s2.sampleNow
    if s.bootHost = none then s3.after 0 (.ring0Retrain none) else s3
  else s2

/-- Base cycles of the stacks' counters: two in three core cycles (R18, R318). -/
def State.countBase (s : State) : State :=
  if s.now % 3 = 0 then s else { s with stk := vmap (fun (t : Stack) => t.count 1 1) s.stk }

/-- What the base dies do in a base cycle: engines and stations (R10, R18). -/
def State.baseCycle (s : State) : State :=
  ([0, 1, 2, 3, 4, 5, 6, 7] : List Nat).foldl (fun s t => s.injectAt t) s.runEngines

/-- The end of a cycle: every core, every context, the base dies in two of three cycles, and the time. -/
def State.tick (s : State) : State :=
  let ns := s.cores.map (·.1)
  let s1 := ns.foldl (fun s n => s.tickCore n) s
  let s2 := ns.foldl (fun s n => ([0, 1, 2, 3] : List Nat).foldl (fun s k => s.tickCtx n k) s) s1
  let s3 := s2.finishKills.finishWaits.countRefused
  let s4 := if s.now % 3 = 0 then s3 else s3.baseCycle
  ({ s4.countBase with now := s4.now + 1 } : State).periodic

end Sys2Proof.Machine
end

