-- ==== Sys2Proof/Machine/Dispatch.lean ====
section
/-!
DEFINITION. The meaning of every instruction, one arm per constructor of Instr.
-/

namespace Sys2Proof.Machine

open Host (Outcome)

/-- What an instruction does to the package. -/
def exec (i : Instr) (s : State) : Host.Outcome State Fault Refusal :=
  match i with
  | .nopS x1 x2 => Sys2Proof.Machine.execNopS x1 x2 s
  | .add x1 x2 x3 x4 x5 => Sys2Proof.Machine.execAdd x1 x2 x3 x4 x5 s
  | .sub x1 x2 x3 x4 x5 => Sys2Proof.Machine.execSub x1 x2 x3 x4 x5 s
  | .mul x1 x2 x3 x4 x5 => Sys2Proof.Machine.execMul x1 x2 x3 x4 x5 s
  | .mulh x1 x2 x3 x4 x5 => Sys2Proof.Machine.execMulh x1 x2 x3 x4 x5 s
  | .mulhu x1 x2 x3 x4 x5 => Sys2Proof.Machine.execMulhu x1 x2 x3 x4 x5 s
  | .div x1 x2 x3 x4 x5 => Sys2Proof.Machine.execDiv x1 x2 x3 x4 x5 s
  | .divu x1 x2 x3 x4 x5 => Sys2Proof.Machine.execDivu x1 x2 x3 x4 x5 s
  | .rem x1 x2 x3 x4 x5 => Sys2Proof.Machine.execRem x1 x2 x3 x4 x5 s
  | .and x1 x2 x3 x4 x5 => Sys2Proof.Machine.execAnd x1 x2 x3 x4 x5 s
  | .or x1 x2 x3 x4 x5 => Sys2Proof.Machine.execOr x1 x2 x3 x4 x5 s
  | .xor x1 x2 x3 x4 x5 => Sys2Proof.Machine.execXor x1 x2 x3 x4 x5 s
  | .andn x1 x2 x3 x4 x5 => Sys2Proof.Machine.execAndn x1 x2 x3 x4 x5 s
  | .shl x1 x2 x3 x4 x5 => Sys2Proof.Machine.execShl x1 x2 x3 x4 x5 s
  | .shr x1 x2 x3 x4 x5 => Sys2Proof.Machine.execShr x1 x2 x3 x4 x5 s
  | .sar x1 x2 x3 x4 x5 => Sys2Proof.Machine.execSar x1 x2 x3 x4 x5 s
  | .min x1 x2 x3 x4 x5 => Sys2Proof.Machine.execMin x1 x2 x3 x4 x5 s
  | .max x1 x2 x3 x4 x5 => Sys2Proof.Machine.execMax x1 x2 x3 x4 x5 s
  | .minu x1 x2 x3 x4 x5 => Sys2Proof.Machine.execMinu x1 x2 x3 x4 x5 s
  | .maxu x1 x2 x3 x4 x5 => Sys2Proof.Machine.execMaxu x1 x2 x3 x4 x5 s
  | .clz x1 x2 x3 x4 => Sys2Proof.Machine.execClz x1 x2 x3 x4 s
  | .popc x1 x2 x3 x4 => Sys2Proof.Machine.execPopc x1 x2 x3 x4 s
  | .sel x1 x2 x3 x4 x5 => Sys2Proof.Machine.execSel x1 x2 x3 x4 x5 s
  | .addi x1 x2 x3 x4 x5 => Sys2Proof.Machine.execAddi x1 x2 x3 x4 x5 s
  | .andi x1 x2 x3 x4 x5 => Sys2Proof.Machine.execAndi x1 x2 x3 x4 x5 s
  | .ori x1 x2 x3 x4 x5 => Sys2Proof.Machine.execOri x1 x2 x3 x4 x5 s
  | .xori x1 x2 x3 x4 x5 => Sys2Proof.Machine.execXori x1 x2 x3 x4 x5 s
  | .shli x1 x2 x3 x4 x5 => Sys2Proof.Machine.execShli x1 x2 x3 x4 x5 s
  | .shri x1 x2 x3 x4 x5 => Sys2Proof.Machine.execShri x1 x2 x3 x4 x5 s
  | .sari x1 x2 x3 x4 x5 => Sys2Proof.Machine.execSari x1 x2 x3 x4 x5 s
  | .lim x1 x2 x3 x4 => Sys2Proof.Machine.execLim x1 x2 x3 x4 s
  | .lims x1 x2 x3 x4 => Sys2Proof.Machine.execLims x1 x2 x3 x4 s
  | .cmp x1 x2 x3 x4 x5 x6 => Sys2Proof.Machine.execCmp x1 x2 x3 x4 x5 x6 s
  | .cmpi x1 x2 x3 x4 x5 x6 => Sys2Proof.Machine.execCmpi x1 x2 x3 x4 x5 x6 s
  | .pand x1 x2 x3 x4 x5 => Sys2Proof.Machine.execPand x1 x2 x3 x4 x5 s
  | .por x1 x2 x3 x4 x5 => Sys2Proof.Machine.execPor x1 x2 x3 x4 x5 s
  | .pxor x1 x2 x3 x4 x5 => Sys2Proof.Machine.execPxor x1 x2 x3 x4 x5 s
  | .pandn x1 x2 x3 x4 x5 => Sys2Proof.Machine.execPandn x1 x2 x3 x4 x5 s
  | .pnot x1 x2 x3 x4 => Sys2Proof.Machine.execPnot x1 x2 x3 x4 s
  | .bfx x1 x2 x3 x4 x5 x6 => Sys2Proof.Machine.execBfx x1 x2 x3 x4 x5 x6 s
  | .bfi x1 x2 x3 x4 x5 x6 => Sys2Proof.Machine.execBfi x1 x2 x3 x4 x5 x6 s
  | .padr x1 x2 x3 x4 x5 => Sys2Proof.Machine.execPadr x1 x2 x3 x4 x5 s
  | .pcrel x1 x2 x3 x4 => Sys2Proof.Machine.execPcrel x1 x2 x3 x4 s
  | .br x1 x2 x3 => Sys2Proof.Machine.execBr x1 x2 x3 s
  | .call x1 x2 x3 => Sys2Proof.Machine.execCall x1 x2 x3 s
  | .jmpr x1 x2 x3 => Sys2Proof.Machine.execJmpr x1 x2 x3 s
  | .loop x1 x2 x3 x4 x5 => Sys2Proof.Machine.execLoop x1 x2 x3 x4 x5 s
  | .lexit x1 x2 x3 => Sys2Proof.Machine.execLexit x1 x2 x3 s
  | .wsel x1 x2 x3 x4 x5 x6 x7 => Sys2Proof.Machine.execWsel x1 x2 x3 x4 x5 x6 x7 s
  | .sig x1 x2 x3 x4 => Sys2Proof.Machine.execSig x1 x2 x3 x4 s
  | .syncd x1 x2 x3 => Sys2Proof.Machine.execSyncd x1 x2 x3 s
  | .yield x1 x2 => Sys2Proof.Machine.execYield x1 x2 s
  | .retire x1 x2 => Sys2Proof.Machine.execRetire x1 x2 s
  | .fork x1 x2 x3 x4 x5 => Sys2Proof.Machine.execFork x1 x2 x3 x4 x5 s
  | .csrr x1 x2 x3 x4 => Sys2Proof.Machine.execCsrr x1 x2 x3 x4 s
  | .csrw x1 x2 x3 x4 => Sys2Proof.Machine.execCsrw x1 x2 x3 x4 s
  | .csrs x1 x2 x3 x4 => Sys2Proof.Machine.execCsrs x1 x2 x3 x4 s
  | .csrc x1 x2 x3 x4 => Sys2Proof.Machine.execCsrc x1 x2 x3 x4 s
  | .trap x1 x2 x3 => Sys2Proof.Machine.execTrap x1 x2 x3 s
  | .rte x1 x2 => Sys2Proof.Machine.execRte x1 x2 s
  | .brk x1 x2 x3 => Sys2Proof.Machine.execBrk x1 x2 x3 s
  | .qcfg x1 x2 x3 x4 x5 => Sys2Proof.Machine.execQcfg x1 x2 x3 x4 x5 s
  | .qcfgKeep x1 x2 x3 x4 x5 => Sys2Proof.Machine.execQcfgKeep x1 x2 x3 x4 x5 s
  | .qrel x1 x2 x3 => Sys2Proof.Machine.execQrel x1 x2 x3 s
  | .qstat x1 x2 x3 x4 => Sys2Proof.Machine.execQstat x1 x2 x3 x4 s
  | .aset x1 x2 x3 x4 => Sys2Proof.Machine.execAset x1 x2 x3 x4 s
  | .adim x1 x2 x3 x4 x5 x6 x7 => Sys2Proof.Machine.execAdim x1 x2 x3 x4 x5 x6 x7 s
  | .aget x1 x2 x3 x4 x5 => Sys2Proof.Machine.execAget x1 x2 x3 x4 x5 s
  | .mbxr x1 x2 x3 x4 => Sys2Proof.Machine.execMbxr x1 x2 x3 x4 s
  | .mbxw x1 x2 x3 x4 => Sys2Proof.Machine.execMbxw x1 x2 x3 x4 s
  | .pcrt x1 x2 x3 x4 x5 x6 => Sys2Proof.Machine.execPcrt x1 x2 x3 x4 x5 x6 s
  | .pdel x1 x2 x3 x4 => Sys2Proof.Machine.execPdel x1 x2 x3 x4 s
  | .pprt x1 x2 x3 x4 x5 x6 => Sys2Proof.Machine.execPprt x1 x2 x3 x4 x5 x6 s
  | .chbind x1 x2 x3 x4 => Sys2Proof.Machine.execChbind x1 x2 x3 x4 s
  | .chrd x1 x2 x3 x4 => Sys2Proof.Machine.execChrd x1 x2 x3 x4 s
  | .chwr x1 x2 x3 x4 => Sys2Proof.Machine.execChwr x1 x2 x3 x4 s
  | .idle x1 x2 x3 x4 x5 x6 x7 x8 => Sys2Proof.Machine.execIdle x1 x2 x3 x4 x5 x6 x7 x8 s
  | .nopL x1 x2 => Sys2Proof.Machine.execNopL x1 x2 s
  | .lds x1 x2 x3 x4 x5 x6 x7 x8 => Sys2Proof.Machine.execLds x1 x2 x3 x4 x5 x6 x7 x8 s
  | .ldg x1 x2 x3 x4 x5 x6 x7 x8 => Sys2Proof.Machine.execLdg x1 x2 x3 x4 x5 x6 x7 x8 s
  | .ldv x1 x2 x3 x4 x5 x6 => Sys2Proof.Machine.execLdv x1 x2 x3 x4 x5 x6 s
  | .ldvt x1 x2 x3 x4 x5 x6 => Sys2Proof.Machine.execLdvt x1 x2 x3 x4 x5 x6 s
  | .lgv x1 x2 x3 x4 x5 x6 x7 => Sys2Proof.Machine.execLgv x1 x2 x3 x4 x5 x6 x7 s
  | .pld x1 x2 x3 x4 x5 x6 x7 => Sys2Proof.Machine.execPld x1 x2 x3 x4 x5 x6 x7 s
  | .tld x1 x2 x3 x4 x5 x6 x7 x8 => Sys2Proof.Machine.execTld x1 x2 x3 x4 x5 x6 x7 x8 s
  | .ldx x1 x2 x3 x4 x5 x6 x7 => Sys2Proof.Machine.execLdx x1 x2 x3 x4 x5 x6 x7 s
  | .nopT x1 x2 => Sys2Proof.Machine.execNopT x1 x2 s
  | .sts x1 x2 x3 x4 x5 x6 x7 x8 => Sys2Proof.Machine.execSts x1 x2 x3 x4 x5 x6 x7 x8 s
  | .stg x1 x2 x3 x4 x5 x6 x7 x8 => Sys2Proof.Machine.execStg x1 x2 x3 x4 x5 x6 x7 x8 s
  | .stv x1 x2 x3 x4 x5 x6 => Sys2Proof.Machine.execStv x1 x2 x3 x4 x5 x6 s
  | .sgv x1 x2 x3 x4 x5 x6 x7 x8 => Sys2Proof.Machine.execSgv x1 x2 x3 x4 x5 x6 x7 x8 s
  | .pst x1 x2 x3 x4 x5 x6 => Sys2Proof.Machine.execPst x1 x2 x3 x4 x5 x6 s
  | .tst x1 x2 x3 x4 x5 x6 x7 x8 => Sys2Proof.Machine.execTst x1 x2 x3 x4 x5 x6 x7 x8 s
  | .stx x1 x2 x3 x4 x5 x6 x7 => Sys2Proof.Machine.execStx x1 x2 x3 x4 x5 x6 x7 s
  | .atom x1 x2 x3 x4 x5 x6 x7 => Sys2Proof.Machine.execAtom x1 x2 x3 x4 x5 x6 x7 s
  | .redv x1 x2 x3 x4 x5 x6 x7 => Sys2Proof.Machine.execRedv x1 x2 x3 x4 x5 x6 x7 s
  | .sigst x1 x2 x3 x4 x5 x6 x7 => Sys2Proof.Machine.execSigst x1 x2 x3 x4 x5 x6 x7 s
  | .fence x1 x2 x3 => Sys2Proof.Machine.execFence x1 x2 x3 s
  | .fencex x1 x2 x3 x4 x5 => Sys2Proof.Machine.execFencex x1 x2 x3 x4 x5 s
  | .drain x1 x2 x3 => Sys2Proof.Machine.execDrain x1 x2 x3 s
  | .cpy x1 x2 x3 x4 x5 => Sys2Proof.Machine.execCpy x1 x2 x3 x4 x5 s
  | .coll x1 x2 x3 x4 x5 x6 x7 => Sys2Proof.Machine.execColl x1 x2 x3 x4 x5 x6 x7 s
  | .gath x1 x2 x3 x4 x5 => Sys2Proof.Machine.execGath x1 x2 x3 x4 x5 s
  | .take x1 x2 x3 x4 => Sys2Proof.Machine.execTake x1 x2 x3 x4 s
  | .arrw x1 x2 x3 x4 x5 => Sys2Proof.Machine.execArrw x1 x2 x3 x4 x5 s
  | .nopM x1 x2 => Sys2Proof.Machine.execNopM x1 x2 s
  | .mlw x1 x2 x3 x4 => Sys2Proof.Machine.execMlw x1 x2 x3 x4 s
  | .mswp x1 x2 => Sys2Proof.Machine.execMswp x1 x2 s
  | .mma x1 x2 x3 x4 => Sys2Proof.Machine.execMma x1 x2 x3 x4 s
  | .mmac x1 x2 x3 x4 x5 => Sys2Proof.Machine.execMmac x1 x2 x3 x4 x5 s
  | .mchn x1 x2 x3 => Sys2Proof.Machine.execMchn x1 x2 x3 s
  | .mdrn x1 x2 => Sys2Proof.Machine.execMdrn x1 x2 s
  | .msts x1 x2 x3 => Sys2Proof.Machine.execMsts x1 x2 x3 s
  | .mzer x1 x2 => Sys2Proof.Machine.execMzer x1 x2 s
  | .nopAb x1 x2 => Sys2Proof.Machine.execNopAb x1 x2 s
  | .vadd x1 x2 x3 x4 x5 x6 x7 x8 x9 => Sys2Proof.Machine.execVadd x1 x2 x3 x4 x5 x6 x7 x8 x9 s
  | .vsub x1 x2 x3 x4 x5 x6 x7 x8 x9 => Sys2Proof.Machine.execVsub x1 x2 x3 x4 x5 x6 x7 x8 x9 s
  | .vmul x1 x2 x3 x4 x5 x6 x7 x8 x9 => Sys2Proof.Machine.execVmul x1 x2 x3 x4 x5 x6 x7 x8 x9 s
  | .vfma x1 x2 x3 x4 x5 x6 x7 x8 x9 => Sys2Proof.Machine.execVfma x1 x2 x3 x4 x5 x6 x7 x8 x9 s
  | .vfms x1 x2 x3 x4 x5 x6 x7 x8 x9 => Sys2Proof.Machine.execVfms x1 x2 x3 x4 x5 x6 x7 x8 x9 s
  | .vmin x1 x2 x3 x4 x5 x6 x7 x8 x9 => Sys2Proof.Machine.execVmin x1 x2 x3 x4 x5 x6 x7 x8 x9 s
  | .vmax x1 x2 x3 x4 x5 x6 x7 x8 x9 => Sys2Proof.Machine.execVmax x1 x2 x3 x4 x5 x6 x7 x8 x9 s
  | .vabs x1 x2 x3 x4 x5 x6 x7 => Sys2Proof.Machine.execVabs x1 x2 x3 x4 x5 x6 x7 s
  | .vneg x1 x2 x3 x4 x5 x6 x7 => Sys2Proof.Machine.execVneg x1 x2 x3 x4 x5 x6 x7 s
  | .vcmp x1 x2 x3 x4 x5 x6 x7 x8 x9 x10 => Sys2Proof.Machine.execVcmp x1 x2 x3 x4 x5 x6 x7 x8 x9 x10 s
  | .vsel x1 x2 x3 x4 x5 x6 x7 x8 x9 => Sys2Proof.Machine.execVsel x1 x2 x3 x4 x5 x6 x7 x8 x9 s
  | .viadd x1 x2 x3 x4 x5 x6 x7 x8 x9 => Sys2Proof.Machine.execViadd x1 x2 x3 x4 x5 x6 x7 x8 x9 s
  | .visub x1 x2 x3 x4 x5 x6 x7 x8 x9 => Sys2Proof.Machine.execVisub x1 x2 x3 x4 x5 x6 x7 x8 x9 s
  | .vimul x1 x2 x3 x4 x5 x6 x7 x8 x9 => Sys2Proof.Machine.execVimul x1 x2 x3 x4 x5 x6 x7 x8 x9 s
  | .vimac x1 x2 x3 x4 x5 x6 x7 x8 x9 => Sys2Proof.Machine.execVimac x1 x2 x3 x4 x5 x6 x7 x8 x9 s
  | .vand x1 x2 x3 x4 x5 x6 x7 x8 x9 => Sys2Proof.Machine.execVand x1 x2 x3 x4 x5 x6 x7 x8 x9 s
  | .vor x1 x2 x3 x4 x5 x6 x7 x8 x9 => Sys2Proof.Machine.execVor x1 x2 x3 x4 x5 x6 x7 x8 x9 s
  | .vxor x1 x2 x3 x4 x5 x6 x7 x8 x9 => Sys2Proof.Machine.execVxor x1 x2 x3 x4 x5 x6 x7 x8 x9 s
  | .vshl x1 x2 x3 x4 x5 x6 x7 x8 x9 => Sys2Proof.Machine.execVshl x1 x2 x3 x4 x5 x6 x7 x8 x9 s
  | .vshr x1 x2 x3 x4 x5 x6 x7 x8 x9 => Sys2Proof.Machine.execVshr x1 x2 x3 x4 x5 x6 x7 x8 x9 s
  | .vsar x1 x2 x3 x4 x5 x6 x7 x8 x9 => Sys2Proof.Machine.execVsar x1 x2 x3 x4 x5 x6 x7 x8 x9 s
  | .vicmp x1 x2 x3 x4 x5 x6 x7 x8 x9 x10 => Sys2Proof.Machine.execVicmp x1 x2 x3 x4 x5 x6 x7 x8 x9 x10 s
  | .vcvt x1 x2 x3 x4 x5 x6 x7 x8 x9 x10 => Sys2Proof.Machine.execVcvt x1 x2 x3 x4 x5 x6 x7 x8 x9 x10 s
  | .vqnt x1 x2 x3 x4 x5 x6 x7 x8 x9 => Sys2Proof.Machine.execVqnt x1 x2 x3 x4 x5 x6 x7 x8 x9 s
  | .vdq x1 x2 x3 x4 x5 x6 x7 x8 x9 => Sys2Proof.Machine.execVdq x1 x2 x3 x4 x5 x6 x7 x8 x9 s
  | .vscl x1 x2 x3 x4 x5 x6 x7 x8 => Sys2Proof.Machine.execVscl x1 x2 x3 x4 x5 x6 x7 x8 s
  | .vamax x1 x2 x3 x4 x5 x6 x7 => Sys2Proof.Machine.execVamax x1 x2 x3 x4 x5 x6 x7 s
  | .vospl x1 x2 x3 x4 x5 x6 x7 x8 => Sys2Proof.Machine.execVospl x1 x2 x3 x4 x5 x6 x7 x8 s
  | .vaddsub x1 x2 x3 x4 x5 x6 x7 x8 x9 => Sys2Proof.Machine.execVaddsub x1 x2 x3 x4 x5 x6 x7 x8 x9 s
  | .vunpk3 x1 x2 x3 x4 x5 x6 x7 => Sys2Proof.Machine.execVunpk3 x1 x2 x3 x4 x5 x6 x7 s
  | .vmov x1 x2 x3 x4 x5 x6 => Sys2Proof.Machine.execVmov x1 x2 x3 x4 x5 x6 s
  | .vbcst x1 x2 x3 x4 x5 x6 x7 x8 => Sys2Proof.Machine.execVbcst x1 x2 x3 x4 x5 x6 x7 x8 s
  | .vext x1 x2 x3 x4 x5 x6 x7 x8 => Sys2Proof.Machine.execVext x1 x2 x3 x4 x5 x6 x7 x8 s
  | .vins x1 x2 x3 x4 x5 x6 x7 x8 => Sys2Proof.Machine.execVins x1 x2 x3 x4 x5 x6 x7 x8 s
  | .vperm x1 x2 x3 x4 x5 x6 x7 x8 x9 => Sys2Proof.Machine.execVperm x1 x2 x3 x4 x5 x6 x7 x8 x9 s
  | .vsld x1 x2 x3 x4 x5 x6 x7 x8 => Sys2Proof.Machine.execVsld x1 x2 x3 x4 x5 x6 x7 x8 s
  | .vzip x1 x2 x3 x4 x5 x6 x7 x8 x9 => Sys2Proof.Machine.execVzip x1 x2 x3 x4 x5 x6 x7 x8 x9 s
  | .vuzp x1 x2 x3 x4 x5 x6 x7 x8 x9 => Sys2Proof.Machine.execVuzp x1 x2 x3 x4 x5 x6 x7 x8 x9 s
  | .vrsum x1 x2 x3 x4 x5 x6 x7 => Sys2Proof.Machine.execVrsum x1 x2 x3 x4 x5 x6 x7 s
  | .vrmax x1 x2 x3 x4 x5 x6 x7 => Sys2Proof.Machine.execVrmax x1 x2 x3 x4 x5 x6 x7 s
  | .vrnd x1 x2 x3 x4 x5 x6 x7 => Sys2Proof.Machine.execVrnd x1 x2 x3 x4 x5 x6 x7 s
  | .vdrp x1 x2 x3 x4 x5 x6 x7 x8 x9 => Sys2Proof.Machine.execVdrp x1 x2 x3 x4 x5 x6 x7 x8 x9 s
  | .mand x1 x2 x3 x4 x5 => Sys2Proof.Machine.execMand x1 x2 x3 x4 x5 s
  | .mor x1 x2 x3 x4 x5 => Sys2Proof.Machine.execMor x1 x2 x3 x4 x5 s
  | .mnot x1 x2 x3 x4 => Sys2Proof.Machine.execMnot x1 x2 x3 x4 s
  | .viota x1 x2 x3 x4 x5 x6 => Sys2Proof.Machine.execViota x1 x2 x3 x4 x5 x6 s
  | .vmsk x1 x2 x3 x4 => Sys2Proof.Machine.execVmsk x1 x2 x3 x4 s
  | .nopX x1 x2 => Sys2Proof.Machine.execNopX x1 x2 s
  | .xexp2 x1 x2 x3 x4 x5 x6 x7 => Sys2Proof.Machine.execXexp2 x1 x2 x3 x4 x5 x6 x7 s
  | .xlog2 x1 x2 x3 x4 x5 x6 x7 => Sys2Proof.Machine.execXlog2 x1 x2 x3 x4 x5 x6 x7 s
  | .xrcp x1 x2 x3 x4 x5 x6 x7 => Sys2Proof.Machine.execXrcp x1 x2 x3 x4 x5 x6 x7 s
  | .xrsq x1 x2 x3 x4 x5 x6 x7 => Sys2Proof.Machine.execXrsq x1 x2 x3 x4 x5 x6 x7 s
  | .xsqrt x1 x2 x3 x4 x5 x6 x7 => Sys2Proof.Machine.execXsqrt x1 x2 x3 x4 x5 x6 x7 s
  | .xtab x1 x2 x3 x4 x5 x6 x7 x8 => Sys2Proof.Machine.execXtab x1 x2 x3 x4 x5 x6 x7 x8 s
  | .xtld x1 x2 x3 x4 x5 x6 => Sys2Proof.Machine.execXtld x1 x2 x3 x4 x5 x6 s
  | .xcvt x1 x2 x3 x4 x5 x6 x7 x8 x9 x10 => Sys2Proof.Machine.execXcvt x1 x2 x3 x4 x5 x6 x7 x8 x9 x10 s
  | .nopK x1 x2 => Sys2Proof.Machine.execNopK x1 x2 s
  | .kld x1 x2 x3 x4 x5 x6 => Sys2Proof.Machine.execKld x1 x2 x3 x4 x5 x6 s
  | .ktab x1 x2 x3 x4 x5 => Sys2Proof.Machine.execKtab x1 x2 x3 x4 x5 s
  | .kset x1 x2 x3 x4 x5 => Sys2Proof.Machine.execKset x1 x2 x3 x4 x5 s
  | .kout x1 x2 x3 x4 x5 x6 => Sys2Proof.Machine.execKout x1 x2 x3 x4 x5 x6 s
  | .kskp x1 x2 x3 x4 x5 => Sys2Proof.Machine.execKskp x1 x2 x3 x4 x5 s
  | .krng x1 x2 x3 => Sys2Proof.Machine.execKrng x1 x2 x3 s
  | .bundleDispatch x1 => Sys2Proof.Machine.execBundleDispatch x1 s
  | .bundleRetire x1 x2 => Sys2Proof.Machine.execBundleRetire x1 x2 s
  | .contextSwitch x1 => Sys2Proof.Machine.execContextSwitch x1 s
  | .waitCounterRaise x1 => Sys2Proof.Machine.execWaitCounterRaise x1 s
  | .freewheelWake x1 => Sys2Proof.Machine.execFreewheelWake x1 s
  | .waitBundlePresent x1 => Sys2Proof.Machine.execWaitBundlePresent x1 s
  | .landingPush x1 x2 => Sys2Proof.Machine.execLandingPush x1 x2 s
  | .landingLateArrival x1 x2 => Sys2Proof.Machine.execLandingLateArrival x1 x2 s
  | .freezeTimeout x1 => Sys2Proof.Machine.execFreezeTimeout x1 s
  | .globalLoadReturn x1 x2 => Sys2Proof.Machine.execGlobalLoadReturn x1 x2 s
  | .scalePush x1 x2 => Sys2Proof.Machine.execScalePush x1 x2 s
  | .translationComplete x1 x2 => Sys2Proof.Machine.execTranslationComplete x1 x2 s
  | .pagingComplete x1 => Sys2Proof.Machine.execPagingComplete x1 s
  | .planeAgentAnswer x1 x2 => Sys2Proof.Machine.execPlaneAgentAnswer x1 x2 s
  | .faultTaken x1 x2 => Sys2Proof.Machine.execFaultTaken x1 x2 s
  | .asyncTrapTaken x1 x2 => Sys2Proof.Machine.execAsyncTrapTaken x1 x2 s
  | .queueWaitLimit x1 x2 x3 => Sys2Proof.Machine.execQueueWaitLimit x1 x2 x3 s
  | .mlwStarved x1 => Sys2Proof.Machine.execMlwStarved x1 s
  | .mlwLoadStart x1 => Sys2Proof.Machine.execMlwLoadStart x1 s
  | .mlwComplete x1 => Sys2Proof.Machine.execMlwComplete x1 s
  | .matrixRowPush x1 => Sys2Proof.Machine.execMatrixRowPush x1 s
  | .tandemRowArrival x1 x2 => Sys2Proof.Machine.execTandemRowArrival x1 x2 s
  | .domainArrival x1 x2 => Sys2Proof.Machine.execDomainArrival x1 x2 s
  | .mbrChange x1 x2 x3 => Sys2Proof.Machine.execMbrChange x1 x2 x3 s
  | .domainBreakNotice x1 x2 => Sys2Proof.Machine.execDomainBreakNotice x1 x2 s
  | .channelBreakNotice x1 x2 => Sys2Proof.Machine.execChannelBreakNotice x1 x2 s
  | .brokenWait x1 x2 x3 => Sys2Proof.Machine.execBrokenWait x1 x2 x3 s
  | .probeSend x1 x2 => Sys2Proof.Machine.execProbeSend x1 x2 s
  | .probeReceive x1 x2 => Sys2Proof.Machine.execProbeReceive x1 x2 s
  | .saveComplete x1 x2 => Sys2Proof.Machine.execSaveComplete x1 x2 s
  | .sigstNotify x1 x2 => Sys2Proof.Machine.execSigstNotify x1 x2 s
  | .collHead x1 => Sys2Proof.Machine.execCollHead x1 s
  | .collComplete x1 => Sys2Proof.Machine.execCollComplete x1 s
  | .copyCommandStart x1 x2 x3 => Sys2Proof.Machine.execCopyCommandStart x1 x2 x3 s
  | .engineCommandFail x1 x2 => Sys2Proof.Machine.execEngineCommandFail x1 x2 s
  | .arrivalUpdate x1 x2 x3 => Sys2Proof.Machine.execArrivalUpdate x1 x2 x3 s
  | .takeReturn x1 => Sys2Proof.Machine.execTakeReturn x1 s
  | .networkQuiet x1 => Sys2Proof.Machine.execNetworkQuiet x1 s
  | .networkDrainTimeout x1 => Sys2Proof.Machine.execNetworkDrainTimeout x1 s
  | .readRequest x1 x2 => Sys2Proof.Machine.execReadRequest x1 x2 s
  | .readResponse x1 => Sys2Proof.Machine.execReadResponse x1 s
  | .write x1 x2 => Sys2Proof.Machine.execWrite x1 x2 s
  | .byteMaskedWrite x1 x2 => Sys2Proof.Machine.execByteMaskedWrite x1 x2 s
  | .atomicRequest x1 x2 => Sys2Proof.Machine.execAtomicRequest x1 x2 s
  | .writeResponse x1 => Sys2Proof.Machine.execWriteResponse x1 s
  | .signal x1 => Sys2Proof.Machine.execSignal x1 s
  | .channelWord x1 x2 x3 => Sys2Proof.Machine.execChannelWord x1 x2 x3 s
  | .channelAcknowledgement x1 => Sys2Proof.Machine.execChannelAcknowledgement x1 s
  | .copyOrGatherData x1 => Sys2Proof.Machine.execCopyOrGatherData x1 s
  | .collectiveChunk x1 => Sys2Proof.Machine.execCollectiveChunk x1 s
  | .broadcastData x1 x2 x3 => Sys2Proof.Machine.execBroadcastData x1 x2 x3 s
  | .takeToken x1 => Sys2Proof.Machine.execTakeToken x1 s
  | .collectiveStatus x1 => Sys2Proof.Machine.execCollectiveStatus x1 s
  | .collectiveDrop x1 => Sys2Proof.Machine.execCollectiveDrop x1 s
  | .requestReissue x1 => Sys2Proof.Machine.execRequestReissue x1 s
  | .destinationUnreachable x1 => Sys2Proof.Machine.execDestinationUnreachable x1 s
  | .counterHalving x1 => Sys2Proof.Machine.execCounterHalving x1 s
  | .swap x1 x2 x3 => Sys2Proof.Machine.execSwap x1 x2 x3 s
  | .swapComplete x1 x2 x3 => Sys2Proof.Machine.execSwapComplete x1 x2 x3 s
  | .pipelineResult x1 x2 => Sys2Proof.Machine.execPipelineResult x1 x2 s
  | .rqRefill x1 x2 => Sys2Proof.Machine.execRqRefill x1 x2 s
  | .spillSpaceAllocated x1 x2 x3 => Sys2Proof.Machine.execSpillSpaceAllocated x1 x2 x3 s
  | .snapshotCommit => Sys2Proof.Machine.execSnapshotCommit s
  | .ring0Retrain x1 => Sys2Proof.Machine.execRing0Retrain x1 s
  | .plyUpdate x1 x2 x3 => Sys2Proof.Machine.execPlyUpdate x1 x2 x3 s
  | .plyFailure x1 x2 => Sys2Proof.Machine.execPlyFailure x1 x2 s
  | .weightParityError x1 x2 => Sys2Proof.Machine.execWeightParityError x1 x2 s
  | .uncorrectableError x1 => Sys2Proof.Machine.execUncorrectableError x1 s
  | .backInvalidate x1 x2 => Sys2Proof.Machine.execBackInvalidate x1 x2 s
  | .cxlRequestFailed x1 x2 => Sys2Proof.Machine.execCxlRequestFailed x1 x2 s
  | .cxlLinkLoss x1 x2 => Sys2Proof.Machine.execCxlLinkLoss x1 x2 s
  | .cellCrcFail x1 x2 => Sys2Proof.Machine.execCellCrcFail x1 x2 s
  | .segmentTrainedUp x1 => Sys2Proof.Machine.execSegmentTrainedUp x1 s
  | .directionTimeout x1 x2 => Sys2Proof.Machine.execDirectionTimeout x1 x2 s
  | .returnedCell x1 x2 => Sys2Proof.Machine.execReturnedCell x1 x2 s
  | .escapeCellRemoved x1 x2 => Sys2Proof.Machine.execEscapeCellRemoved x1 x2 s
  | .hostStationLost x1 => Sys2Proof.Machine.execHostStationLost x1 s
  | .broadcastReturn x1 x2 => Sys2Proof.Machine.execBroadcastReturn x1 x2 s
  | .ident x1 => Sys2Proof.Machine.execIdent x1 s
  | .attest x1 x2 x3 => Sys2Proof.Machine.execAttest x1 x2 x3 s
  | .loadimg x1 x2 x3 x4 x5 x6 => Sys2Proof.Machine.execLoadimg x1 x2 x3 x4 x5 x6 s
  | .psetdesc x1 x2 x3 x4 x5 => Sys2Proof.Machine.execPsetdesc x1 x2 x3 x4 x5 s
  | .ptroot x1 x2 x3 => Sys2Proof.Machine.execPtroot x1 x2 x3 s
  | .handle x1 x2 x3 x4 x5 => Sys2Proof.Machine.execHandle x1 x2 x3 x4 x5 s
  | .launch x1 x2 x3 x4 x5 => Sys2Proof.Machine.execLaunch x1 x2 x3 x4 x5 s
  | .kill x1 x2 => Sys2Proof.Machine.execKill x1 x2 s
  | .preempt x1 x2 x3 x4 => Sys2Proof.Machine.execPreempt x1 x2 x3 x4 s
  | .resume x1 x2 x3 x4 => Sys2Proof.Machine.execResume x1 x2 x3 x4 s
  | .mbxwrite x1 x2 x3 => Sys2Proof.Machine.execMbxwrite x1 x2 x3 s
  | .flagset x1 x2 x3 => Sys2Proof.Machine.execFlagset x1 x2 x3 s
  | .cnconfig x1 x2 x3 x4 x5 x6 => Sys2Proof.Machine.execCnconfig x1 x2 x3 x4 x5 x6 s
  | .cnsave x1 x2 x3 x4 => Sys2Proof.Machine.execCnsave x1 x2 x3 x4 s
  | .cnrestore x1 x2 x3 x4 => Sys2Proof.Machine.execCnrestore x1 x2 x3 x4 s
  | .collcfg x1 x2 x3 x4 => Sys2Proof.Machine.execCollcfg x1 x2 x3 x4 s
  | .arbset x1 x2 x3 => Sys2Proof.Machine.execArbset x1 x2 x3 s
  | .ctrsel x1 x2 x3 x4 x5 => Sys2Proof.Machine.execCtrsel x1 x2 x3 x4 x5 s
  | .ctrread x1 x2 x3 x4 => Sys2Proof.Machine.execCtrread x1 x2 x3 x4 s
  | .liferead x1 x2 x3 x4 x5 => Sys2Proof.Machine.execLiferead x1 x2 x3 x4 x5 s
  | .plystat x1 x2 => Sys2Proof.Machine.execPlystat x1 x2 s
  | .powercap x1 x2 x3 x4 => Sys2Proof.Machine.execPowercap x1 x2 x3 x4 s
  | .reset x1 => Sys2Proof.Machine.execReset x1 s
  | .powerOn => Sys2Proof.Machine.execPowerOn s
  | .lifetimeSample x1 x2 => Sys2Proof.Machine.execLifetimeSample x1 x2 s
  | .powerLoss => Sys2Proof.Machine.execPowerLoss s
  | .correctedError x1 x2 => Sys2Proof.Machine.execCorrectedError x1 x2 s
  | .droopEvent x1 x2 => Sys2Proof.Machine.execDroopEvent x1 x2 s
  | .portRetrained x1 x2 => Sys2Proof.Machine.execPortRetrained x1 x2 s

end Sys2Proof.Machine
end

