-- ==== Sys2Proof/Machine/Place.lean ====
section
/-!
DEFINITION. How one word of the opcode table is put where the machine runs it next (log 4): into a bundle of its own at the
program counter of a current context, and a word of an engine's slot also through dispatch into its issue queue.
-/

namespace Sys2Proof.Machine

/-- The S word that a dispatch left is taken up. -/
def State.noSword (s : State) : State := { s with act := { s.act with sword := none } }

/-- The slot number of a word's map; A takes the words of both vector engines. -/
def slotOfMap (sm : SlotMap) : Nat :=
  match sm with | .s => 0 | .l => 1 | .t => 2 | .m => 3 | .v => 4 | .x => 6 | .k => 7 | .hdr => 0

/-- The header of a bundle of one word: its presence bit, and the read ports that it needs (R66, R76). -/
def headerFor (slot : Nat) (i : Instr) : Word :=
  BitVec.ofNat 32 (2 ^ slot + (List.range (info i).portCount).foldl (fun t p => t + slot * 2 ^ (12 + 3 * p)) 0)

/-- The bytes of the bundle: header and word, or the header alone. -/
def bundleFor (w : Nat) : List Byte × Bool :=
  match decodeFirst slotOrder w with
  | some (.hdr, _) => (leBytes 4 w ++ leBytes 4 0, false)
  | some (sm, i) => (leBytes 4 (headerFor (slotOfMap sm) i).toNat ++ leBytes 4 w, sm != .s)
  | none => (leBytes 4 1 ++ leBytes 4 w, false)

/-! ### A launched context (R32, R35, R23, R49) -/

/-- The tables that map page 0 of address space 0: three directories and the leaf at 0x10000, the plane frame vector at
0x20000, the plane set table at 0x24000; plane 0 is a byte buffer whose frame lies at 0x30000. -/
def placedTables (m : List Host.Cell) : List Host.Cell :=
  let m := writeBytes 0x10000 (leBytes 8 (0x14000 + 1)) m
  let m := writeBytes 0x14000 (leBytes 8 (0x18000 + 1)) m
  let m := writeBytes 0x18000 (leBytes 8 (0x1C000 + 1)) m
  let m := writeBytes 0x1C000 (leBytes 16 (0x20000 / 256 * 2 ^ 64 + 65536 * 2 ^ 13 + 1)) m
  let m := writeBytes 0x20000 (leBytes 16 (7 * 2 ^ 57 + 0x30000)) m
  writeBytes 0x24000 (leBytes 16 (3 * 2 ^ 9 + 4 * 2 + 1)) m

/-- What the launch of the placed context gave it: launch 0, one instance of one context, every flag, 1 MiB of pool. -/
def placedBind : Bind :=
  { launch := 0, inst := 0, icount := 1, iix := 0, cpi := 1, asn := 0, nte := 0, flags := BitVec.allOnes 64, pool := 4,
    prio := 0, pre := false, shape := 0, fset := none, host := 0 }

/-- Context 0 of core 0 is current, at address 0 of the placed address space. -/
def State.placeContext (s : State) : State :=
  let s1 : State := { s with mem := placedTables s.mem, spaces := assocSet 0 { root := some 0x10000, base := some 0x24000 } s.spaces }
  s1.updCore 0 fun c =>
    { c with clk := .running, cur := some 0, last := 0, disp := false }.updCtx 0 fun x =>
      { Ctx.reset with st := .current, bnd := some placedBind, seq := x.seq }

/-! ### Where the next bundle is fetched -/

/-- The core and context whose bundle is presented next, and where its two words lie. -/
def State.fetchPoint (s : State) : Option (Nat × Nat × Nat) :=
  s.cores.findSome? fun c =>
    match c.2.clk, c.2.cur with
    | .running, some k =>
      let x := c.2.ctx k
      let pc := x.arch.pc
      (match s.translate x.asn pc true false, s.translate x.asn (pc + 4) true false with
       | .loc a _ 8, .loc b _ 8 =>
         if x.st = .current ∧ ownFpa a = true ∧ b = a + 4 ∧ pc.toNat % 64 + 8 ≤ 64 ∧ pc.toNat % 4 = 0 then some (c.1, k, a) else none
       | _, _ => none)
    | _, _ => none

/-- The bytes of a bundle at the fetch point; without one, at that of a placed context. -/
def State.placeBytes (s : State) (l : List Byte) : State :=
  match s.fetchPoint with
  | some (n, _, a) => (s.homePut a l).updCore n fun c => { c with disp := false }
  | none => s.placeContext.homePut 0x30000 l

/-- A word placed. A word of slots 1 to 7 has also been dispatched, and a cycle has passed, so that the next step issues
it (R69). -/
def State.placeWord (s : State) (_nbits w : Nat) : State :=
  let (l, engine) := bundleFor w
  let s1 := s.placeBytes l
  if engine then
    let n := match s.fetchPoint with | some (n, _, _) => n | none => 0
    (s1.present n).rest.tick
  else s1

end Sys2Proof.Machine
end

