-- ==== Sys2Proof/Machine/Step.lean ====
section
/-!
DEFINITION. One step of the package: the next event of the current cycle, or the end of the cycle (log 4, log 7).
-/

namespace Sys2Proof.Machine

open Host (Outcome)

/-- An instruction runs; the S word that a dispatch leaves runs in the same step. -/
def run (i : Instr) (s : State) : Host.Outcome State Fault Refusal :=
  match exec i s with
  | .next t =>
    (match t.act.sword with
     | none => .next t.rest
     | some w =>
       match exec w t.noSword with
       | .next u => .next (t.noSword.afterSword u)
       | .fault r => .fault r
       | .refused r => .refused r)
  | .fault r => .fault r
  | .refused r => .refused r

/-- One step. -/
def step (s : State) : Host.Outcome State Fault Refusal :=
  match nextMove s with
  | .sched t i => run i (s.take t i)
  | .event i => run i s
  | .issue n e => run e.instr (s.issueStart n e)
  | .freeze n id => .next (s.freeze n id)
  | .command t c => (match runCommand c (s.takeCell t c) with | .next u => .next u.rest | .fault r => .fault r | .refused r => .refused r)
  | .tick => .next s.tick

/-- `s` with the table word `w` placed so that the next step runs it. -/
def State.withFetchWord (s : State) (nbits w : Nat) : State := s.placeWord nbits w

end Sys2Proof.Machine
end

