-- ==== Sys2Proof/Safety.lean ====
section
/-!
DEFINITION. What counts as a safe run, and the terms in which claims are stated: what a step leaves alone, and the
results that the spec's tables give the scalar words.
-/

namespace Sys2Proof

open Machine

/-- The machine's invariant on memory: its canonical form (addresses rising, no cell that reads as an unlisted one). -/
def MemInv (s : State) : Prop := Memory.wf s.mem = true

/-- Every step from `s` on, for `n` steps, goes on. -/
def SafeFor : Nat → State → Prop
  | 0, _ => True
  | n + 1, s => ∃ t, step s = .next t ∧ SafeFor n t

/-! ### Frames -/

/-- Every byte of memory reads as before. -/
def SameMem (s t : State) : Prop := ∀ a, readByte a t.mem = readByte a s.mem

/-- Nothing of the package but core `n` differs. -/
def OnlyCore (n : Nat) (s t : State) : Prop :=
  t = { s with cores := t.cores } ∧ SameMem s t ∧ ∀ m, m ≠ n → t.core m = s.core m

/-- Nothing of the package but context `k` of core `n` differs. -/
def OnlyCtx (n k : Nat) (s t : State) : Prop :=
  OnlyCore n s t ∧ t.core n = { s.core n with ctxs := (t.core n).ctxs } ∧
  ∀ j, j % 4 ≠ k % 4 → t.ctx n j = s.ctx n j

/-- Nothing differs but the registers of context `k` of core `n`, as bundle `seq` changes them: the live ones and those in
the checkpoints of the bundles after it (R320). -/
def OnlyRegs (n k seq : Nat) (s t : State) : Prop :=
  OnlyCtx n k s t ∧ t.ctx n k = { s.ctx n k with arch := (t.ctx n k).arch, ckpts := (t.ctx n k).ckpts } ∧
  ∀ q ∈ (t.ctx n k).ckpts, q.seq ≤ seq → q ∈ (s.ctx n k).ckpts

/-- As `OnlyRegs`, for the running word. -/
def OnlyMine (s t : State) : Prop := OnlyRegs s.act.core s.act.ctx s.act.entry.seq s t

/-- Nothing of the registers but `sD` differs, which holds `v`; a write of `s0` is discarded (R138). -/
def WritesScalar (d : BitVec 5) (v : Dword) (a b : Arch) : Prop :=
  (∀ r, b.getS r = if r = d ∧ d ≠ 0 then v else a.getS r) ∧ b = { a with sr := b.sr }

/-- Nothing of the registers but `pD` differs, which holds `v`; a write of `p0` is discarded (R138). -/
def WritesPred (d : BitVec 4) (v : Bool) (a b : Arch) : Prop :=
  (∀ r, b.getP r = if r = d ∧ d ≠ 0 then v else a.getP r) ∧ b = { a with pr := b.pr }

/-- Nothing but the running context's registers differs, and its next bundle dispatches no earlier than three cycles on. -/
def MovesOn (s t : State) : Prop :=
  OnlyCtx s.act.core s.act.ctx s t ∧
  t.me = { s.me with arch := t.me.arch, ckpts := t.me.ckpts, from_ := s.myCore.cyc + 3 } ∧
  ∀ q ∈ t.me.ckpts, q.seq ≤ s.act.entry.seq → q ∈ s.me.ckpts

/-- The running word detects a fault of a cause in a slot, with the header in bits 63:32 and the word in bits 31:0 of its
`TRAPVAL` (R322), and nothing else happens. -/
def RaisesWord (cause slot : Nat) (s t : State) : Prop :=
  OnlyCtx s.act.core s.act.ctx s t ∧
  t.me = { s.me with faults := s.me.faults ++
    [{ seq := s.act.entry.seq, slot := slot, cause := cause, val := (s.act.entry.hdr ++ s.act.entry.raw : BitVec 64) }] }

/-- Messages join the station of stack `t0`, behind those that wait there, and nothing else of the package changes but,
it may be, cores (R289). -/
def Injects (t0 : Nat) (s t : State) (l : List Inject) : Prop :=
  t = { s with stk := t.stk, cores := t.cores } ∧ SameMem s t ∧
  t.stack t0 = { s.stack t0 with inject := (s.stack t0).inject ++ l } ∧ ∀ u, u % 8 ≠ t0 % 8 → t.stack u = s.stack u

/-- Nothing of the package differs but the running context and its core's event counters. -/
def BlocksMe (s t : State) : Prop :=
  OnlyCore s.act.core s t ∧ t.myCore = { s.myCore with evcnt := t.myCore.evcnt, ctxs := t.myCore.ctxs } ∧
  ∀ j, j % 4 ≠ s.act.ctx % 4 → t.ctx s.act.core j = s.ctx s.act.core j

/-- The running context is blocked for a plane, its request stands for the paging agent, and the agent's answer is
scheduled; nothing else differs but the core's event counters and the context's checkpoints. -/
def AsksAgent (op psi q : Nat) (spec primer : Dword) (s t : State) : Prop :=
  t = { s with cores := t.cores, sched := t.sched } ∧ SameMem s t ∧ (∀ m, m ≠ s.act.core → t.core m = s.core m) ∧
  t.myCore = { s.myCore with evcnt := t.myCore.evcnt, ctxs := t.myCore.ctxs } ∧
  (∀ j, j % 4 ≠ s.act.ctx % 4 → t.ctx s.act.core j = s.ctx s.act.core j) ∧
  t.me = { s.me with st := .blocked .plane, probe := 0, on := none, ckpts := t.me.ckpts
                     agent := some (.plane op psi q spec primer s.act.entry.seq) } ∧
  (∃ d, (s.now + d, Instr.planeAgentAnswer s.act.core s.act.ctx) ∈ t.sched) ∧ ∀ x ∈ s.sched, x ∈ t.sched

/-- The slots that a header says are present (R66). -/
def presentSlots (hdr : Word) : Nat := ((List.range 8).filter fun j => hdr.getLsbD j).length

/-- The registers after `TRAP` or `BRK` (R147, R148). -/
def requested (s : State) (cause : Nat) (code : BitVec 17) : Arch :=
  { s.arch with
    csr := { s.arch.csr with
      trappc := s.act.entry.pc + 4 + 4 * BitVec.ofNat 64 (presentSlots s.act.entry.hdr)
      trapcause := BitVec.ofNat 64 cause, trapval := code.setWidth 64 }
    pc := s.arch.csr.trapvec, loops := [], skip := 0, grp := { n := 0, accs := [] } }

/-- Whether a loop level is open in the running context. -/
def levelOpen (s : State) (v : BitVec 3) : Bool := s.arch.loops.any fun r => r.lv == v

/-- Whether a body of `len` bundles fits what is left of the innermost open body (R342). -/
def bodyFits (s : State) (len : Nat) : Bool :=
  match s.arch.loops with
  | [] => true
  | r :: _ => decide (r.pos + len ≤ r.len)

/-- Stream `n` of the running context. -/
def streamOf (s : State) (n : BitVec 4) : Stream := s.arch.str[n.toNat]'n.isLt

/-- One more flight stands behind those of core `n`, which counts it; no other part of the core differs but its contexts. -/
def AddsFlight (n : Nat) (f : Flight) (s t : State) : Prop :=
  OnlyCore n s t ∧
  t.core n = { s.core n with flights := (s.core n).flights ++ [f], nextId := (s.core n).nextId + 1, ctxs := (t.core n).ctxs }

/-! ### Words of the engines -/

/-- A word passes the checks that are made of every engine's words at issue (R332, R339): it breaks no limit, names no
queue of depth 0, and `rows` rows fit each destination. -/
def Clean (s : State) (i : Instr) (rows : Nat) : Prop :=
  limitBad s.arch i = false ∧ depthZero s.arch (info i) = false ∧ tooMany s.arch (info i) rows = false

/-- Lane `k` of `n` bits of a row (R79, R223). -/
def lane (n k : Nat) (x : Row) : Nat := x.toNat / 2 ^ (n * k) % 2 ^ n

/-- The running word leaves results due, numbered in order from the core's next number, each with its cycles after issue,
its acquire scope and what it does; nothing else of the core differs but its contexts, and only the running one of these. -/
def Issues (s t : State) (l : List (Nat × Option (BitVec 3) × FKind)) : Prop :=
  SameMem s t ∧ (∀ m, m ≠ s.act.core → t.core m = s.core m) ∧
  (∀ j, j % 4 ≠ s.act.ctx % 4 → t.ctx s.act.core j = s.ctx s.act.core j) ∧
  t.myCore = { s.myCore with
    ctxs := t.myCore.ctxs, nextId := s.myCore.nextId + l.length
    flights := s.myCore.flights ++ l.mapIdx fun j x =>
      { id := s.myCore.nextId + j, ctx := s.act.ctx, seq := s.act.entry.seq, slot := slotNum s.act.entry.slot
        due := s.myCore.cyc + x.1, quiet := s.act.entry.quiet, instr := s.act.entry.instr, acq := x.2.1, kind := x.2.2 } }

/-- The checks of flight `id` of the running core are scheduled, and what was scheduled still is. -/
def ChecksAt (s t : State) (id : Nat) : Prop :=
  (∃ d, (s.now + d, Instr.translationComplete s.act.core id) ∈ t.sched) ∧ ∀ x ∈ s.sched, x ∈ t.sched

/-- The cycles after issue and the queues of the rows that an A, B or X word pushes (R222 to R250); `VDQ` with its scales in
the row. -/
def pushTable (i : Instr) : Option (List (Nat × BitVec 5)) :=
  match i with
  | .vadd _ _ _ _ d _ _ _ _ => some [(4, d)] | .vsub _ _ _ _ d _ _ _ _ => some [(4, d)]
  | .vmul _ _ _ _ d _ _ _ _ => some [(4, d)] | .vfma _ _ _ _ d _ _ _ _ => some [(4, d)]
  | .vfms _ _ _ _ d _ _ _ _ => some [(4, d)] | .vmin _ _ _ _ d _ _ _ _ => some [(2, d)]
  | .vmax _ _ _ _ d _ _ _ _ => some [(2, d)] | .vabs _ _ _ _ d _ _ => some [(2, d)]
  | .vneg _ _ _ _ d _ _ => some [(2, d)] | .vsel _ _ _ _ d _ _ _ _ => some [(2, d)]
  | .viadd _ _ _ _ d _ _ _ _ => some [(2, d)] | .visub _ _ _ _ d _ _ _ _ => some [(2, d)]
  | .vimul _ _ _ _ d _ _ _ _ => some [(2, d)] | .vimac _ _ _ _ d _ _ _ _ => some [(2, d)]
  | .vand _ _ _ _ d _ _ _ _ => some [(2, d)] | .vor _ _ _ _ d _ _ _ _ => some [(2, d)]
  | .vxor _ _ _ _ d _ _ _ _ => some [(2, d)] | .vshl _ _ _ _ d _ _ _ _ => some [(2, d)]
  | .vshr _ _ _ _ d _ _ _ _ => some [(2, d)] | .vsar _ _ _ _ d _ _ _ _ => some [(2, d)]
  | .vcvt _ _ _ _ d _ _ _ _ _ => some [(3, d)] | .vqnt _ _ _ _ d _ _ _ _ => some [(3, d)]
  | .vdq _ _ _ _ d _ _ _ b => if b = 30 then some [(3, d)] else none
  | .vscl _ _ _ _ d _ _ _ => some [(3, d)] | .vamax _ _ _ _ d _ _ => some [(3, d)]
  | .vospl _ _ _ _ d _ _ _ => some [(3, d), (4, d + 1)] | .vaddsub _ _ _ _ d _ _ _ _ => some [(2, d)]
  | .vunpk3 _ _ _ _ d _ _ => some [(3, d)] | .vmov _ _ _ d _ _ => some [(2, d)]
  | .vbcst _ _ _ _ d _ _ _ => some [(2, d)] | .vext _ _ _ _ d _ _ _ => some [(2, d)]
  | .vins _ _ _ _ d _ _ _ => some [(2, d)] | .vperm _ _ _ _ d _ _ _ _ => some [(2, d)]
  | .vsld _ _ _ _ d _ _ _ => some [(2, d)] | .vzip _ _ _ _ d _ _ _ _ => some [(2, d), (3, d)]
  | .vuzp _ _ _ _ d _ _ _ _ => some [(2, d), (3, d)] | .vrsum _ _ _ _ d _ _ => some [(4, d)]
  | .vrmax _ _ _ _ d _ _ => some [(4, d)] | .vrnd _ _ _ _ d _ _ => some [(3, d)]
  | .vdrp _ _ _ _ d _ _ _ _ => some [(3, d)] | .viota _ _ _ _ d _ => some [(2, d)]
  | .xexp2 _ _ _ _ d _ _ => some [(12, d)] | .xlog2 _ _ _ _ d _ _ => some [(12, d)] | .xrcp _ _ _ _ d _ _ => some [(12, d)]
  | .xrsq _ _ _ _ d _ _ => some [(12, d)] | .xsqrt _ _ _ _ d _ _ => some [(12, d)] | .xtab _ _ _ _ d _ _ _ => some [(12, d)]
  | .xcvt _ _ _ _ d _ _ _ _ _ => some [(12, d)]
  | _ => none

/-- The code that `VMIN` or `VMAX` (`great`) returns of two (R230): −0 counts below +0, a NaN loses to a number, two NaNs give the
canonical NaN, and an operand that `FPC` flushes is returned as the zero of its sign. -/
def pickCode (great : Bool) (f : Fmt) (fpc : Dword) (a b : Nat) : Nat :=
  let x := operand fpc f a
  let y := operand fpc f b
  let below (u v : Val) := if u.eq v then u.sign && !v.sign else u.lt v
  let code (c : Nat) :=
    if fpcFlush fpc f && subnormal f c then c / 2 ^ (fmtBits f - 1) % 2 * 2 ^ (fmtBits f - 1) else laneCode f c
  if x.isNan && y.isNan then canonNan f
  else if x.isNan then code b
  else if y.isNan then code a
  else if (if great then below x y else below y x) then code b else code a

/-- The sign of a code inverted by `VNEG`, cleared by `VABS` (R230): the zero and the NaN of a tapered type stay. -/
def signOf (inv : Bool) (f : Fmt) (c : Nat) : Nat :=
  let sb := if f = .tf6 then 32 else 2 ^ (fmtBits f - 1)
  let c := laneCode f c
  if (f = .tf8 ∨ f = .tf6) ∧ (c = 0 ∨ c = sb) then c
  else if inv ∧ c < sb then c + sb else c % sb

/-- A conversion of one lane (R103, R234); between integers of one size it saturates, which is the model's choice (log 66). -/
def converted (fpc : Dword) (sx dx : BitVec 1) (st dt : BitVec 3) (c : Nat) : Nat × Flags :=
  let lo := (intRange dt).1
  let hi := (intRange dt).2
  if sx = 0 ∧ dx = 0 then round (fmtOf dt) fpc (operand fpc (fmtOf st) c)
  else if sx = 0 then toInt dt (fpcRm fpc) (operand fpc (fmtOf st) c)
  else if dx = 0 then round (fmtOf dt) fpc (Val.ofInt (intVal st c))
  else (intCode (intBits dt) (max lo (min hi (intVal st c))), if intVal st c < lo ∨ hi < intVal st c then flSAT else 0)

/-- A value multiplied by another and rounded, with the flags of both steps (R101). -/
def mulRound (f : Fmt) (fpc : Dword) (x y : Val) : Nat × Flags :=
  ((round f fpc (x.mul y).1).1, (x.mul y).2 ||| (round f fpc (x.mul y).1).2)

/-- What the A, B and X words push, row by row, lane by lane with their flags, from their sources and scale queues; the words whose
rows other statements give are left out (R229 to R250). A `VQNT` whose B row is no finite number follows log 65. -/
def pushedRows (i : Instr) (s : State) : Option (List (Row × Flags)) :=
  let f := s.act.entry.fpc
  let v := s.srcs (info i).vsrc (info i).width
  let x := v.1.getD 0 0
  let y := v.1.getD 1 0
  let z := v.1.getD 2 0
  let top (q : BitVec 3) : KEntry := ((s.arch.beginWord (slotNum s.act.entry.slot) s.act.entry.run).kqueue q).top
  let row (lb n : Nat) (g : Nat → Nat × Flags) : Row × Flags := packLanes lb ((List.range n).map g)
  let fl (w : BitVec 2) (t : BitVec 3) (g : Nat → Nat × Flags) := some [row (fmtBits (fmtOf t)) (rowWidth w / fmtBits (fmtOf t)) g]
  let int (w : BitVec 2) (t : BitVec 3) (g : Nat → Nat) := row (intBits t) (rowWidth w / intBits t) fun e => (g e, 0)
  let fx (t : BitVec 3) (e : Nat) (u : Row) := lane (fmtBits (fmtOf t)) e u
  let fun_ (w : BitVec 2) (t : BitVec 3) (g : Val → Val × Flags) := fl w t fun e =>
    let r := g (operand f (fmtOf t) (fx t e x))
    ((round (fmtOf t) f r.1).1, r.2 ||| (round (fmtOf t) f r.1).2)
  let vals (lb : Nat) (m : Fmt) (n : Nat) := (List.range n).map fun e => operand f m (lane lb e x)
  match i with
  | .vmin _ _ w t _ _ _ _ _ => fl w t fun e => (pickCode false (fmtOf t) f (fx t e x) (fx t e y), 0)
  | .vmax _ _ w t _ _ _ _ _ => fl w t fun e => (pickCode true (fmtOf t) f (fx t e x) (fx t e y), 0)
  | .vabs _ _ w t _ _ _ => fl w t fun e => (signOf false (fmtOf t) (fx t e x), 0)
  | .vneg _ _ w t _ _ _ => fl w t fun e => (signOf true (fmtOf t) (fx t e x), 0)
  | .vsel _ _ w t _ _ _ _ _ => fl w t fun e => (fx t e (if (s.arch.masks[0]'(by decide)).getLsbD e then x else y), 0)
  | .vimac _ _ w t _ _ _ _ _ => some [int w t fun e => (lane (intBits t) e z + lane (intBits t) e x * lane (intBits t) e y) % 2 ^ intBits t]
  | .vcvt _ _ w t _ _ _ st p q => some [row (typeBits q t) (rowWidth w / max (typeBits p st) (typeBits q t)) fun e =>
      converted f p q st t (lane (typeBits p st) e x)]
  | .xcvt _ _ w t _ _ _ st p q => some [row (typeBits q t) (rowWidth w / max (typeBits p st) (typeBits q t)) fun e =>
      converted f p q st t (lane (typeBits p st) e x)]
  | .vqnt _ _ w t _ _ _ _ b =>
    let n := rowWidth w / 32
    let a := vals 32 .f32 n
    if b = 30 then
      let l := (List.range (max 1 (n / 32))).map fun k =>
        let blk := (a.drop (32 * k)).take (min n 32)
        quantSet t f (amax blk).1 (amax blk).2.1 blk
      some [packLanes 8 ((l.map (·.1)).flatten ++ l.map fun q => (q.2, 0))]
    else
      let big := match operand f .f32 (lane 32 0 y) with | .fin _ m e => (m, e) | _ => (0, 0)
      let q := quantSet t f big (y.getLsbD 32) a
      some [packLanes 8 (q.1 ++ [(q.2, 0)])]
  | .vdq _ _ w t _ _ _ _ _ => some [row 32 (rowWidth w / 32) fun e =>
      mulRound .f32 f (if t = 0 then Val.ofInt (intVal 2 (lane 8 e x)) else operand f (fmtOf t) (lane 8 e x))
        (decodeE8 (lane 8 (rowWidth w / 32) x))]
  | .vscl _ _ w ks _ _ _ q => some [row 32 (rowWidth w / 32) fun e =>
      let r := mulRound .f32 f (operand f .f32 (lane 32 e x)) (operand f .f32 ((top q).get e))
      let u := mulRound .f32 f (operand f .f32 r.1) (decodeE8 ((top ks).get 0 % 256))
      (u.1, r.2 ||| u.2)]
  | .vamax _ _ w t _ _ _ =>
    let m := amax (vals (fmtBits (fmtOf t)) (fmtOf t) (rowWidth w / fmtBits (fmtOf t)))
    some [(BitVec.ofNat 2048 (roundNe .f32 (.fin false m.1.1 m.1.2) + (if m.2.1 then 2 ^ 32 else 0) + (if m.2.2 then 2 ^ 33 else 0)), 0)]
  | .vospl _ _ w t _ _ _ q =>
    let n := rowWidth w / fmtBits (fmtOf t)
    let idx := (List.range (min (top q).count 16)).map fun k => (top q).get k % 256
    some [row (fmtBits (fmtOf t)) n fun e => (if e ∈ idx then 0 else laneCode (fmtOf t) (fx t e x), 0),
      packLanes 16 (idx.map fun k => if k < n then round .bf16 f (operand f (fmtOf t) (fx t k x)) else (0, 0))]
  | .vaddsub _ _ w t _ _ _ _ _ => some [int w t fun e =>
      let u := intVal 2 (lane 8 e x)
      let r := intVal 2 (lane 8 e y)
      let c : Int := lane (intBits t) e z
      intCode (intBits t) (if 0 < r then c + u else if r < 0 then c - u else c)]
  | .vunpk3 _ _ w t _ _ _ =>
    let n := rowWidth w / intBits t
    some [((int w t fun e => intCode (intBits t) ((unpack3 (lane 8 (e / 5) x)).getD (e % 5) 0)).1,
      if ∃ k, k < (n + 4) / 5 ∧ 243 ≤ lane 8 k x then flNV else 0)]
  | .vins _ _ w t _ _ _ k => some [int w t fun e => if e = k.toNat then lane (intBits t) 0 x else lane (intBits t) e y]
  | .vzip _ _ w t _ _ _ _ _ =>
    let half (o : Nat) := int w t fun e => lane (intBits t) (o + e / 2) (if e % 2 = 0 then x else y)
    some [half 0, half (rowWidth w / intBits t / 2)]
  | .vuzp _ _ w t _ _ _ _ _ =>
    let n := rowWidth w / intBits t
    let every (o : Nat) := int w t fun e => if 2 * e + o < n then lane (intBits t) (2 * e + o) x else lane (intBits t) (2 * e + o - n) y
    some [every 0, every 1]
  | .vrsum _ _ w t _ _ _ =>
    let l := (List.range (rowWidth w / fmtBits (fmtOf t))).map fun e => (roundNe .f32 (operand f (fmtOf t) (fx t e x)), (0 : Flags))
    some [packLanes 32 ((treeSum f 8 l).take 1)]
  | .vrmax _ _ w t _ _ _ =>
    let l := (List.range (rowWidth w / fmtBits (fmtOf t))).map fun e => roundNe .f32 (operand f (fmtOf t) (fx t e x))
    some [(BitVec.ofNat 2048 (l.foldl (pickCode true .f32 f) (canonNan .f32) % 2 ^ 32), 0)]
  | .vrnd _ _ w t _ _ _ => fl w t fun e =>
      match operand f (fmtOf t) (fx t e x) with
      | .inf _ => (fx t e x, 0)
      | u => ((round (fmtOf t) f (u.integral (fpcRm f))).1, 0)
  | .vdrp _ _ w t _ _ _ _ _ =>
    let r := (v.2.src false 29 2048).1
    fl w t fun e =>
      if (if rowWidth w / fmtBits (fmtOf t) ≤ 128 then lane 16 e r else 256 * lane 8 e r) < lane 16 0 y then
        mulRound (fmtOf t) f (operand f (fmtOf t) (fx t e x)) (operand f .f32 (lane 32 1 y))
      else (0, 0)
  | .xexp2 _ _ w t _ _ _ => fun_ w t Val.exp2
  | .xlog2 _ _ w t _ _ _ => fun_ w t Val.log2
  | .xrcp _ _ w t _ _ _ => fun_ w t Val.rcp
  | .xrsq _ _ w t _ _ _ => fun_ w t Val.rsqrt
  | .xsqrt _ _ w t _ _ _ => fun_ w t Val.sqrt
  | .xtab _ _ w t _ _ _ n => fl w t fun e => round (fmtOf t) f ((s.arch.tb[n.toNat]'n.isLt).eval (decode (fmtOf t) (fx t e x)))
  | _ => none

/-- The integer and logical lane words (R233): width, type, destination, sources, and the lane of the result from the lane
size and the lanes of both sources. -/
def intLane (i : Instr) :
    Option (BitVec 2 × BitVec 3 × BitVec 5 × (Bool × BitVec 5) × (Bool × BitVec 5) × (Nat → Nat → Nat → Nat)) :=
  match i with
  | .viadd _ _ w t d j a k b => some (w, t, d, (j == 1, a), (k == 1, b), fun n x y => (x + y) % 2 ^ n)
  | .visub _ _ w t d j a k b => some (w, t, d, (j == 1, a), (k == 1, b), fun n x y => (((x : Int) - y) % (2 ^ n : Nat)).toNat)
  | .vimul _ _ w t d j a k b => some (w, t, d, (j == 1, a), (k == 1, b), fun n x y => x * y % 2 ^ n)
  | .vand _ _ w t d j a k b => some (w, t, d, (j == 1, a), (k == 1, b), fun _ x y => x &&& y)
  | .vor _ _ w t d j a k b => some (w, t, d, (j == 1, a), (k == 1, b), fun _ x y => x ||| y)
  | .vxor _ _ w t d j a k b => some (w, t, d, (j == 1, a), (k == 1, b), fun _ x y => x ^^^ y)
  | .vshl _ _ w t d j a k b => some (w, t, d, (j == 1, a), (k == 1, b), fun n x y => if n ≤ y then 0 else x * 2 ^ y % 2 ^ n)
  | .vshr _ _ w t d j a k b => some (w, t, d, (j == 1, a), (k == 1, b), fun n x y => if n ≤ y then 0 else x / 2 ^ y)
  | .vsar _ _ w t d j a k b => some (w, t, d, (j == 1, a), (k == 1, b), fun n x y =>
      (((BitVec.ofNat n x).sshiftRight (min y n)).toNat))
  | _ => none

/-- The condition of `VICMP` between two lanes (R228, R231): 0 `eq`, 1 `ne`, 2 `lt`, 3 `le`. -/
def intCond (c : BitVec 2) (x y : Int) : Bool :=
  match c.toNat with | 0 => decide (x = y) | 1 => decide (x ≠ y) | 2 => decide (x < y) | _ => decide (x ≤ y)

/-- The condition of `VCMP` between two values (R231): with a NaN only `ne` holds. -/
def floatCond (c : BitVec 2) (x y : Val) : Bool :=
  if x.isNan || y.isNan then c == 1
  else match c.toNat with | 0 => x.eq y | 1 => !x.eq y | 2 => x.lt y | _ => x.lt y || x.eq y

/-- The rows that a checked word would push into each of its destinations, for the L, T, A, B and X words that name a
queue. -/
def queueRows (s : State) (i : Instr) : Option Nat :=
  match i with
  | .ldv _ _ _ _ _ _ => some 1 | .ldvt _ _ _ _ _ _ => some 1 | .lgv _ _ _ _ _ _ _ => some 1 | .pld _ _ _ _ _ _ _ => some 1
  | .tld _ _ _ _ _ ts _ _ => some (64 / 2 ^ ts.toNat) | .ldx _ _ _ _ _ q _ => some (s.arch.widthOfQueue q / 32)
  | .stv _ _ _ _ _ _ => some 0 | .sgv _ _ _ _ _ _ _ _ => some 0 | .pst _ _ _ _ _ _ => some 0
  | .tst _ _ _ _ _ _ _ _ => some 0 | .stx _ _ _ _ _ _ _ => some 0 | .redv _ _ _ _ _ _ _ => some 0
  | .vcmp _ _ _ _ _ _ _ _ _ _ => some 1 | .vicmp _ _ _ _ _ _ _ _ _ _ => some 1 | .xtld _ _ _ _ _ _ => some 1
  | .vzip _ _ _ _ _ _ _ _ _ => some 2 | .vuzp _ _ _ _ _ _ _ _ _ => some 2
  | .vdq _ _ _ _ _ _ _ _ _ => some 1
  | i => (pushTable i).map fun _ => 1

/-- The T words that are held at issue: the queue whose row they pop first, and whether they are held checked. -/
def holdTable (i : Instr) : Option (Option (BitVec 5) × Bool) :=
  match i with
  | .sts _ _ _ _ _ _ _ _ => some (none, true) | .fence _ _ _ => some (none, true) | .fencex _ _ _ _ _ => some (none, true)
  | .drain _ _ _ => some (none, true) | .cpy _ _ _ _ _ => some (none, true) | .gath _ _ _ _ _ => some (none, true)
  | .take _ _ _ _ => some (none, true) | .arrw _ _ _ _ _ => some (none, true)
  | .stg _ _ _ _ _ _ _ _ => some (none, false) | .sigst _ _ _ _ _ _ _ => some (none, false)
  | .atom _ _ _ _ _ _ _ => some (none, false) | .coll _ _ _ _ _ _ _ => some (none, false)
  | .stv _ _ _ d _ _ => some (some d, true) | .sgv _ _ _ d _ _ _ _ => some (some d, false)
  | .pst _ _ d _ _ _ => some (some d, false) | .tst _ _ d _ _ _ _ _ => some (some d, false)
  | .stx _ _ _ d _ _ _ => some (some d, false) | .redv _ _ _ d _ _ _ => some (some d, false)
  | _ => none

/-- Whether network `n` is configured in the fabric domain of the running context (R293, R346). -/
def takeReady (s : State) (n : BitVec 4) : Bool :=
  s.nets.any fun x => x.ref == { set := (match s.me.bnd with | some b => if b.shape.getLsbD 3 then b.fset else none | none => none)
                                 net := n.toNat }

/-- What a T word must meet to be held: a `TAKE` its network, an `ARRW` its region in the scratchpad, a word with a queue
its checks. -/
def canHold (s : State) (i : Instr) : Prop :=
  match i with
  | .take _ _ _ n => takeReady s n = true
  | .arrw _ _ _ _ _ => s.act.entry.ops.x.toNat % 2 ^ 21 / 16 * 16 + 16 + s.act.entry.ops.y.toNat % 2 ^ 32 ≤ 0x200000
  | i => (queueRows s i).isSome → Clean s i 0

/-- The state in which a held word pops its row: for `STX` its index row has gone (R187). -/
def storeState (s : State) (i : Instr) : State :=
  match i with
  | .stx _ _ _ _ _ q _ => (s.src false q (32 * (s.arch.widthOfQueue q / 32))).2
  | _ => s

/-! ### Results of the scalar words (R140 to R145, R157, R168 to R170) -/

/-- What a single-cycle scalar word writes: its predicate, `sD` and the value. -/
def scalarResult (i : Instr) (s : State) : Option (BitVec 3 × BitVec 5 × Dword) :=
  match i with
  | .add _ p d a b => some (p, d, s.getS a + s.getS b)
  | .sub _ p d a b => some (p, d, s.getS a - s.getS b)
  | .and _ p d a b => some (p, d, s.getS a &&& s.getS b)
  | .or _ p d a b => some (p, d, s.getS a ||| s.getS b)
  | .xor _ p d a b => some (p, d, s.getS a ^^^ s.getS b)
  | .andn _ p d a b => some (p, d, s.getS a &&& ~~~(s.getS b))
  | .shl _ p d a b => some (p, d, s.getS a <<< ((s.getS b).toNat % 64))
  | .shr _ p d a b => some (p, d, s.getS a >>> ((s.getS b).toNat % 64))
  | .sar _ p d a b => some (p, d, (s.getS a).sshiftRight ((s.getS b).toNat % 64))
  | .min _ p d a b => some (p, d, BitVec.ofInt 64 (min (s.getS a).toInt (s.getS b).toInt))
  | .max _ p d a b => some (p, d, BitVec.ofInt 64 (max (s.getS a).toInt (s.getS b).toInt))
  | .minu _ p d a b => some (p, d, BitVec.ofNat 64 (min (s.getS a).toNat (s.getS b).toNat))
  | .maxu _ p d a b => some (p, d, BitVec.ofNat 64 (max (s.getS a).toNat (s.getS b).toNat))
  | .clz _ p d a => some (p, d, BitVec.ofNat 64 (((List.range 64).takeWhile fun j => !(s.getS a).getLsbD (63 - j)).length))
  | .popc _ p d a => some (p, d, BitVec.ofNat 64 (((List.range 64).filter fun j => (s.getS a).getLsbD j).length))
  | .sel _ p d a b => some (p, d, if s.getS d = 0 then s.getS b else s.getS a)
  | .addi _ p d a i => some (p, d, s.getS a + i.signExtend 64)
  | .andi _ p d a i => some (p, d, s.getS a &&& i.signExtend 64)
  | .ori _ p d a i => some (p, d, s.getS a ||| i.signExtend 64)
  | .xori _ p d a i => some (p, d, s.getS a ^^^ i.signExtend 64)
  | .shli _ p d a n => some (p, d, s.getS a <<< n.toNat)
  | .shri _ p d a n => some (p, d, s.getS a >>> n.toNat)
  | .sari _ p d a n => some (p, d, (s.getS a).sshiftRight n.toNat)
  | .lim _ p d i => some (p, d, i.signExtend 64)
  | .lims _ p d i => some (p, d, (s.getS d <<< 17) ||| i.setWidth 64)
  | .bfx _ p d a l n => some (p, d, (s.getS a >>> l.toNat) &&& BitVec.ofNat 64 (2 ^ (n.toNat + 1) - 1))
  | .bfi _ p d a l n =>
    let m : Dword := BitVec.ofNat 64 (2 ^ (n.toNat + 1) - 1) <<< l.toNat
    some (p, d, (s.getS d &&& ~~~m) ||| ((s.getS a <<< l.toNat) &&& m))
  | .padr _ p d a q => some (p, d, (q ++ (s.getS a).setWidth 60 : BitVec 64))
  | .pcrel _ p d i =>
    let h := s.act.entry.pc
    some (p, d, (h.extractLsb' 57 7 ++ (h + (i.signExtend 64 <<< 2)).setWidth 57 : BitVec 64))
  | .csrr _ p d n => some (p, d, s.csrRead n.toNat)
  | .qstat _ p d q => some (p, d, (s.myCore.before s.act.ctx s.act.entry.seq).qstat s.act.ctx q)
  | .aget _ p d n sel => some (p, d, s.arch.aget n sel)
  | .mbxr _ p d m => some (p, d, s.arch.mb[m.toNat]'m.isLt)
  | _ => none

/-- What a multiply or a divide gives: its cycles, its predicate, `sD` and the value (R139, R140). -/
def slowResult (i : Instr) (s : State) : Option (Nat × BitVec 3 × BitVec 5 × Dword) :=
  match i with
  | .mul _ p d a b => some (3, p, d, BitVec.ofInt 64 ((s.getS a).toInt * (s.getS b).toInt))
  | .mulh _ p d a b => some (3, p, d, BitVec.ofInt 64 ((s.getS a).toInt * (s.getS b).toInt / 2 ^ 64))
  | .mulhu _ p d a b => some (3, p, d, BitVec.ofNat 64 ((s.getS a).toNat * (s.getS b).toNat / 2 ^ 64))
  | .div _ p d a b =>
    some (20, p, d, if s.getS b = 0 then -1 else BitVec.ofInt 64 ((s.getS a).toInt.tdiv (s.getS b).toInt))
  | .divu _ p d a b =>
    some (20, p, d, if s.getS b = 0 then -1 else BitVec.ofNat 64 ((s.getS a).toNat / (s.getS b).toNat))
  | .rem _ p d a b =>
    some (20, p, d, if s.getS b = 0 then s.getS a else BitVec.ofInt 64 ((s.getS a).toInt.tmod (s.getS b).toInt))
  | _ => none

/-- A comparison of two doublewords under a condition's number (R144, R330): 0 `eq`, 1 `ne`, 2 `lt`, 3 `le`, 4 `ltu`, 5
`leu`. -/
def compares (c : BitVec 3) (a b : Dword) : Bool :=
  match c.toNat with
  | 0 => decide (a = b)
  | 1 => decide (a ≠ b)
  | 2 => decide (a.toInt < b.toInt)
  | 3 => decide (a.toInt ≤ b.toInt)
  | 4 => decide (a.toNat < b.toNat)
  | _ => decide (a.toNat ≤ b.toNat)

/-- What a word that writes a predicate writes (R144, R145). -/
def predResult (i : Instr) (s : State) : Option (BitVec 3 × BitVec 4 × Bool) :=
  match i with
  | .cmp _ p d c a b => some (p, d, compares c (s.getS a) (s.getS b))
  | .cmpi _ p d c a i => some (p, d, compares c (s.getS a) (i.signExtend 64))
  | .pand _ p d a b => some (p, d, s.getP a && s.getP b)
  | .por _ p d a b => some (p, d, s.getP a || s.getP b)
  | .pxor _ p d a b => some (p, d, xor (s.getP a) (s.getP b))
  | .pandn _ p d a b => some (p, d, s.getP a && !s.getP b)
  | .pnot _ p d a => some (p, d, !s.getP a)
  | _ => none

/-- The qualifying predicate of an S word other than `NOP` and `WSEL` (R68, R138). -/
def sQual (i : Instr) : Option (BitVec 3) :=
  match i with
  | .br _ p _ => some p | .call _ p _ => some p | .jmpr _ p _ => some p | .loop _ p _ _ _ => some p | .lexit _ p _ => some p
  | .sig _ p _ _ => some p | .syncd _ p _ => some p | .yield _ p => some p | .retire _ p => some p
  | .fork _ p _ _ _ => some p | .csrw _ p _ _ => some p | .csrs _ p _ _ => some p | .csrc _ p _ _ => some p
  | .trap _ p _ => some p | .rte _ p => some p | .brk _ p _ => some p | .qcfg _ p _ _ _ => some p
  | .qcfgKeep _ p _ _ _ => some p | .qrel _ p _ => some p | .aset _ p _ _ => some p | .adim _ p _ _ _ _ _ => some p
  | .mbxw _ p _ _ => some p | .pcrt _ p _ _ _ _ => some p | .pdel _ p _ _ => some p | .pprt _ p _ _ _ _ => some p
  | .chbind _ p _ _ => some p | .chrd _ p _ _ => some p | .chwr _ p _ _ => some p
  | i =>
    ((scalarResult i State.reset).map (·.1)).orElse fun _ => ((slowResult i State.reset).map (·.2.1)).orElse fun _ =>
      (predResult i State.reset).map (·.1)

/-! ### Homes, requests and commands -/

/-- `n` bytes from `a` in memory, as a little-endian number. -/
def memNat (s : State) (a n : Nat) : Nat := leNat ((List.range n).map fun i => readByte (a + i) s.mem)

/-- Whether an address lies in its stack's remap table (R264). -/
def inRemapTable (a : Nat) : Bool := decide (remapBase ≤ a % 2 ^ 45) && decide (a % 2 ^ 45 < remapBase + 16 * groupCount)

/-- `n` bytes from `a` can be read and written at home with no other effect: they are no mailboxes and no remap entries, the home
stack holds no copy of their lines, and the port that serves them is up. -/
def AtHome (s : State) (a n : Nat) : Prop :=
  MemInv s ∧ ownFpa a = true ∧ s.portDown a = false ∧ ∀ b, a ≤ b → b < a + n →
    s.portDown b = false ∧ mailboxAt b = none ∧ inRemapTable b = false ∧ s.holdsLine (stackAt b) (lineOf b) = false ∧
    stackAt b = stackAt a

/-- The line of an address stands in the L2 slice of its home, so that an access to it there fills and evicts nothing (R258). -/
def InSlice (s : State) (a : Nat) : Prop := uncached a = true ∨ (s.stack (stackAt a)).l2.contains (lineOf a) = true

/-- An access of `n` bytes from `a` on at their home makes its slices give up no line that the home stack has changed. -/
def Settled (s : State) (a n : Nat) : Prop :=
  (s.stack (stackAt a)).remote = [] ∨ ∀ b, a ≤ b → b < a + n → InSlice s b

/-- The walks that a word's translation needs make no cache give up words: no cache holds any, or the lines of tables that walks of its
pages read stand in their slices (R42, R265). -/
def WalksQuietly (s : State) (car : Carry) : Prop :=
  let l := pagesOf (s.moves s.me.asn s.act.entry car)
  ((∀ m, (s.core m).l1 = []) ∧ ∀ u, (s.stack u).remote = []) ∨
  ∀ p ∈ l, ∀ y ∈ s.walkLines s.me.asn p.1 (l.map (·.2)), InSlice s (y * 128)

/-- The value of an element as it lies in memory (R178): bit `b` of byte `a` is its lowest; or a value that no store changes. -/
def elemNat (s : State) : Elem → Nat
  | .loc a b w => memNat s a ((b + w + 7) / 8) / 2 ^ b % 2 ^ w
  | .fixed v => v

/-- Bit `j` of byte `a` once elements with their values are stored in order, `old` before them (R178). -/
def elemBit (l : List (Elem × Nat)) (a j : Nat) (old : Bool) : Bool :=
  l.foldl (fun x e => match e.1 with
    | .loc p b w => if 8 * p + b ≤ 8 * a + j ∧ 8 * a + j < 8 * p + b + w then e.2.testBit (8 * a + j - (8 * p + b)) else x
    | .fixed _ => x) old

/-- The elements of a row, those that `keep` names, with the values that the lanes of `x` give them. -/
def laneValues (r : Nat × List Elem) (x : Row) (keep : Nat → Bool) : List (Elem × Nat) :=
  (List.range r.2.length).filterMap fun i => if keep i then some (r.2.getD i (.fixed 0), lane r.1 i x) else none

/-- The elements with their values stand in memory, and every other bit reads as before. -/
def Stores (l : List (Elem × Nat)) (s t : State) : Prop :=
  ∀ a j, j < 8 → (readByte a t.mem).getLsbD j = elemBit l a j ((readByte a s.mem).getLsbD j)

/-- The bytes `l` stand from `a` on, and every other byte of memory reads as before. -/
def Lands (a : Nat) (l : List Byte) (s t : State) : Prop :=
  ∀ b, readByte b t.mem = if a ≤ b ∧ b < a + l.length then l.getD (b - a) 0 else readByte b s.mem

/-- A request is taken at its home: there is room, no answer is kept for it, its `n` bytes have a place, and no swap holds the fill of
their line. -/
def Served (c : RingCell) (wr : Bool) (n : Nat) (s : State) : Prop :=
  (∀ r ∈ s.replies, r.1 = c.src → r.2.1 ≠ c.tag) ∧ localMapped c.addr.toNat = true ∧
  localMapped (c.addr.toNat + n - 1) = true ∧ csrStop wr [(cellAddr c, n)] = false ∧ s.slotHeld (lineOf (cellAddr c)) = false

/-- A cell that no room takes stays on the ring (R284, R285, R378): it comes again one circulation on, at the second refusal it goes back
to its station and on the escape channel, and of an escape cell the 1024th pass is the last. -/
def StaysOnRing (c : RingCell) (s t : State) : Prop :=
  let comes (y : RingCell) : Prop := ∀ i, arrivalOf y = some i → ∃ due, s.now ≤ due ∧ (due, i) ∈ t.sched
  SameMem s t ∧ t.cores = s.cores ∧ t.reqs = s.reqs ∧
  (c.vc ≠ 2 → c.rfs = 0 → comes { c with rfs := 1 }) ∧
  (c.vc ≠ 2 → c.rfs ≠ 0 → comes { c with
    vc := 2, ring := 0, passes := 0, rfs := 0, ret := false, dir := if s.ringDown 0 Config.pkg then 1 else 0 }) ∧
  (c.vc = 2 → c.passes < 1023 → comes { c with passes := c.passes + 1 }) ∧
  (c.vc = 2 → 1023 ≤ c.passes → s.carries c = true → (s.now, Instr.destinationUnreachable c.tag) ∈ t.sched)

/-- The answer of type `ty` with payload `l` to a request: kept, and injected at the home unless its originator is
unreachable. -/
def Answers (c : RingCell) (ty : Nat) (l : List Byte) (s t : State) : Prop :=
  let r := ringCell c.src.toNat c.dst.toNat 192 ty c.addr.toNat c.tag.toNat l
  (c.src, c.tag, r) ∈ t.replies ∧ t.outbox = s.outbox ∧ t.cores = s.cores ∧
  (s.gone.contains c.src.toNat = false →
    { core := none, cls := 0, weight := 1, dst := c.src.toNat, msg := .cell r } ∈ (t.stack (c.dst.toNat % 8)).inject)

/-- A firmware command executes: the package has booted, and no write of its firmware to another peer is outstanding (R310, R315). -/
def Accepts (s : State) : Prop := s.fw.up = true ∧ s.firmOut = false

/-- A command completes with a status, a result and data: one TYPE 13 cell leaves for its peer (R309). -/
def Completes (q : HostCmd) (cmd st res : Nat) (data : List Byte) (s t : State) : Prop :=
  t.outbox = s.outbox ++ [.completion q.peer (BitVec.ofNat 8 cmd) q.seq (BitVec.ofNat 8 st) (BitVec.ofNat 64 res) data]

/-- A command is turned down with a status: it completes, and nothing else happens. -/
def Declined (q : HostCmd) (cmd st res : Nat) (s t : State) : Prop :=
  Completes q cmd st res [] s t ∧ t = { s with outbox := t.outbox }

/-- Nothing of the package differs but the firmware's own record and what leaves the package. -/
def OnlyFw (s t : State) : Prop := t = { s with fw := t.fw, outbox := t.outbox }

/-- The firmware commands. -/
def firmwareCommand (i : Instr) : Option HostCmd :=
  match i with
  | .ident q => some q | .attest q _ _ => some q | .loadimg q _ _ _ _ _ => some q | .psetdesc q _ _ _ _ => some q
  | .ptroot q _ _ => some q | .handle q _ _ _ _ => some q | .launch q _ _ _ _ => some q | .kill q _ => some q
  | .preempt q _ _ _ => some q | .resume q _ _ _ => some q | .mbxwrite q _ _ => some q | .flagset q _ _ => some q
  | .cnconfig q _ _ _ _ _ => some q | .cnsave q _ _ _ => some q | .cnrestore q _ _ _ => some q
  | .collcfg q _ _ _ => some q | .arbset q _ _ => some q | .ctrsel q _ _ _ _ => some q | .ctrread q _ _ _ => some q
  | .liferead q _ _ _ _ => some q | .plystat q _ => some q | .powercap q _ _ _ => some q | .reset q => some q
  | _ => none

/-- What the evaluation of a bucket-ready word `w` makes of a collective (R190, R200). -/
def evaluated (w : Nat) (j : CollJob) : CollJob :=
  if j.rtgt.toNat ≤ w then { j with phase := 2, look := false, stat := BitVec.ofNat 32 (w / 2 ^ 32 % 2 ^ 30 * 4) }
  else { j with look := false }

/-- The command of number `id` changed by `f`, and nothing else of the package. -/
def OnlyCmd (id : Nat) (f : Cmd → Cmd) (s t : State) : Prop :=
  t = { s with cmds := t.cmds } ∧ t.cmds = s.cmds.map fun x => if x.id = id then f x else x

/-! ### Command cells (R309, R311, R313) -/

/-- The row of the opcode table that a command cell holds: the command of its code, with its parameters in the order of R311. -/
def CellHolds (c : RingCell) (i : Instr) : Prop :=
  let q := commandFrom c
  let w := paramAt c
  let d (i : Nat) : Dword := BitVec.ofNat 64 (w i)
  commandBad c = false ∧ (nbits (commandHeader c) 32 8, i) ∈ ([(1, .ident q), (2, .attest q ((c.payload.drop 8).take 32) (w 4)),
    (3, .loadimg q (w 0) (d 1) (cellSource (w 2) (min (w 3) (2 ^ 32))) (w 3) []), (4, .psetdesc q (w 0) (w 1) (w 2) (cellSource (w 3) 256)),
    (5, .ptroot q (w 0) (w 1)), (6, .handle q (w 0) (w 1) (w 2) (BitVec.ofNat 512 (leNat ((c.payload.drop 32).take 64)))),
    (7, .launch q (d 0) (d 1) (d 2) (d 3)), (8, .kill q (d 0)), (9, .preempt q (w 0) (w 1) (w 2)), (10, .resume q (w 0) (w 1) (w 2)),
    (11, .mbxwrite q (d 0) (d 1)), (12, .flagset q (w 0) (d 1)), (13, .cnconfig q (d 0) (d 1) (d 2) (d 3) (d 4)),
    (14, .cnsave q (d 0) (d 1) (w 2)), (15, .cnrestore q (d 0) (d 1) (cellSource (w 2) 176)),
    (16, .collcfg q (w 0) (w 1) (cellSource (w 2) (2 * min (w 1) 4096))), (17, .arbset q (d 0) (d 1)),
    (18, .ctrsel q (w 0) (w 1) (w 2) (w 3 == 1)), (19, .ctrread q (w 0) (w 1) (w 2)), (20, .liferead q (w 0) (w 1) (w 2) (w 3)),
    (21, .plystat q (w 0)), (22, .powercap q (w 0) (w 1) (w 2)), (23, .reset q)] : List (Nat × Instr))

end Sys2Proof
end

