-- ==== Sys2Proof/Certificates/Slice0/Obligations.lean ====
section
/-!
DEFINITION. The statements for the provers.
-/

open Sys2Proof Sys2Proof.Machine

/-- For every ALU word of one cycle, immediate word, LIM, LIMS, BFX, BFI, PADR, PCREL, CSRR, QSTAT, AGET and MBXR
whose qualifying predicate reads true, execution answers a next state in which sD reads the value of the table (a
write of s0 being discarded), every other scalar, predicate, queue, stream, special register, other context, other
core and byte of memory being as before. (R138, R139, R140, R141, R142, R143, R157, R168, R169, R170) -/
def Obligations.SingleCycleScalarWords : Prop :=
  ∀ (i : Instr) (s : State) (p : BitVec 3) (d : BitVec 5) (v : Dword),
    scalarResult i s = some (p, d, v) → s.qual p = true →
    ∃ t, exec i s = .next t ∧ WritesScalar d v s.arch t.arch ∧ OnlyMine s t

/-- A multiply or divide whose predicate reads true answers a next state with one more result due: the value of the
table for sD, 3 cycles after dispatch for a multiply and 20 for a divide, and sD noted as not ready until that cycle;
no register has its value changed yet, and nothing else changes. With s0 as the destination nothing changes at all.
(R69, R138, R139, R140) -/
def Obligations.MultiplyAndDivideWords : Prop :=
  ∀ (i : Instr) (s : State) (lat : Nat) (p : BitVec 3) (d : BitVec 5) (v : Dword),
    slowResult i s = some (lat, p, d, v) → s.qual p = true →
    ∃ t, exec i s = .next t ∧
      (d = 0 → t = s) ∧
      (d ≠ 0 →
        AddsFlight s.act.core
          { id := s.myCore.nextId, ctx := s.act.ctx, seq := s.act.entry.seq, slot := slotNum s.act.entry.slot
            due := s.myCore.cyc + lat, quiet := s.act.entry.quiet, instr := s.act.entry.instr, acq := none
            kind := .sreg d v } s t ∧
        t.arch = { s.arch with rdy := (d, s.myCore.cyc + lat) :: s.arch.rdy } ∧
        (∀ k, k % 4 ≠ s.act.ctx % 4 → t.ctx s.act.core k = s.ctx s.act.core k) ∧
        t.me = { s.me with arch := t.arch, ckpts := t.me.ckpts } ∧
        ∀ q ∈ t.me.ckpts, q.seq ≤ s.act.entry.seq → q ∈ s.me.ckpts)

/-- A comparison or predicate-logic word whose qualifying predicate reads true answers a next state in which pD reads
the result (a write of p0 being discarded), every other predicate, register, context, core and byte of memory being as
before. Conditions 0 to 5 are eq, ne, signed lt and le, unsigned ltu and leu; CMPI compares with its sign-extended
immediate. (R138, R144, R145) -/
def Obligations.PredicateWords : Prop :=
  ∀ (i : Instr) (s : State) (p : BitVec 3) (d : BitVec 4) (v : Bool),
    predResult i s = some (p, d, v) → s.qual p = true →
    ∃ t, exec i s = .next t ∧ WritesPred d v s.arch t.arch ∧ OnlyMine s t

/-- For every S word other than NOP and WSEL: if its qualifying predicate reads false, execution answers the state
unchanged. NOP in slots S, L and T, and WSEL as a word of its own (the front end reads it when it decides whether a
wait bundle dispatches), answer the state unchanged, whatever their hold bit and predicate. (R68, R138, R151) -/
def Obligations.WordsWithoutEffect : Prop :=
  (∀ (i : Instr) (s : State) (p : BitVec 3), sQual i = some p → s.qual p = false → exec i s = .next s) ∧
  ∀ (h : BitVec 1) (p : BitVec 3) (x : BitVec 1) (a b c d : BitVec 5) (s : State),
    exec (.nopS h p) s = .next s ∧ exec (.nopL h p) s = .next s ∧ exec (.nopT h p) s = .next s ∧
    exec (.wsel h p x a b c d) s = .next s

/-- With its predicate true, BR and CALL continue at the header address plus OFF22 x 4 and JMPR at the value of sA;
the next bundle dispatches three cycles on, every open loop level closes with each LIDX kept, and CALL writes into s31
the header address + 4 + 4 x (bits set in PM). Nothing else changes. JMPR to an address that is not a multiple of 4
detects a fault of cause 17 in slot 0 of its bundle, whose TRAPVAL holds the header and the word, and changes nothing
else. (R139, R146, R147, R322, R334) -/
def Obligations.TransferWords : Prop :=
  ∀ (h : BitVec 1) (p : BitVec 3) (o : BitVec 22) (a : BitVec 5) (s : State), s.qual p = true →
    (∃ t, exec (.br h p o) s = .next t ∧ MovesOn s t ∧
      t.arch = { s.arch with pc := s.act.entry.pc + o.signExtend 64 * 4, loops := [], skip := 0 }) ∧
    (∃ t, exec (.call h p o) s = .next t ∧ MovesOn s t ∧
      (∀ r, t.getS r = if r = 31 then s.act.entry.pc + 4 + 4 * BitVec.ofNat 64 (presentSlots s.act.entry.hdr) else s.getS r) ∧
      t.arch = { s.arch with sr := t.arch.sr, pc := s.act.entry.pc + o.signExtend 64 * 4, loops := [], skip := 0 }) ∧
    ((s.getS a).toNat % 4 = 0 → ∃ t, exec (.jmpr h p a) s = .next t ∧ MovesOn s t ∧
      t.arch = { s.arch with pc := s.getS a, loops := [], skip := 0 }) ∧
    ((s.getS a).toNat % 4 ≠ 0 → s.act.entry.slot = .s → ∃ t, exec (.jmpr h p a) s = .next t ∧ RaisesWord 17 0 s t)

/-- With its predicate true, TRAP (cause 1) and BRK (cause 2) set TRAPPC to the address immediately after the bundle,
TRAPCAUSE to the cause with slot 0, TRAPVAL to the zero-extended code and the pc to TRAPVEC; RTE with a TRAPCAUSE
below 16 sets the pc to TRAPPC. Open loop levels close (R147) and a new issue group begins with the handler. No other
register, context, core or byte of memory changes. (R148) -/
def Obligations.HandlerRequests : Prop :=
  ∀ (h : BitVec 1) (p : BitVec 3) (c : BitVec 17) (s : State), s.qual p = true →
    (∃ t, exec (.trap h p c) s = .next t ∧ MovesOn s t ∧ t.arch = requested s 1 c) ∧
    (∃ t, exec (.brk h p c) s = .next t ∧ MovesOn s t ∧ t.arch = requested s 2 c) ∧
    (s.arch.csr.trapcause.toNat % 256 < 16 → ∃ t, exec (.rte h p) s = .next t ∧ MovesOn s t ∧
      t.arch = { s.arch with pc := s.arch.csr.trappc, loops := [], skip := 0 })

/-- With its predicate true and TRAPCAUSE.CAUSE of 16 or above, RTE restores the hold state and the open loop levels
(level, trip count, index, length and start of each) from the shadow, LIDX of a restored level showing its index,
brings back the record of the words that an interrupted wait bundle has entered, clears IH, makes numeric traps off
for the next bundle after cause 48 or where the bundle at TRAPPC was to run so when it was interrupted, and continues
at TRAPPC three cycles on; scalars, predicates, queues, masks, special registers, memory and every other context and
core are as before. (R139, R148, R324, R386) -/
def Obligations.FaultReturn : Prop :=
  ∀ (h : BitVec 1) (p : BitVec 3) (s : State), s.qual p = true → 16 ≤ s.arch.csr.trapcause.toNat % 256 →
    ∃ t, exec (.rte h p) s = .next t ∧ MovesOn s t ∧
      t.arch.pc = s.arch.csr.trappc ∧ t.arch.ih = false ∧ t.arch.holds = s.arch.shadow.holds ∧
      (t.arch.loops.map fun r => (r.lv, r.trip, r.idx, r.len, r.start)) =
        (s.arch.shadow.loops.map fun r => (r.lv, r.trip, r.idx, r.len, r.start)) ∧
      (∀ r ∈ s.arch.shadow.loops, r.lv.toNat < 6 → (∀ x ∈ s.arch.shadow.loops, x.lv = r.lv → x = r) →
        t.arch.lidx.toList[r.lv.toNat]? = some r.idx) ∧
      t.arch.entered = s.arch.shadow.entered ∧ t.arch.entAt = s.arch.shadow.entAt ∧
      t.arch.quiet = (decide (s.arch.csr.trapcause.toNat % 256 = 48) || decide (s.arch.shadow.quiet = some s.arch.csr.trappc)) ∧
      t.arch = { s.arch with pc := t.arch.pc, ih := t.arch.ih, holds := t.arch.holds, loops := t.arch.loops, lidx := t.arch.lidx
                             quiet := t.arch.quiet, skip := t.arch.skip, entered := t.arch.entered
                             entAt := t.arch.entAt, shadow := { s.arch.shadow with entered := 0, quiet := none } }

/-- LOOP on a level that is not open, and whose body fits the enclosing body, sets LIDXn to 0; with a trip count of 0
its len bundles are passed over, otherwise the level opens as the innermost one. LEXIT on an open level closes it and
every level inside it, the rest of its body being passed over. On an open level LOOP, and on a level not open LEXIT,
raises cause 22. Nothing else changes. (R87, R149, R150, R342) -/
def Obligations.LoopWords : Prop :=
  ∀ (h : BitVec 1) (p v : BitVec 3) (r : BitVec 5) (l : BitVec 6) (s : State), s.qual p = true → v.toNat < 6 →
    s.act.entry.slot = .s →
    (levelOpen s v = false → bodyFits s (l.toNat + 1) = true → ∃ t, exec (.loop h p v r l) s = .next t ∧ OnlyMine s t ∧
      t.arch.lidx.toList = s.arch.lidx.toList.set v.toNat 0 ∧
      t.arch = { s.arch with
        lidx := t.arch.lidx
        skip := if (s.getS r).toNat % 2 ^ 32 = 0 then l.toNat + 1 else s.arch.skip
        loops := if (s.getS r).toNat % 2 ^ 32 = 0 then s.arch.loops
          else { lv := v, trip := (s.getS r).setWidth 32, idx := 0, len := l.toNat + 1, start := s.arch.pc, pos := 0, adv := false } ::
            s.arch.loops }) ∧
    (levelOpen s v = true → ∃ t, exec (.loop h p v r l) s = .next t ∧ RaisesWord 22 0 s t) ∧
    (∀ pre x post, s.arch.loops = pre ++ x :: post → (∀ y ∈ pre, y.lv ≠ v) → x.lv = v →
      ∃ t, exec (.lexit h p v) s = .next t ∧ MovesOn s t ∧
        t.arch = { s.arch with loops := post, skip := x.len - x.pos }) ∧
    (levelOpen s v = false → ∃ t, exec (.lexit h p v) s = .next t ∧ RaisesWord 22 0 s t)

/-- With its predicate true, CSRW, CSRS and CSRC make the named CSR read its old value with the writable fields
replaced by sA, by the old value OR sA, or by the old value AND NOT sA; every other CSR reads as before, and scalars,
predicates, other cores and memory are as before. A number without writable field leaves every CSR as it was. (R157,
R158, R160, R164, R165) -/
def Obligations.CsrWrites : Prop :=
  ∀ (h : BitVec 1) (p : BitVec 3) (a : BitVec 5) (n : BitVec 12) (s : State), s.qual p = true →
    ∀ (i : Instr) (v : Dword),
      ((i = .csrw h p a n ∧ v = s.getS a) ∨ (i = .csrs h p a n ∧ v = s.csrRead n.toNat ||| s.getS a) ∨
        (i = .csrc h p a n ∧ v = s.csrRead n.toNat &&& ~~~(s.getS a))) →
      ∃ t, exec i s = .next t ∧ OnlyCore s.act.core s t ∧
        t.csrRead n.toNat =
          (s.csrRead n.toNat &&& ~~~(csrMask n.toNat s.me.flagMask)) ||| (v &&& csrMask n.toNat s.me.flagMask) ∧
        (∀ m, m ≠ n.toNat → t.csrRead m = s.csrRead m) ∧
        (∀ r, t.getS r = s.getS r) ∧ (∀ r, t.getP r = s.getP r)

/-- With its predicate true, for a queue v0 to v27 within the pool: QCFG gives it the depth and width and empties it;
QCFG.keep, with a depth not below the rows held and the width as it is, changes only the depth; QREL leaves depth 0
and no row. Every other queue and register is as before. A queue number of 28 to 30 raises cause 17, a QCFG beyond the
pool cause 21 with the queue left as it was, a QCFG.keep with a depth below the count or another width cause 17.
(R341) -/
def Obligations.QueueWords : Prop :=
  ∀ (h : BitVec 1) (p : BitVec 3) (q : BitVec 5) (d : BitVec 8) (w : BitVec 2) (s : State), s.qual p = true →
    s.act.entry.slot = .s →
    (q.toNat < 28 →
      (s.arch.storage q d.toNat w ≤ s.me.poolRows →
        (∃ t, exec (.qcfg h p q d w) s = .next t ∧ OnlyMine s t ∧
          t.arch = { s.arch with vq := t.arch.vq } ∧ t.arch.queue q = { depth := d.toNat, wd := w, cur := 0, rows := [] } ∧
          ∀ r, r ≠ q → t.arch.queue r = s.arch.queue r) ∧
        ((s.arch.queue q).rows.length ≤ d.toNat → (s.arch.queue q).wd = w →
          ∃ t, exec (.qcfgKeep h p q d w) s = .next t ∧ OnlyMine s t ∧
            t.arch = { s.arch with vq := t.arch.vq } ∧ t.arch.queue q = { s.arch.queue q with depth := d.toNat } ∧
            ∀ r, r ≠ q → t.arch.queue r = s.arch.queue r)) ∧
      (s.me.poolRows < s.arch.storage q d.toNat w → ∃ t, exec (.qcfg h p q d w) s = .next t ∧ RaisesWord 21 0 s t) ∧
      (d.toNat < (s.arch.queue q).rows.length ∨ (s.arch.queue q).wd ≠ w →
        ∃ t, exec (.qcfgKeep h p q d w) s = .next t ∧ RaisesWord 17 0 s t) ∧
      (∃ t, exec (.qrel h p q) s = .next t ∧ OnlyMine s t ∧ t.arch = { s.arch with vq := t.arch.vq } ∧
        (t.arch.queue q).depth = 0 ∧ (t.arch.queue q).rows = [] ∧ ∀ r, r ≠ q → t.arch.queue r = s.arch.queue r)) ∧
    (28 ≤ q.toNat → q.toNat ≤ 30 →
      (∃ t, exec (.qcfg h p q d w) s = .next t ∧ RaisesWord 17 0 s t) ∧
      (∃ t, exec (.qcfgKeep h p q d w) s = .next t ∧ RaisesWord 17 0 s t) ∧
      (∃ t, exec (.qrel h p q) s = .next t ∧ RaisesWord 17 0 s t))

/-- With its predicate true: ASET sets the base of its stream and clears the index of every use dimension; ADIM with a
bound from 1 to 2^32 gives its dimension the stride, bound and binding with index 0; MBXW writes its mailbox. Every
other stream, dimension, mailbox and register is as before. A bound of 0 or above 2^32 raises cause 17. (R88, R169,
R170, R343) -/
def Obligations.StreamAndMailboxWords : Prop :=
  ∀ (h : BitVec 1) (p : BitVec 3) (n : BitVec 4) (d m k : BitVec 3) (a b : BitVec 5) (s : State), s.qual p = true →
    s.act.entry.slot = .s →
    (∃ t, exec (.aset h p n a) s = .next t ∧ OnlyMine s t ∧ t.arch = { s.arch with str := t.arch.str } ∧
      streamOf t n = { base := s.getS a, dims := vmap (fun x => if x.bind = 6 then { x with idx := 0 } else x) (streamOf s n).dims } ∧
      ∀ r, r ≠ n → streamOf t r = streamOf s r) ∧
    (d.toNat < 6 → 1 ≤ (s.getS b).toNat % 2 ^ 33 → (s.getS b).toNat % 2 ^ 33 ≤ 2 ^ 32 →
      ∃ t, exec (.adim h p n d a b k) s = .next t ∧ OnlyMine s t ∧ t.arch = { s.arch with str := t.arch.str } ∧
        (streamOf t n).base = (streamOf s n).base ∧
        (streamOf t n).dims.toList = (streamOf s n).dims.toList.set d.toNat
          { stride := s.getS a, bound := (s.getS b).setWidth 33, bind := k, idx := 0 } ∧
        ∀ r, r ≠ n → streamOf t r = streamOf s r) ∧
    (((s.getS b).toNat % 2 ^ 33 = 0 ∨ 2 ^ 32 < (s.getS b).toNat % 2 ^ 33) →
      ∃ t, exec (.adim h p n d a b k) s = .next t ∧ RaisesWord 17 0 s t) ∧
    (∃ t, exec (.mbxw h p a m) s = .next t ∧ OnlyMine s t ∧ t.arch = { s.arch with mb := t.arch.mb } ∧
      t.arch.mb.toList = s.arch.mb.toList.set m.toNat (s.getS a))

/-- With its predicate true: SIG f with sA zero, or naming its own core, leaves bit f set among the flags that stand
from the end of the cycle, and nothing else changes; with bit 32 of sA set and a well- formed name of another core of
a reachable peer, one signal cell (TYPE 6, DU the core, ADDR the flag) joins the station of the own stack, in the
class and weight of loads and stores, and nothing else changes; an operand that breaks the layout raises cause 17.
That ADDR holds the flag is the model's choice (log 21). (R152, R158, R164, R289, R343) -/
def Obligations.SignalWord : Prop :=
  ∀ (h : BitVec 1) (p : BitVec 3) (f : BitVec 6) (a : BitVec 5) (s : State), s.qual p = true → s.act.entry.slot = .s →
    (s.getS a = 0 ∨ s.getS a = BitVec.ofNat 64 (2 ^ 32 + peerOf (stackOf s.act.core) * 2 ^ 16 + s.act.core % 192) →
      ∃ t, exec (.sig h p f a) s = .next t ∧ OnlyCore s.act.core s t ∧
      t.myCore = { s.myCore with flgNew := s.myCore.flgNew ||| BitVec.ofNat 64 (2 ^ f.toNat) }) ∧
    (∀ (peer : BitVec 12) (core : BitVec 8), core.toNat ≤ 191 →
      s.getS a = BitVec.ofNat 64 (2 ^ 32 + peer.toNat * 2 ^ 16 + core.toNat) → s.gone.contains peer.toNat = false →
      ¬ (peer.toNat = peerOf (stackOf s.act.core) ∧ core.toNat = s.act.core % 192) →
      ∃ t c, exec (.sig h p f a) s = .next t ∧ Injects (stackOf s.act.core) s t
          [{ core := some s.act.core, cls := 0, weight := s.arch.csr.arbw.toNat / 2 ^ 16 % 256, dst := peer.toNat, msg := .cell c }] ∧
        t.cores = s.cores ∧ c.dst = peer ∧ c.du = core ∧ c.ty = 6 ∧ c.addr = f.setWidth 45) ∧
    (sigBad (s.getS a) = true → ∃ t, exec (.sig h p f a) s = .next t ∧ RaisesWord 17 0 s t)

/-- With its predicate true: SYNCD at level 0 changes nothing; at a level whose DML names a domain it blocks the
context, noting the object and level, its arrival not yet sent; at a level without a domain it raises cause 17. YIELD
leaves the context Ready with its wait counted from 0, RETIRE leaves it Retired so that no later bundle of it
dispatches. Apart from the core's event counters nothing else changes. (R53, R54, R60, R153, R154, R155) -/
def Obligations.WaitAndLifeWords : Prop :=
  ∀ (h : BitVec 1) (p v : BitVec 3) (s : State), s.qual p = true → s.act.entry.slot = .s →
    exec (.syncd h p 0) s = .next s ∧
    (v ≠ 0 → (s.arch.dml v.toNat).toNat % 8 ≠ 0 → ∃ t, exec (.syncd h p v) s = .next t ∧ BlocksMe s t ∧
      t.me = { s.me with st := .blocked .sync, probe := 0, on := none
                         sync := some { obj := { peer := (s.arch.dml v.toNat).toNat / 2 ^ 52
                                                 obj := (s.arch.dml v.toNat).toNat / 2 ^ 32 % 2 ^ 12 }
                                        lv := v, seq := s.act.entry.seq, sent := false } }) ∧
    (v ≠ 0 → (s.arch.dml v.toNat).toNat % 8 = 0 → ∃ t, exec (.syncd h p v) s = .next t ∧ RaisesWord 17 0 s t) ∧
    (∃ t, exec (.yield h p) s = .next t ∧ BlocksMe s t ∧ t.me = { s.me with st := .ready, waitCnt := 0 }) ∧
    (∃ t, exec (.retire h p) s = .next t ∧ OnlyCtx s.act.core s.act.ctx s t ∧ t.me = { s.me with st := .retired })

/-- With its predicate true and an entry address that is a multiple of 4: FORK makes the lowest-numbered Reserved
context of its own launch and instance Ready from the next cycle, with pc sC, s4 = sB, s1 to s3 the instance numbers,
TRAPVEC and SYNCMODE copied, and every other scalar zero, and sD receives its index within the instance; without a
Reserved context sD receives all ones and nothing else changes. Memory and every other core are as before. A
misaligned entry raises cause 17. (R49, R53, R156, R343) -/
def Obligations.ForkWord : Prop :=
  ∀ (h : BitVec 1) (p : BitVec 3) (a b c : BitVec 5) (s : State) (mine : Bind), s.qual p = true → s.act.entry.slot = .s →
    s.me.bnd = some mine →
    ((s.getS c).toNat % 4 = 0 → ∀ k, s.myCore.reservedOf mine = some k → k ≠ s.act.ctx % 4 →
      ∃ t y, exec (.fork h p a b c) s = .next t ∧ SameMem s t ∧ (∀ m, m ≠ s.act.core → t.core m = s.core m) ∧
        (s.ctx s.act.core k).bnd = some y ∧
        (t.ctx s.act.core k).st = .ready ∧ (t.ctx s.act.core k).bnd = some y ∧ (t.ctx s.act.core k).from_ = s.myCore.cyc + 1 ∧
        (t.ctx s.act.core k).arch.pc = s.getS c ∧
        (∀ r, (t.ctx s.act.core k).arch.getS r =
          if r = 1 then BitVec.ofNat 64 y.inst else if r = 2 then BitVec.ofNat 64 y.icount
          else if r = 3 then BitVec.ofNat 64 y.iix else if r = 4 then s.getS b else 0) ∧
        (t.ctx s.act.core k).arch.csr.trapvec = s.arch.csr.trapvec ∧
        (t.ctx s.act.core k).arch.csr.syncmode = s.arch.csr.syncmode ∧
        WritesScalar a (BitVec.ofNat 64 y.iix) s.arch t.arch) ∧
    ((s.getS c).toNat % 4 = 0 → s.myCore.reservedOf mine = none →
      ∃ t, exec (.fork h p a b c) s = .next t ∧ OnlyMine s t ∧ WritesScalar a (BitVec.allOnes 64) s.arch t.arch) ∧
    ((s.getS c).toNat % 4 ≠ 0 → ∃ t, exec (.fork h p a b c) s = .next t ∧ RaisesWord 17 0 s t)

/-- With its predicate true and operands inside their layouts, PCRT, PDEL and PPRT block the context for a plane, hold
the request (operation, plane set sA, plane, specification, primer and its bundle) for the agent, and schedule the
agent's answer; no table, memory, register or other core changes yet. A plane set number above 4095 raises cause 17.
(R54, R171, R343, R359) -/
def Obligations.PlaneWords : Prop :=
  ∀ (h : BitVec 1) (p : BitVec 3) (a b c : BitVec 5) (w r : BitVec 1) (q : BitVec 4) (s : State), s.qual p = true →
    s.act.entry.slot = .s →
    ((s.getS a).toNat < 4096 →
      (specBad (s.getS b) = false → ∃ t, exec (.pcrt h p a b c q) s = .next t ∧
        AsksAgent 0 (s.getS a).toNat q.toNat (s.getS b) (s.getS c) s t) ∧
      (∃ t, exec (.pdel h p a q) s = .next t ∧ AsksAgent 1 (s.getS a).toNat q.toNat 0 0 s t) ∧
      (∃ t, exec (.pprt h p a w r q) s = .next t ∧
        AsksAgent 2 (s.getS a).toNat q.toNat (BitVec.ofNat 64 (r.toNat * 2 ^ 9 + w.toNat * 2 ^ 10)) 0 s t)) ∧
    (4096 ≤ (s.getS a).toNat →
      (∃ t, exec (.pcrt h p a b c q) s = .next t ∧ RaisesWord 17 0 s t) ∧
      (∃ t, exec (.pdel h p a q) s = .next t ∧ RaisesWord 17 0 s t) ∧
      (∃ t, exec (.pprt h p a w r q) s = .next t ∧ RaisesWord 17 0 s t))

/-- With its predicate true: CHBIND empties the endpoint's receive queue and binds it to the end that sA names; CHRD
on a bound endpoint with a word gives it to sD, removes it and sends an acknowledgement to the bound end; on an empty
one it blocks the context; CHWR on a bound endpoint with fewer than 16 words unacknowledged and no spilled word sends
sA with the next sequence number; with 16 unacknowledged and SYNCMODE bit 0 clear it blocks. An endpoint never bound
raises cause 17 for both. The layout of the two cells, and the route that their XT carries, are the model's (logs 21,
22). Memory and other cores do not change. (R54, R172, R173, R174, R343, R373) -/
def Obligations.ChannelWords : Prop :=
  ∀ (h : BitVec 1) (p e : BitVec 3) (a d : BitVec 5) (s : State), s.qual p = true → s.act.entry.slot = .s →
    (bindBad (s.getS a) = false → ∃ t, exec (.chbind h p e a) s = .next t ∧ OnlyCtx s.act.core s.act.ctx s t ∧
      (t.me.chan e.toNat).bound = some (bindEnd (s.getS a)) ∧ (t.me.chan e.toNat).recv = [] ∧ (t.me.chan e.toNat).sent = 0 ∧
      (∀ j, j % 8 ≠ e.toNat → t.me.chan j = s.me.chan j) ∧ t.me = { s.me with chans := t.me.chans }) ∧
    (∀ b v r, (s.me.chan e.toNat).bound = some b → (s.me.chan e.toNat).recv = v :: r → s.gone.contains b.who.peer = false →
      ∃ t w, exec (.chrd h p d e) s = .next t ∧ SameMem s t ∧ (∀ m, m ≠ s.act.core → t.core m = s.core m) ∧
        WritesScalar d v s.arch t.arch ∧ t.me.chan e.toNat = { s.me.chan e.toNat with recv := r } ∧
        (t.stack (stackOf s.act.core)).inject = (s.stack (stackOf s.act.core)).inject ++
          [{ core := some s.act.core, cls := 0, weight := w, dst := b.who.peer
             msg := .cell (chanCell b { who := ctxRef s.act.core s.act.ctx, ep := e.toNat } 8 0 (s.me.chan e.toNat).route []) }]) ∧
    ((s.me.chan e.toNat).bound.isSome = true → (s.me.chan e.toNat).recv = [] →
      ∃ t, exec (.chrd h p d e) s = .next t ∧ BlocksMe s t ∧
        t.me = { s.me with st := .blocked .channel, probe := 0, on := some (true, e.toNat) }) ∧
    (∀ b, (s.me.chan e.toNat).bound = some b → (s.me.chan e.toNat).deadReader = false → (s.me.chan e.toNat).spill = [] →
      (s.me.chan e.toNat).sent < 16 → s.gone.contains b.who.peer = false →
      ∃ t w, exec (.chwr h p a e) s = .next t ∧ SameMem s t ∧ (∀ m, m ≠ s.act.core → t.core m = s.core m) ∧ t.arch = s.arch ∧
        (t.me.chan e.toNat) = { s.me.chan e.toNat with
          sent := (s.me.chan e.toNat).sent + 1, snum := (s.me.chan e.toNat).snum + 1 } ∧
        (t.stack (stackOf s.act.core)).inject = (s.stack (stackOf s.act.core)).inject ++
          [{ core := some s.act.core, cls := 0, weight := w, dst := b.who.peer
             msg := .cell (chanCell b { who := ctxRef s.act.core s.act.ctx, ep := e.toNat } 7 (s.me.chan e.toNat).snum
               (s.me.chan e.toNat).route (leBytes 8 (s.getS a).toNat)) }]) ∧
    ((s.me.chan e.toNat).bound.isSome = true → (s.me.chan e.toNat).deadReader = false → 16 ≤ (s.me.chan e.toNat).sent →
      s.arch.csr.syncmode.getLsbD 0 = false →
      ∃ t, exec (.chwr h p a e) s = .next t ∧ BlocksMe s t ∧
        t.me = { s.me with st := .blocked .channel, probe := 0, on := some (false, e.toNat) }) ∧
    ((s.me.chan e.toNat).bound = none →
      (∃ t, exec (.chrd h p d e) s = .next t ∧ RaisesWord 17 0 s t) ∧
      (∃ t, exec (.chwr h p a e) s = .next t ∧ RaisesWord 17 0 s t))

/-- The empty bundle puts into the issue queues, in slot order from 1 to 7, one repeat of each held word whose
qualifying predicate reads true: the held word with its bits, marked as held, for the running bundle. It leaves the
other words in the queues, memory and the other cores as they are. (R67, R68, R71) -/
def Obligations.IdleRepeats : Prop :=
  ∀ (a b c d e f : BitVec 3) (x y : BitVec 1) (s : State),
    ∃ t l, exec (.idle a b c d e f x y) s = .next t ∧ OnlyCore s.act.core s t ∧ t.myCore.queue = s.myCore.queue ++ l ∧
      l.map (fun z => (z.slot, z.instr, z.raw, z.ctx, z.seq, z.held)) =
        ([1, 2, 3, 4, 5, 6, 7] : List Nat).filterMap fun i =>
          match s.arch.holdOf i with
          | none => none
          | some h => if s.qual (holdPred h.instr).2 then
              some (engineOf i, h.instr, h.raw, s.act.ctx, s.act.entry.seq, true) else none

/-- Reading a source of W bits: zq gives zero and changes nothing; a pop of v0 to v27 or fl gives the low W bits of
the head row and removes that row alone; a peek gives the low W bits of the row at the peek cursor and moves only the
cursor, back to the head after the last row; a pop of rq gives the random row of position RNGPOS, adds 1 to RNGPOS and
takes one filled row, and a peek of it changes nothing. No other register, context, core or byte of memory changes.
(R79, R80, R83, R119, R133) -/
def Obligations.SourceOperands : Prop :=
  ∀ (s : State) (pk : Bool) (q : BitVec 5) (w : Nat),
    s.src pk 30 w = (0, s) ∧
    (s.src true 29 w).2 = s ∧
    OnlyMine s (s.src false 29 w).2 ∧
    (s.src false 29 w).2.arch = { s.arch with rqn := s.arch.rqn - 1, csr := { s.arch.csr with rngpos := s.arch.csr.rngpos + 1 } } ∧
    (s.src pk 29 w).1.toNat = (randomRow s.arch.csr.seed s.act.core s.act.ctx s.arch.csr.rngpos.toNat).toNat % 2 ^ w ∧
    (q.toNat ≤ 28 → ∀ r rest, (s.arch.queue q).rows = r :: rest → (∀ y ∈ rest, y.id ≠ r.id) →
      (s.src false q w).1.toNat = r.data.toNat % 2 ^ w ∧
      (s.src false q w).2.arch = { s.arch with vq := (s.src false q w).2.arch.vq } ∧
      (s.src false q w).2.arch.queue q = { s.arch.queue q with rows := rest, cur := (s.arch.queue q).cur - 1 } ∧
      OnlyMine s (s.src false q w).2 ∧ ∀ u, u ≠ q → (s.src false q w).2.arch.queue u = s.arch.queue u) ∧
    (q.toNat ≤ 28 → ∀ r, (s.arch.queue q).rows[(s.arch.queue q).cur]? = some r →
      (s.src true q w).1.toNat = r.data.toNat % 2 ^ w ∧ OnlyMine s (s.src true q w).2 ∧
      (s.src true q w).2.arch = { s.arch with vq := (s.src true q w).2.arch.vq } ∧
      (s.src true q w).2.arch.queue q =
        { s.arch.queue q with cur := if (s.arch.queue q).cur + 1 = (s.arch.queue q).rows.length then 0 else (s.arch.queue q).cur + 1 } ∧
      ∀ u, u ≠ q → (s.src true q w).2.arch.queue u = s.arch.queue u)

/-- For every A, B or X word with queue destinations that breaks no limit and names no queue of depth 0 (VDQ with its
scale in the row): execution answers a next state in which its rows are due after the cycles of the table in its
destination queues, in order, nothing else is due, the rows of every word but those of the next statements hold in
each lane, with its flags, what the tables give for the lanes of the sources, its sources have been popped or peeked
in operand order, and memory, the other cores and the other contexts are as before. What a conversion between i8 and
u8 gives, and a VQNT whose B row holds no finite number, are the model's choices (logs 66, 65). (R90, R223, R230,
R232, R234, R235, R236, R237, R239, R243, R244, R248) -/
def Obligations.VectorWordsPush : Prop :=
  ∀ (i : Instr) (s : State) (l : List (Nat × BitVec 5)), pushTable i = some l → Clean s i (info i).rows →
    ∃ t, ∃ x : List (Row × Flags), exec i s = .next t ∧ x.length = l.length ∧
      Issues s t ((List.zip l x).map fun y => (y.1.1, none, FKind.push y.1.2 y.2.1 y.2.2)) ∧
      (∀ r, pushedRows i s = some r → x = r) ∧
      t.arch.vq = (s.srcs ((info i).vsrc ++ if (info i).rq then [(false, 29)] else []) (info i).width).2.arch.vq

/-- For VIADD, VISUB, VIMUL, VAND, VOR, VXOR, VSHL, VSHR and VSAR that pass their checks, the row due two cycles after
issue in the destination queue holds in each lane the result of the lanes of both sources (a shift count of the lane
size or more giving 0, or copies of the sign bit for VSAR), and the word sets no flag. (R90, R223, R233) -/
def Obligations.IntegerLanes : Prop :=
  ∀ (i : Instr) (s : State) (w : BitVec 2) (t : BitVec 3) (d : BitVec 5) (a b : Bool × BitVec 5) (g : Nat → Nat → Nat → Nat),
    intLane i = some (w, t, d, a, b, g) → w.toNat < 3 → Clean s i 1 →
    ∃ u row, exec i s = .next u ∧ Issues s u [(2, none, .push d row 0)] ∧
      ∀ k, k < rowWidth w / intBits t →
        lane (intBits t) k row = g (intBits t) (lane (intBits t) k (s.src a.1 a.2 (rowWidth w)).1)
          (lane (intBits t) k ((s.src a.1 a.2 (rowWidth w)).2.src b.1 b.2 (rowWidth w)).1)

/-- For VADD, VSUB, VMUL, VFMA and VFMS that pass their checks, the row due four cycles after issue is the row of the
lanes, each the exact sum, difference, product or fused result of the source lanes rounded once into the format under
the FPC captured at dispatch, with the flags of all lanes; the accumulator of VFMA and VFMS is popped from the
destination queue after both sources. (R89, R90, R223, R224, R229) -/
def Obligations.FloatLanes : Prop :=
  ∀ (h : BitVec 1) (p t : BitVec 3) (w : BitVec 2) (d a b : BitVec 5) (j k : BitVec 1) (s : State),
    let lb := fmtBits (fmtOf t)
    let n := rowWidth w / lb
    let x := s.src (j == 1) a (rowWidth w)
    let y := x.2.src (k == 1) b (rowWidth w)
    let z := y.2.src false d (rowWidth w)
    let f := s.act.entry.fpc
    let two (op : Nat → Val → Val → Val × Flags) := packLanes lb (List.zipWith (fop2 (fmtOf t) op f) (lanes lb n x.1) (lanes lb n y.1))
    let three (sub : Bool) := packLanes lb ((List.range n).map fun e =>
      ffma (fmtOf t) sub f (lane lb e x.1) (lane lb e y.1) (lane lb e z.1))
    ∀ i r, ((i = .vadd h p w t d j a k b ∧ r = two Val.add) ∨ (i = .vsub h p w t d j a k b ∧ r = two fun m u v => Val.add m u v.neg) ∨
        (i = .vmul h p w t d j a k b ∧ r = two fun _ u v => u.mul v) ∨ (i = .vfma h p w t d j a k b ∧ r = three false) ∨
        (i = .vfms h p w t d j a k b ∧ r = three true)) →
      Clean s i 1 → ∃ u, exec i s = .next u ∧ Issues s u [(4, none, .push d r.1 r.2)]

/-- For VMOV, VBCST, VEXT, VSLD, VPERM and VIOTA that pass their checks, the row due two cycles after issue holds in
each lane the source lane that the word names (every lane of VBCST the numbered lane, lane 0 of VEXT the numbered one
and zero elsewhere, lane i of VSLD lane i + k with k signed, lane i of VPERM the lane that b numbers), a lane outside
the row reading zero, and VIOTA in lane i the number of mask bits set below bit i; no flag is set. (R90, R223, R242,
R246) -/
def Obligations.LaneMovement : Prop :=
  ∀ (h : BitVec 1) (p t m : BitVec 3) (w : BitVec 2) (d a b : BitVec 5) (j k : BitVec 1) (c : BitVec 6) (s : State),
    let lb := intBits t
    let n := rowWidth w / lb
    let x := s.src (j == 1) a (rowWidth w)
    let y := x.2.src (k == 1) b (rowWidth w)
    let at_ (e : Nat) := if e < n then lane lb e x.1 else 0
    w.toNat < 3 →
    (Clean s (.vmov h p w d j a) 1 → ∃ u, exec (.vmov h p w d j a) s = .next u ∧ Issues s u [(2, none, .push d x.1 0)]) ∧
    ∀ (i : Instr) (g : Nat → Nat), ((i = .vbcst h p w t d j a c ∧ g = fun _ => at_ c.toNat) ∨
        (i = .vext h p w t d j a c ∧ g = fun e => if e = 0 then at_ c.toNat else 0) ∨
        (i = .vsld h p w t d j a c ∧ g = fun (e : Nat) => if 0 ≤ (e : Int) + c.toInt then at_ ((e : Int) + c.toInt).toNat else 0) ∨
        (i = .vperm h p w t d j a k b ∧ g = fun e => at_ (lane lb e y.1)) ∨
        (i = .viota h p w t d m ∧ g = fun e =>
          ((List.range e).filter fun v => (s.arch.masks[m.toNat]'m.isLt).getLsbD v).length % 2 ^ lb)) →
      Clean s i 1 → ∃ u row, exec i s = .next u ∧ Issues s u [(2, none, .push d row 0)] ∧ ∀ e, e < n → lane lb e row = g e

/-- For mask words that pass their checks, one write of the named lane mask is due two cycles after issue: MAND, MOR
and MNOT combine masks; VMSK sets the lowest bits up to entry 0 of the popped scale row (256 at most), a standing
scale queue of an earlier run of its slot having advanced; VICMP sets bit i where its condition holds between the
lanes i and clears the bits from n on, and sets no flag; VCMP writes the mask under its condition on values. (R90,
R223, R231, R246) -/
def Obligations.MaskWords : Prop :=
  ∀ (h : BitVec 1) (p d m1 m2 t : BitVec 3) (w c : BitVec 2) (j k : BitVec 1) (a b : BitVec 5) (s : State),
    let mask (m : BitVec 3) := s.arch.masks[m.toNat]'m.isLt
    let x := s.src (j == 1) a (rowWidth w)
    let y := x.2.src (k == 1) b (rowWidth w)
    w.toNat < 3 →
    (∃ u, exec (.mand h p d m1 m2) s = .next u ∧ Issues s u [(2, none, .mask d (mask m1 &&& mask m2) 0)]) ∧
    (∃ u, exec (.mor h p d m1 m2) s = .next u ∧ Issues s u [(2, none, .mask d (mask m1 ||| mask m2) 0)]) ∧
    (∃ u, exec (.mnot h p d m1) s = .next u ∧ Issues s u [(2, none, .mask d (~~~(mask m1)) 0)]) ∧
    (∃ u v, exec (.vmsk h p d t) s = .next u ∧ Issues s u [(2, none, .mask d v 0)] ∧
      ∀ e, e < 256 → v.getLsbD e =
        decide (e < ((s.arch.beginWord (slotNum s.act.entry.slot) s.act.entry.run).kqueue t).top.get 0)) ∧
    (Clean s (.vicmp h p w t c d j a k b) 1 → ∃ u v, exec (.vicmp h p w t c d j a k b) s = .next u ∧
      Issues s u [(2, none, .mask d v 0)] ∧
      ∀ e, v.getLsbD e = (decide (e < rowWidth w / intBits t) && intCond c
        (intVal t (lane (intBits t) e x.1)) (intVal t (lane (intBits t) e y.1)))) ∧
    (Clean s (.vcmp h p w t c d j a k b) 1 → ∃ u v f, exec (.vcmp h p w t c d j a k b) s = .next u ∧
      Issues s u [(2, none, .mask d v f)] ∧
      ∀ e, e < rowWidth w / fmtBits (fmtOf t) → v.getLsbD e = floatCond c
        (operand s.act.entry.fpc (fmtOf t) (lane (fmtBits (fmtOf t)) e x.1))
        (operand s.act.entry.fpc (fmtOf t) (lane (fmtBits (fmtOf t)) e y.1)))

/-- XTLD that passes its checks and whose header row breaks no rule of R351 leaves one table load under way that has
its header row, popped whatever its peek bit, and needs ceil(N / (W / 64)) rows more; a header that breaks R351 raises
cause 17. NOP in slots A, B, X and K schedules no result and leaves memory, queues, scalars and the other cores as
they are; NOP of M leaves every context as it is. (R68, R217, R249, R351) -/
def Obligations.TableLoadAndEngineNops : Prop :=
  ∀ (h : BitVec 1) (p : BitVec 3) (w n : BitVec 2) (j : BitVec 1) (a : BitVec 5) (s : State),
    let x := s.src false a (rowWidth w)
    (Clean s (.xtld h p w n j a) 1 → headerBad x.1 = false → ∃ t, exec (.xtld h p w n j a) s = .next t ∧
      OnlyCore s.act.core s t ∧ t.arch.vq = x.2.arch.vq ∧
      t.myCore = { s.myCore with ctxs := t.myCore.ctxs, multi := s.myCore.multi ++
        [{ entry := s.act.entry, rows := [x.1], need := 1 + (fld x.1 192 8 + rowWidth w / 64) / (rowWidth w / 64) }] }) ∧
    (Clean s (.xtld h p w n j a) 1 → headerBad x.1 = true → ∃ t f, exec (.xtld h p w n j a) s = .next t ∧
      OnlyCore s.act.core s t ∧ t.me.faults = s.me.faults ++ [f] ∧ f.cause = 17) ∧
    (∀ i, i = .nopAb h p ∨ i = .nopX h p ∨ i = .nopK h p → ∃ t, exec i s = .next t ∧ OnlyMine s t ∧
      t.arch = { s.arch with kq := t.arch.kq, runs := t.arch.runs }) ∧
    (∃ t, exec (.nopM h p) s = .next t ∧ OnlyCore s.act.core s t ∧ t.myCore.ctxs = s.myCore.ctxs ∧
      t.myCore.flights = s.myCore.flights ∧ t.myCore.rows = s.myCore.rows)

/-- For every L, T, A, B and X word that names a queue: where it breaks a limit of its own row of the tables it raises
cause 17, and where it breaks none but names a queue of depth 0, or one too shallow for its rows, cause 20, in its own
slot with header and word as TRAPVAL. It pops, pushes and stores nothing. An M word that breaks a limit raises cause
17 (MCHN by its operand), one at a queue of depth 0 cause 20, and MLW, MSWP, MZER, MCHN, MMA and MMAC in an array out
of service, MSWP with an invalid shadow set and MMA or MMAC with an invalid active set cause 50, the sets, the load,
the rows and the chain staying as they are. TAKE of a network that is not configured in the fabric domain of the
context raises cause 17; ARRW whose region would pass the end of the scratchpad raises cause 39 with the scratchpad
address as TRAPVAL; neither is held and nothing else changes. (R201, R322, R332, R339, R345, R346, R347, R349, R361,
R390, R391) -/
def Obligations.EngineLimits : Prop :=
  (∀ (i : Instr) (s : State) (n : Nat), queueRows s i = some n →
      (limitBad s.arch i = true → ∃ t, exec i s = .next t ∧ RaisesWord 17 (slotNum s.act.entry.slot) s t) ∧
      (limitBad s.arch i = false → (depthZero s.arch (info i) || tooMany s.arch (info i) n) = true →
        ∃ t, exec i s = .next t ∧ RaisesWord 20 (slotNum s.act.entry.slot) s t)) ∧
  (∀ (h : BitVec 1) (p t : BitVec 3) (q c : BitVec 5) (s : State) (i : Instr) (v : Dword),
      i = .mlw h p q t ∨ i = .mswp h p ∨ i = .mzer h p ∨ i = .mchn h p q ∨ i = .mma h p q t ∨ i = .mmac h p q c t →
      let stop (cause : Nat) (val : Dword) : Prop := ∃ u, exec i s = .next u ∧ OnlyCore s.act.core s u ∧
        u.me = { s.me with faults := s.me.faults ++
          [{ seq := s.act.entry.seq, slot := slotNum s.act.entry.slot, cause := cause, val := val }] } ∧
        u.myCore.active = s.myCore.active ∧ u.myCore.shadow = s.myCore.shadow ∧ u.myCore.load = s.myCore.load ∧
        u.myCore.rows = s.myCore.rows ∧ u.myCore.chainN = s.myCore.chainN ∧ u.myCore.chainP = s.myCore.chainP
      let word : Dword := s.act.entry.hdr ++ s.act.entry.raw
      let bad : Bool := limitBad s.arch i || (decide (i = .mchn h p q) && chainBad (s.act.core % 8) s.act.entry.ops.x)
      (bad = true → stop 17 word) ∧
      (bad = false → (depthZero s.arch (info i) || tooMany s.arch (info i) 0) = true → stop 20 word) ∧
      (bad = false → Clean s i 0 →
        (s.myCore.oos = true → stop 50 (lossVal 3 s.myCore.failed s.myCore.ply)) ∧
        (s.myCore.oos = false → i = .mswp h p → s.myCore.shadow.lost = some v → stop 50 v) ∧
        (s.myCore.oos = false → i = .mma h p q t ∨ i = .mmac h p q c t → s.myCore.active.lost = some v → stop 50 v))) ∧
  ∀ (h : BitVec 1) (p : BitVec 3) (a b : BitVec 5) (n : BitVec 4) (f : BitVec 6) (s : State),
      (takeReady s n = false → ∃ t, exec (.take h p a n) s = .next t ∧ RaisesWord 17 (slotNum s.act.entry.slot) s t) ∧
      (0x200000 < s.act.entry.ops.x.toNat % 2 ^ 21 / 16 * 16 + 16 + s.act.entry.ops.y.toNat % 2 ^ 32 →
        ∃ t, exec (.arrw h p a b f) s = .next t ∧ OnlyCtx s.act.core s.act.ctx s t ∧
          t.me = { s.me with faults := s.me.faults ++ [{ seq := s.act.entry.seq, slot := slotNum s.act.entry.slot, cause := 39
                                                         val := BitVec.ofNat 64 (s.act.entry.ops.x.toNat % 2 ^ 21) }] })

/-- With no poisoned line: LDS is due to write sD, six cycles after issue, with the 2^SZ bytes at the address plus OFS
x 2^SZ rounded down to 2^SZ, zero-extended and little-endian; LDV pushes one row of its queue's width from the address
rounded down to the row; LDVT pushes 64 lanes, lane r from row r of the swizzled tile, where its rows and the tile lie
inside their bounds. No memory, register or other context changes. (R181, R182, R183, R204, R361) -/
def Obligations.ScratchpadLoads : Prop :=
  ∀ (h : BitVec 1) (p : BitVec 3) (m : BitVec 1) (d b : BitVec 5) (z e : BitVec 2) (o : BitVec 3) (f : BitVec 6) (s : State),
    let a := s.act.entry.ops.addr.toNat % 2 ^ 21
    let sp (x n : Nat) := leNat ((List.range n).map fun i => readByte (spAddr s.act.core (x + i)) s.mem)
    s.poison = [] →
    (∃ t, exec (.lds h p m d b z o f) s = .next t ∧ t.me = s.me ∧
      Issues s t [(6, ordScope o, .sreg d
        (BitVec.ofNat 64 (sp ((a + f.toNat * 2 ^ z.toNat) / 2 ^ z.toNat * 2 ^ z.toNat) (2 ^ z.toNat))))]) ∧
    (Clean s (.ldv h p m d b o) 1 →
      let n := rowWidth (s.arch.queue d).wd / 8
      ∃ t, exec (.ldv h p m d b o) s = .next t ∧ t.me = s.me ∧
        Issues s t [(6, ordScope o, .push d (BitVec.ofNat 2048 (sp (a / n * n) n)) 0)]) ∧
    (Clean s (.ldvt h p m d b e) 1 → e.toNat < 3 → a / 64 % 32 + 2 ^ e.toNat ≤ 32 → a + 63 * 2048 ≤ 0x1FFFFF →
      ∃ t row, exec (.ldvt h p m d b e) s = .next t ∧ t.me = s.me ∧ Issues s t [(6, none, .push d row 0)] ∧
        ∀ r, r < 64 → lane (8 * 2 ^ e.toNat) r row = sp (a / 64 * 64 + 2048 * r + a % 64 * 2 ^ e.toNat) (2 ^ e.toNat))

/-- A global load that passes its checks at issue leaves its results outstanding in order: LDG one scalar; LGV one
landing and PLD one for each named plane, due at issue + 4 x DELTA; TLD as many rows as its tile has; LDX, whose index
row is popped, one row for each index; then one check of the word, which will feed exactly them, and its completion is
scheduled. An acquire carries its scope. Memory and the other cores are as before (shown where the walks of its pages,
which read tables at their slices, make no cache give up words). (R85, R90, R127, R181, R184, R185, R186, R187, R319) -/
def Obligations.GlobalLoads : Prop :=
  ∀ (h : BitVec 1) (p : BitVec 3) (m r : BitVec 1) (d b i k c : BitVec 5) (z ts q : BitVec 2) (o n : BitVec 3) (x : BitVec 8)
      (qm : BitVec 4) (f : BitVec 6) (s : State),
    let e := s.act.entry
    let id := s.myCore.nextId
    let ids (n : Nat) := (List.range n).map (id + ·)
    let g := ordScope o
    (WalksQuietly s (carryW 0) → ∃ t, exec (.ldg h p m d b z o f) s = .next t ∧ t.me = s.me ∧ ChecksAt s t (id + 1) ∧
      Issues s t [(0, g, .gload d 0 false), (0, g, .check e (carryW 0) [id] 0 Places.none_)]) ∧
    (Clean s (.lgv h p m d b x o) 1 → WalksQuietly s (carryW (s.arch.widthOfQueue d)) → ∃ t, exec (.lgv h p m d b x o) s = .next t ∧ t.me = s.me ∧ ChecksAt s t (id + 1) ∧
      Issues s t [(4 * x.toNat, g, .land d 0 false false),
        (0, g, .check e (carryW (s.arch.widthOfQueue d)) [id] 0 Places.none_)]) ∧
    (Clean s (.pld h p d n x q qm) 1 → WalksQuietly s (carryW 0) → ∃ t, exec (.pld h p d n x q qm) s = .next t ∧ t.me = s.me ∧
      ChecksAt s t (id + (planeQueues d qm).length) ∧
      Issues s t ((planeQueues d qm).map (fun v => (4 * x.toNat, none, FKind.land v 0 false false)) ++
        [(0, none, .check e (carryW 0) (ids (planeQueues d qm).length) 0 Places.none_)])) ∧
    (Clean s (.tld h p d k c ts r o) (64 / 2 ^ ts.toNat) → ∃ t, exec (.tld h p d k c ts r o) s = .next t ∧ t.me = s.me ∧
      ChecksAt s t (id + 64 / 2 ^ ts.toNat) ∧
      Issues s t (List.replicate (64 / 2 ^ ts.toNat) (0, g, .ret d 0 false) ++
        [(0, g, .check e (carryW (s.arch.widthOfQueue d)) (ids (64 / 2 ^ ts.toNat)) 0 Places.none_)])) ∧
    (Clean s (.ldx h p m d b i o) (s.arch.widthOfQueue i / 32) →
      let w := s.arch.widthOfQueue i / 32
      WalksQuietly s { idx := (s.src false i (32 * w)).1, width := s.arch.widthOfQueue d, rows := w, mask := 0 } →
      ∃ t, exec (.ldx h p m d b i o) s = .next t ∧ ChecksAt s t (id + w) ∧ t.arch = (s.src false i (32 * w)).2.arch ∧
        Issues s t (List.replicate w (0, g, .ret d 0 false) ++
          [(0, g, .check e { idx := (s.src false i (32 * w)).1, width := s.arch.widthOfQueue d, rows := w, mask := 0 } (ids w) 0
            Places.none_)]))

/-- STS, the fences and DRAIN, CPY and GATH are held as issued, checked; TAKE where its network is configured and ARRW
where its region lies in the scratchpad too. STG, SIGST, ATOM and COLL are held with one check outstanding. STV, SGV,
PST, TST, STX and REDV that pass their checks pop their first row (STX its index row before), are held with it, and
all but STV have their check outstanding. That ARRW rounds its count before the bound is the model's reading (log 24),
and so is the width of a row popped from rq or zq (log 20). In every case the one held word is the running one and no
byte of memory changes (shown where the walks of its pages make no cache give up words). (R188, R189, R190, R192,
R193, R194, R196, R197, R200, R319, R320) -/
def Obligations.HeldWords : Prop :=
  ∀ (i : Instr) (s : State) (src : Option (BitVec 5)) (checked : Bool), holdTable i = some (src, checked) → canHold s i →
    (checked = false → ∀ car, WalksQuietly s car) →
    ∃ t y, exec i s = .next t ∧ SameMem s t ∧ (∀ m, m ≠ s.act.core → t.core m = s.core m) ∧
      t.myCore.held = s.myCore.held ++ [y] ∧ y.id = s.myCore.nextId ∧ y.entry = s.act.entry ∧ y.stage = 0 ∧
      (checked = true → y.checked = true ∧ t.myCore.flights = s.myCore.flights) ∧
      (checked = false → y.checked = false ∧ ∃ f x, t.myCore.flights = s.myCore.flights ++ [f] ∧
        f.kind = .check s.act.entry x [y.id] 0 Places.none_ ∧ ∃ due, (due, Instr.translationComplete s.act.core f.id) ∈ t.sched) ∧
      (src = none → y.rows = [] ∧ t.me = s.me) ∧
      (∀ q, src = some q → y.rows = [((storeState s i).src false q (s.arch.widthOfQueue q)).1] ∧
        t.arch = ((storeState s i).src false q (s.arch.widthOfQueue q)).2.arch)

/-- KSET is due to push, 24 cycles after issue, an entry of N + 1 copies of the low 32 bits of its operand with the
tag of bits 35:32; KRNG to set the seed. KLD, KTAB, KOUT (with N at most 15) and KSKP reserve their entry with its
count (64 for KTAB) and tag, not yet arrived, and leave one check outstanding that feeds it. KOUT with N above 15
raises cause 17. Memory and registers are as before (shown where the walks of the pages make no cache give up words).
(R86, R116, R119, R203, R352) -/
def Obligations.ScaleWords : Prop :=
  ∀ (h : BitVec 1) (p q : BitVec 3) (m : BitVec 1) (b : BitVec 5) (n : BitVec 6) (s : State),
    let e := s.act.entry
    let id := s.myCore.nextId
    let reads (i : Instr) (c : Nat) (tag : BitVec 4) : Prop := ∃ t y, exec i s = .next t ∧ t.me = s.me ∧ ChecksAt s t (id + 1) ∧
      y.count = c ∧ y.tag = tag ∧ y.wait = none ∧
      Issues s t [(24, none, .scale q y false false), (0, none, .check e (carryW 0) [id] 0 Places.none_)]
    (WalksQuietly s (carryW 0) → reads (.kld h p q m b n) (n.toNat + 1) (if m = 1 then e.ops.tag else 0) ∧ reads (.ktab h p q m b) 64 0 ∧
      (n.toNat ≤ 15 → reads (.kout h p q m b n) (n.toNat + 1) 0)) ∧
    (15 < n.toNat → ∃ t, exec (.kout h p q m b n) s = .next t ∧ RaisesWord 17 (slotNum e.slot) s t) ∧
    reads (.kskp h p q b n) (n.toNat + 1) (e.ops.x.extractLsb' 32 4) ∧
    (∃ t y, exec (.kset h p q b n) s = .next t ∧ t.me = s.me ∧ y.count = n.toNat + 1 ∧ y.tag = e.ops.x.extractLsb' 32 4 ∧
      (∀ k, k ≤ n.toNat → lane 32 k y.data = e.ops.x.toNat % 2 ^ 32) ∧ Issues s t [(24, none, .scale q y true false)]) ∧
    (∃ t, exec (.krng h p b) s = .next t ∧ t.me = s.me ∧ Issues s t [(24, none, .krng e.ops.x)])

/-- With the array in service: MLW leaves a load under way for its own word, not yet started; MSWP exchanges the
active and the shadow set where the shadow set is valid; MZER sets both sets to code 0 under PLY; MCHN with a well-
formed operand sets the chain length and position (none below a length of 2). MDRN changes no set and no context. MSTS
writes into sD and removes the context's oldest standing record, or writes 0, an original word having ended its
context's run before; the other standing records stay in their order. No memory, row in flight or other core changes.
(R205, R208, R211, R216, R217, R218, R219, R347) -/
def Obligations.ArrayWords : Prop :=
  ∀ (h : BitVec 1) (p t : BitVec 3) (q d : BitVec 5) (s : State),
    let f (s' : State) : Prop := OnlyCore s.act.core s s' ∧ s'.myCore.flights = s.myCore.flights
    (s.myCore.oos = false →
      (Clean s (.mlw h p q t) 0 → ∃ u l, exec (.mlw h p q t) s = .next u ∧ f u ∧ u.myCore.load = some l ∧
        l.entry = s.act.entry ∧ l.started = false ∧ u.myCore.active = s.myCore.active ∧ u.myCore.shadow = s.myCore.shadow) ∧
      (s.myCore.shadow.lost = none → ∃ u, exec (.mswp h p) s = .next u ∧ f u ∧ u.myCore.active = s.myCore.shadow ∧
        u.myCore.shadow = s.myCore.active ∧ u.myCore.ctxs = s.myCore.ctxs) ∧
      (∃ u, exec (.mzer h p) s = .next u ∧ f u ∧ (∀ x, x = u.myCore.active ∨ x = u.myCore.shadow →
        x.mask = s.myCore.ply ∧ x.ty = 5 ∧ x.lost = none ∧ x.w = List.replicate 64 0)) ∧
      (chainBad (s.act.core % 8) s.act.entry.ops.x = false → ∃ u, exec (.mchn h p q) s = .next u ∧ f u ∧
        u.myCore.chainN = (if s.act.entry.ops.x.toNat % 16 < 2 then 0 else s.act.entry.ops.x.toNat % 16) ∧
        u.myCore.chainP = (if s.act.entry.ops.x.toNat % 16 < 2 then 0 else s.act.entry.ops.x.toNat / 16 % 8))) ∧
    (∃ u, exec (.mdrn h p) s = .next u ∧ f u ∧ u.myCore.active = s.myCore.active ∧ u.myCore.shadow = s.myCore.shadow ∧
      u.myCore.ctxs = s.myCore.ctxs) ∧
    let c := if s.act.entry.orig then s.myCore.endRunOf s.act.ctx else s.myCore
    ((c.recs.map MRec.id).Nodup → ∃ u, exec (.msts h p d) s = .next u ∧ f u ∧
      (d ≠ 0 → u.getS d = match c.recs.find? fun r => r.ctx == some s.act.ctx && r.stands with
        | some r => r.word | none => 0) ∧ (∀ r, r ≠ d → u.getS r = s.getS r) ∧
      u.myCore.recs.filter MRec.stands = (c.recs.filter MRec.stands).eraseP fun r => r.ctx == some s.act.ctx)

/-- MMA or MMAC of a word in service with a valid active set, outside a chain: one row stands last in the array,
issued now, with the output that the active set, its type and its popped activations give (for MMAC with the popped
accumulator row); the next row may enter after the row interval. Memory, results due and the other cores are as
before. (R95, R207, R208, R214, R215) -/
def Obligations.ActivationRows : Prop :=
  ∀ (h : BitVec 1) (p t : BitVec 3) (q c : BitVec 5) (s : State),
    let x := s.src false q (64 * fmtBits (fmtOf t))
    let y := x.2.src false c 2048
    s.myCore.oos = false → s.myCore.active.lost = none → s.myCore.chainN = 0 →
    ∀ (i : Instr) (out : Row) (a : Arch), ((i = .mma h p q t ∧ out = matRow s.myCore.active t x.1 none ∧ a = x.2.arch) ∨
        (i = .mmac h p q c t ∧ out = matRow s.myCore.active t x.1 (some y.1) ∧ a = y.2.arch)) →
      Clean s i 0 →
      ∃ u r, exec i s = .next u ∧ OnlyCore s.act.core s u ∧ u.myCore.flights = s.myCore.flights ∧ u.arch = a ∧
        u.myCore.rows = s.myCore.rows ++ [r] ∧ r.ctx = s.act.ctx ∧ r.seq = s.act.entry.seq ∧ r.instr = s.act.entry.instr ∧
        r.iss = s.myCore.cyc ∧ r.out = out ∧ u.myCore.rowFrom = s.myCore.cyc + rowInterval s.myCore.active t

/-- When a core's current context presents a bundle whose bytes are fetched without poison, whose header and words are
assigned, and that neither blocks, stalls nor faults, a bundle dispatch (or the presentation of a wait bundle again)
records a checkpoint of the registers before it under the context's bundle number with the header's address, raises
that number, puts exactly the words of slots 1 to 7 that are not dropped into the issue queues in slot order, and
leaves the S word, if any runs, to be executed in the same step. Memory and the other cores are as the fetch of the
bundle leaves them, whose lines and translation enter the caches. (R66, R68, R69, R138, R319, R320) -/
def Obligations.DispatchOfABundle : Prop :=
  ∀ (n k : Nat) (s : State) (hdr : Word) (l ws : List Byte),
    let s0 := (s.updCore n fun c => { c with disp := true }).updCtx n k fun x => { x with shown := x.shown + 1 }
    let pc := (s.ctx n k).arch.pc
    let m := s0.metRefusals n k [(pc.toNat / 2 ^ 16 % 2 ^ 41, pc.toNat / 2 ^ 60 % 2 ^ 4)]
    let s1 := m.fetched n k pc
    let b := (s1.core n).shown k pc hdr (slotWords hdr ws)
    k < 4 → (s.core n).cur = some k → (s.ctx n k).replay = false → (s.ctx n k).from_ ≤ (s.core n).cyc →
    s0.passOver n k spaceWords = (s0, .ok l none) → wordOf l = hdr → headerAlone pc hdr = false →
    m.fetch n k (pc + 4) (4 * popCount 8 hdr.toNat) = .ok ws none →
    (hdr.getLsbD 10 = true → ∃ w, m.fetch n k (pc + 4) 4 = .ok w none ∧ opOf (wordOf w) = 23) →
    headerBad' pc hdr (slotWords hdr ws) = false → (∀ w ∈ slotWords hdr ws, w.instr ≠ none) →
    (s.ctx n k).arch.csr.syncmode.getLsbD 1 = false → s1.blockOf n k b = none → s1.stalls n k b = false →
    lowestFault (b.faults (s1.ctx n k) (s1.namesBad n k)) = none → b.whole = true → b.all ≠ [] → b.reps = [] →
    (∀ q ∈ (s.ctx n k).ckpts, q.wait = false ∧ q.seq < (s.ctx n k).seq) →
    ∀ i, i = Instr.bundleDispatch n ∨ i = Instr.waitBundlePresent n →
    ∃ t q, exec i s = .next t ∧ SameMem s1 t ∧ (∀ j, j ≠ n → t.core j = s1.core j) ∧
      (t.ctx n k).ckpts = (s.ctx n k).ckpts ++ [q] ∧ q.seq = (s.ctx n k).seq ∧ q.pc = pc ∧ q.hdr = hdr ∧
      q.arch = (s.ctx n k).arch ∧ (t.ctx n k).seq = (s.ctx n k).seq + 1 ∧
      t.act.sword = b.sWord (s.ctx n k).arch ∧ t.act.core = n ∧ t.act.ctx = k ∧ t.act.entry.pc = pc ∧ t.act.entry.hdr = hdr ∧
      ((t.core n).queue.drop (s.core n).queue.length).map (fun e => (e.ctx, e.seq, slotNum e.slot, e.instr, e.raw)) =
        (b.now.filter fun w => w.1.slot != 0 && !b.drops (s.ctx n k).arch w.2).map fun w =>
          (k, (s.ctx n k).seq, slotNum (engineOf w.1.slot), w.2, w.1.raw)

/-- With the flight of the named number present (and no acquire wider than its stack): a pipeline result pushes its
row at the tail of its queue, cut to the queue's width, and ORs its flags into VSTAT, or writes its scalar and clears
the pending mark, or its lane mask, or the seed with RNGPOS 0; a global load return whose data is ready writes its
scalar or pushes its row; a landing whose data has come is pushed; a scale entry whose data has come joins the tail of
its ring. The flight is gone, and memory and the other cores are as before. (R70, R80, R85, R86, R90, R119, R204,
R385) -/
def Obligations.ResultsDelivered : Prop :=
  ∀ (n id : Nat) (s : State) (f : Flight), (s.core n).flight id = some f → (∀ sc, f.acq = some sc → sc.toNat < 4) →
    (s.ctx n f.ctx).st ≠ .saving →
    let done (i : Instr) (p : Arch → Arch → Prop) : Prop := ∃ t, exec i s = .next t ∧ SameMem s t ∧
      (∀ m, m ≠ n → t.core m = s.core m) ∧ (t.core n).flights = (s.core n).flights.filter (fun g => g.id != id) ∧
      p (s.ctx n f.ctx).arch (t.ctx n f.ctx).arch
    let pushed (q : BitVec 5) (x : Row) (fl : Flags) (a b : Arch) : Prop :=
      b = { a with vq := b.vq, csr := { a.csr with vstat := a.csr.vstat ||| fl.setWidth 64 } } ∧
      (∀ r, r ≠ q → b.queue r = a.queue r) ∧
      b.queue q = { a.queue q with rows := (a.queue q).rows ++
        [{ id := (s.core n).nextId, data := lowBits (rowWidth (a.queue q).wd) x, wait := none }] }
    let written (d : BitVec 5) (v : Dword) (a b : Arch) : Prop :=
      (∀ r, b.getS r = if r = d ∧ d ≠ 0 then v else a.getS r) ∧ b.pend.getLsbD d.toNat = false ∧
      b = { a with sr := b.sr, pend := b.pend }
    (∀ q x fl, f.kind = .push q x fl → done (.pipelineResult n id) (pushed q x fl)) ∧
    (∀ d v, f.kind = .sreg d v → done (.pipelineResult n id) (written d v)) ∧
    (∀ m v fl, f.kind = .mask m v fl → done (.pipelineResult n id) fun a b =>
      b.masks.toList = a.masks.toList.set m.toNat v ∧ b.csr.vstat = a.csr.vstat ||| fl.setWidth 64) ∧
    (∀ x, f.kind = .krng x → done (.pipelineResult n id) fun a b => b.csr.seed = x ∧ b.csr.rngpos = 0 ∧ b.sr = a.sr) ∧
    (∀ d v, f.kind = .gload d v true → done (.globalLoadReturn n id) (written d v)) ∧
    (∀ q x, f.kind = .ret q x true → done (.globalLoadReturn n id) (pushed q x 0)) ∧
    (∀ q x, f.kind = .land q x true false → done (.landingPush n id) (pushed q x 0)) ∧
    (∀ k e, f.kind = .scale k e true false → done (.scalePush n id) fun a b =>
      b.kqueue k = (a.kqueue k).push e ∧ ∀ r, r ≠ k → b.kqueue r = a.kqueue r)

/-- A landing or scale push whose data has not come puts a row or entry that names its flight at the tail; the late
arrival of a landing fills the row wherever it stands and ends its flight, and a core frozen on that flight runs
again; a core frozen on a flight that times out gets zero for it, runs again, and the context of the flight has an
asynchronous trap of cause 65 waiting. (R57, R81, R85, R86, R355, R388) -/
def Obligations.LateData : Prop :=
  ∀ (n id : Nat) (s : State) (f : Flight), (s.core n).flight id = some f → f.id = id → f.acq = none →
    (∀ q x, f.kind = .land q x false false → ∃ t, exec (.landingPush n id) s = .next t ∧ SameMem s t ∧
      ((t.ctx n f.ctx).arch.queue q).rows = ((s.ctx n f.ctx).arch.queue q).rows ++
        [{ id := (s.core n).nextId, data := 0, wait := some id }]) ∧
    (∀ k e, f.kind = .scale k e false false → ∃ t, exec (.scalePush n id) s = .next t ∧ SameMem s t ∧
      (t.ctx n f.ctx).arch.kqueue k = ((s.ctx n f.ctx).arch.kqueue k).push { e with data := 0, wait := some id }) ∧
    (∀ q x r, f.kind = .land q x r true → ∃ t, exec (.landingLateArrival n id) s = .next t ∧ SameMem s t ∧
      ((t.ctx n f.ctx).arch.queue q).rows = ((s.ctx n f.ctx).arch.queue q).rows.map (fun y =>
        if y.wait = some id then { y with data := lowBits (rowWidth ((s.ctx n f.ctx).arch.queue q).wd) x, wait := none } else y) ∧
      (∀ g ∈ (t.core n).flights, g.id ≠ id) ∧
      (∀ since, (s.core n).clk = .frozen id since .running → (t.core n).clk = .running)) ∧
    (∀ q x r since, f.kind = .land q x r true → (s.core n).clk = .frozen id since .running →
      ∃ t v, exec (.freezeTimeout n) s = .next t ∧ SameMem s t ∧ (t.core n).clk = .running ∧
        (65, v) ∈ (t.ctx n f.ctx).asyncs ∧
        ((t.ctx n f.ctx).arch.queue q).rows = ((s.ctx n f.ctx).arch.queue q).rows.map (fun y =>
          if y.wait = some id then { y with data := 0, wait := none } else y))

/-- When a fault of context k is due, TRAPVEC is not 0 and IH is 0 at its bundle b: the registers become those of b's
checkpoint except that TRAPPC is b's header address, TRAPCAUSE the slot and cause, TRAPVAL the value, IH is 1, the pc
is TRAPVEC, the shadow holds the restored hold state and open loop levels (and whether numeric traps were off for b),
every hold is clear and every level closed with its LIDX kept; the words of b and later bundles leave queues and
results due, their checkpoints are gone, and the first handler bundle dispatches three cycles on. Memory, and every
core but this and its tandem neighbour, is as before. (R319, R320, R321, R323) -/
def Obligations.FaultEntry : Prop :=
  ∀ (n k : Nat) (s : State) (p : Pending) (q : Ckpt), (s.core n).trapDue k = some p → p.cause ≠ stopCause →
    (s.ctx n k).ckptFrom p.seq = some q → q.arch.csr.trapvec ≠ 0 → q.arch.ih = false →
    ∃ t, exec (.faultTaken n k) s = .next t ∧ SameMem s t ∧ (∀ m, m ≠ n → m ≠ n + 1 → t.core m = s.core m) ∧
      (t.ctx n k).arch = { q.arch with
        csr := { q.arch.csr with trappc := q.pc, trapcause := BitVec.ofNat 64 (p.slot % 8 * 256 + p.cause % 256), trapval := p.val }
        ih := true, pc := q.arch.csr.trapvec, holds := Vector.replicate 8 none, loops := [], skip := 0, grp := { n := 0, accs := [] }
        entered := 0, quiet := false
        shadow := { holds := q.arch.holds, loops := q.arch.loops, skip := q.arch.skip
                    entered := q.arch.entered, entAt := q.arch.entAt, quiet := if q.arch.quiet then some q.pc else none } } ∧
      (t.ctx n k).from_ = (s.core n).time + 3 ∧
      (t.ctx n k).ckpts = (s.ctx n k).ckpts.filter (fun x => decide (x.seq < p.seq)) ∧
      (t.core n).queue = (s.core n).queue.filter (fun e => !(e.ctx == k && decide (p.seq ≤ e.seq))) ∧
      (t.core n).flights = (s.core n).flights.filter (fun f => !(f.ctx == k && decide (p.seq ≤ f.seq)))

/-- When an asynchronous trap of context k is due and TRAPVEC is not 0: TRAPPC is the address of the next undispatched
bundle, TRAPCAUSE the cause in slot 0, TRAPVAL its value, IH 1 and the pc TRAPVEC; hold state and open loop levels
stand in the shadow and are clear; no other scalar, predicate, queue or special register changes, nor does memory or
any other core; the trap waits no longer and no waiting one has a lower code. (R321, R323, R325) -/
def Obligations.AsyncTrapEntry : Prop :=
  ∀ (n k : Nat) (s : State) (cause : Nat) (v : Dword), (s.core n).asyncDue k = some (cause, v) →
    (s.ctx n k).arch.csr.trapvec ≠ 0 →
    ∃ t, exec (.asyncTrapTaken n k) s = .next t ∧ SameMem s t ∧ (∀ m, m ≠ n → t.core m = s.core m) ∧
      (t.ctx n k).arch = { (s.ctx n k).arch with
        csr := { (s.ctx n k).arch.csr with trappc := (s.ctx n k).arch.pc, trapcause := BitVec.ofNat 64 (cause % 256), trapval := v }
        ih := true, pc := (s.ctx n k).arch.csr.trapvec, holds := Vector.replicate 8 none, loops := [], skip := 0
        grp := { n := 0, accs := [] }, entered := 0, quiet := false
        shadow := { holds := (s.ctx n k).arch.holds, loops := (s.ctx n k).arch.loops, skip := (s.ctx n k).arch.skip
                    entered := (s.ctx n k).arch.entered, entAt := (s.ctx n k).arch.entAt
                    quiet := if (s.ctx n k).arch.quiet then some (s.ctx n k).arch.pc else none } } ∧
      (t.ctx n k).asyncs = (s.ctx n k).asyncs.erase (cause, v) ∧ (∀ x ∈ (s.ctx n k).asyncs, cause ≤ x.1) ∧
      (t.ctx n k).from_ = (s.core n).time + 3

/-- Bundle retirement always goes on. It removes the oldest checkpoint and hands the bundle's held words over, behind
those that wait: where no word waits, or the first still lacks rows, nothing else changes; a lone word, its accesses
and those before it done, performs and is gone. Performing, STS and STV put their value or row into the scratchpad,
rounded down to its size; STG and SIGST the bytes of their value, or one element of a plane narrower than 8 bits; SGV
the lanes of its row that its mask names, PST, TST and STX the lanes of each row into the elements of that row; REDV
the combination of each lane with what stands there; ATOM its new value, with the old one on its way to sD; ARRW the
arrival word (shown where the places lie at home and are written there). That held words perform in order, the first
one first, is the model's reading (log 29). Without a checkpoint nothing happens. The queue wait limit's own effect is
the detection of cause 20, in the slot and bundle of the first waiting word of the engine with header and word as
TRAPVAL; the counts of that slot start again. Without a waiting word nothing happens. (R178, R188, R189, R190, R191,
R192, R193, R194, R195, R201, R320, R340) -/
def Obligations.RetirementAndWaitLimit : Prop :=
  ∀ (n k : Nat) (e : Engine) (s : State),
    (∃ t, exec (.bundleRetire n k) s = .next t) ∧
    ((s.ctx n k).ckpts = [] → exec (.bundleRetire n k) s = .next s) ∧
    (∀ q r, (s.ctx n k).ckpts = q :: r →
      let mine (h : Held) : Bool := h.entry.ctx == k && h.entry.seq == q.seq
      let words := (s.ctx n k).wq ++ (s.core n).held.filter mine
      ((∀ h ∈ words.head?, h.rows.length < h.need) → ∃ t, exec (.bundleRetire n k) s = .next t ∧ OnlyCore n s t ∧
        t.core n = { s.core n with
          ctxs := (t.core n).ctxs, held := (s.core n).held.filter (fun h => !mine h)
          taken := (s.core n).taken.filter fun x => !(x.1 == k && x.2.1 == q.seq) } ∧
        t.ctx n k = { s.ctx n k with wq := words, ckpts := r }) ∧
      (∀ (h : Held), words = [h] → isWait h.entry.instr = false → h.stage = 0 → h.checked = true → h.need ≤ h.rows.length →
        (s.core n).queue = [] → (s.core n).flights = [] → (s.core n).held.filter (fun x => !mine x) = [] → s.reqs = [] →
        (s.stack (stackOf n)).remote = [] → (∀ c ∈ s.cores, c.2.l1 = []) → (∀ u, (s.stack u).swaps = []) →
        (∀ x ∈ s.heldSpans n k h, ∀ b, x.1 ≤ b → b < x.1 + x.2 → nearAt (stackOf n) b = true → InSlice s b) →
        ((∃ a b c d x y z, h.entry.instr = .sigst a b c d x y z) → ∀ x ∈ s.heldSpans n k h, ∀ b, x.1 ≤ b → b < x.1 + x.2 →
          nearAt (stackOf n) b = true) →
        ∃ t, exec (.bundleRetire n k) s = .next t ∧ (t.ctx n k).wq = [] ∧ (t.ctx n k).ckpts = r ∧
          (t.ctx n k).arch = (s.ctx n k).arch ∧ ∀ a, readByte a t.mem = readByte a (s.performStore n k h).mem)) ∧
    (∀ (h : Held) (p : Places), h.places = some p → MemInv s → s.poison = [] →
      (∀ x ∈ p.spans, AtHome s x.1 x.2 ∧ ∀ b, x.1 ≤ b → b < x.1 + x.2 → nearAt (stackOf n) b = true) →
      (thruHome h.entry.instr = true ∨ ∀ x ∈ p.spans, uncached x.1 = true) →
      let t := s.performStore n k h
      let v := h.entry.ops.x
      let addr := h.entry.ops.addr.toNat % 2 ^ 21
      let row (j : Nat) := h.rows.getD j 0
      let byRow := (List.range p.rows.length).flatMap fun j => laneValues (p.rows.getD j (8, [])) (row j) fun _ => true
      ∀ (h0 me en : BitVec 1) (q d b c : BitVec 5) (p0 o y : BitVec 3) (z ts : BitVec 2) (m op : BitVec 4) (f : BitVec 6),
        (h.entry.instr = .sts h0 p0 me d b z o f →
          Lands (spAddr n ((addr + f.toNat * 2 ^ z.toNat) / 2 ^ z.toNat * 2 ^ z.toNat)) (leBytes (2 ^ z.toNat) v.toNat) s t) ∧
        (h.entry.instr = .stv h0 p0 me d b o →
          Lands (spAddr n (addr / (h.car.width / 8) * (h.car.width / 8))) (leBytes (h.car.width / 8) (row 0).toNat) s t) ∧
        ((h.entry.instr = .stg h0 p0 me d b z o f ∨ (h.entry.instr = .sigst h0 p0 me d b o f ∧ z = 3)) →
          (p.w < 8 → Stores (p.rows.flatMap fun r => r.2.map fun x => (x, v.toNat)) s t) ∧
          (8 ≤ p.w → ∀ a, p.start = some a → AtHome s a (2 ^ z.toNat) → (∀ x, x < 2 ^ z.toNat → nearAt (stackOf n) (a + x) = true) →
            Lands a (leBytes (2 ^ z.toNat) v.toNat) s t)) ∧
        (h.entry.instr = .sgv h0 p0 me d b en y o →
          Stores (p.rows.flatMap fun r => laneValues r (row 0) fun i =>
            en == 0 || h.car.mask.getLsbD (if p.w < 8 then i * r.1 / 8 else i)) s t) ∧
        ((h.entry.instr = .pst h0 p0 d o z m ∨ h.entry.instr = .tst h0 p0 d q c ts me o ∨ h.entry.instr = .stx h0 p0 me d b c o) →
          Stores byRow s t) ∧
        (h.entry.instr = .redv h0 p0 me d b z o → ∀ r, p.rows = [r] → r.1 * r.2.length ≤ 2048 → ∃ old new : Row,
          (∀ i, i < r.2.length → lane r.1 i old = elemNat s (r.2.getD i (.fixed 0)) % 2 ^ r.1) ∧
          (∀ i, i < r.1 * r.2.length / redvBits z.toNat → lane (redvBits z.toNat) i new =
            redvLane z.toNat h.entry.fpc (lane (redvBits z.toNat) i old) (lane (redvBits z.toNat) i (row 0))) ∧
          Stores (laneValues r new fun _ => true) s t) ∧
        (h.entry.instr = .atom h0 p0 op d b c o → ∀ a, p.start = some a →
          let w := if op = 10 then 4 else 8
          let old := BitVec.ofNat 64 (memNat s a w)
          AtHome s a w → (∀ x, x < w → nearAt (stackOf n) (a + x) = true) →
          Lands a (leBytes w (atomNew op.toNat h.entry.fpc old v h.entry.ops.y).toNat) s t ∧
          ∃ g ∈ (t.core n).flights, g.id = (s.core n).nextId ∧ g.kind = .gload d old true) ∧
        (h.entry.instr = .arrw h0 p0 d b f →
          let a := spAddr n (v.toNat % 2 ^ 21 / 16 * 16)
          Lands a (leBytes 16 (h.entry.ops.y.toNat % 2 ^ 32 + memNat s (a + 8) 4 * 2 ^ 64 + f.toNat * 2 ^ 96 + 2 ^ 103)) s t)) ∧
    ((s.core n).firstOf k e = none → exec (.queueWaitLimit n k e) s = .next s) ∧
    (∀ w, (s.core n).firstOf k e = some w → ∃ t, exec (.queueWaitLimit n k e) s = .next t ∧ OnlyCtx n k s t ∧
      t.ctx n k = { s.ctx n k with
        waits := (t.ctx n k).waits
        faults := (s.ctx n k).faults ++ [{ seq := w.seq, slot := slotNum e, cause := 20, val := (w.hdr ++ w.raw : BitVec 64) }] } ∧
      ∀ j, (t.ctx n k).waits.toList.getD j (0, 0) = if j = slotNum e then (0, 0) else (s.ctx n k).waits.toList.getD j (0, 0))

/-- The context chosen is Ready: the lowest-numbered one whose wait counter stands at 4096 or more, if there is one;
else one of the highest launch priority among the Ready, of those the first in number order after the context last
current. None is chosen only when none is Ready. A context switch starts a two-cycle switch to it, or lets the core
freewheel; a raised wait counter first makes the current context Ready, its count cleared, and then so chooses; a wake
adds the stopped cycles to CYC and resumes the context last current at once, or starts the switch to another. Only the
core itself changes. (R55, R56) -/
def Obligations.ContextChoice : Prop :=
  (∀ c : Core,
    let ready (j : Nat) : Prop := j < 4 ∧ (c.ctx j).st = .ready
    let prio (j : Nat) : Nat := match (c.ctx j).bnd with | some b => b.prio | none => 0
    (c.choose = none ↔ ∀ j, ¬ ready j) ∧
    ∀ k, c.choose = some k → ready k ∧
      ((∃ j, ready j ∧ 4096 ≤ (c.ctx j).waitCnt) → 4096 ≤ (c.ctx k).waitCnt ∧ ∀ j, j < k → ready j → (c.ctx j).waitCnt < 4096) ∧
      ((∀ j, ready j → (c.ctx j).waitCnt < 4096) → ∀ j, ready j → prio j ≤ prio k ∧
        (prio j = prio k → (k + 3 - c.last % 4) % 4 ≤ (j + 3 - c.last % 4) % 4))) ∧
  ∀ (n : Nat) (s : State),
    (∃ t, exec (.contextSwitch n) s = .next t ∧ OnlyCore n s t ∧ (t.core n).cur = none ∧ (t.core n).ctxs = (s.core n).ctxs ∧
      (t.core n).clk = match (s.core n).choose with | some k => .switching 2 k | none => .freewheel false) ∧
    (∀ k, (s.core n).cur = some k → k < 4 → (s.ctx n k).st = .current → ∃ t, exec (.waitCounterRaise n) s = .next t ∧ OnlyCore n s t ∧
      (t.ctx n k).st = .ready ∧ (t.core n).cur = none ∧
      ∃ j, ((s.core n).updCtx k fun x => { x with st := .ready, waitCnt := 0 }).choose = some j ∧ (t.core n).clk = .switching 2 j) ∧
    (∀ k, (s.core n).choose = some k → ∃ t, exec (.freewheelWake n) s = .next t ∧ OnlyCore n s t ∧
      (t.core n).cyc = (s.core n).cyc + (s.core n).stopped ∧ (t.core n).stopped = 0 ∧
      (k = (s.core n).last → (t.core n).cur = some k ∧ (t.core n).clk = .running ∧ (t.ctx n k).st = .current) ∧
      (k ≠ (s.core n).last → (t.core n).clk = .switching 2 k))

/-- A weight load start captures PLY as the load's mask; its completion puts the loaded rows with the load's type and
mask into the shadow set, rows not loaded being code 0, ends the load and pushes a completion record of OPC 1 with the
rows loaded and the mask, which MSTAT then reads; a starved load ends so too, with the rows loaded so far, and its
context has cause 68 waiting with the word and their number; the set is invalid only where a failed ply held a group
of the load; a row push moves the oldest row of the array to the tail of fl of its context (not one being saved); a
tandem row arrives in the buffer where it stands. Memory and the other cores are as before. (R163, R205, R207, R213,
R217, R218, R220, R389, R399) -/
def Obligations.MatrixEvents : Prop :=
  ∀ (n : Nat) (row : BitVec 1024) (s : State),
    let only (t : State) : Prop := SameMem s t ∧ ∀ m, m ≠ n → t.core m = s.core m
    (∀ l, (s.core n).load = some l →
      (∃ t, exec (.mlwLoadStart n) s = .next t ∧ only t ∧
        (t.core n).load = some { l with started := true, start := (s.core n).cyc, mask := (s.core n).ply }) ∧
      let ends (t : State) : Prop := only t ∧ (t.core n).load = none ∧ (t.core n).active = (s.core n).active ∧
        (∀ h p q ty, l.entry.instr = .mlw h p q ty → (t.core n).shadow.ty = ty) ∧ (t.core n).shadow.mask = l.mask ∧
        (t.core n).shadow.w = l.rows ++ List.replicate (64 - l.rows.length) 0 ∧ (t.core n).shadow.lost = l.lost ∧
        (∃ x, (t.core n).recs.getLast? = some x ∧ x.stands = true ∧ x.ctx = some l.entry.ctx ∧ x.opc = 1 ∧ x.rows.n = l.rows.length ∧
          x.mask = l.mask) ∧
        (t.core n).mstat = mRecord 1 l.rows.length l.mask
      (∃ t, exec (.mlwComplete n) s = .next t ∧ ends t) ∧
      (∃ t, exec (.mlwStarved n) s = .next t ∧ ends t ∧
        (68, BitVec.ofNat 64 (l.entry.raw.toNat + l.rows.length % 128 * 2 ^ 32)) ∈ (t.ctx n l.entry.ctx).asyncs)) ∧
    (∀ r rest, (s.core n).rows = r :: rest → (s.ctx n r.ctx).st ≠ .saving →
      ∃ t x, exec (.matrixRowPush n) s = .next t ∧ only t ∧ (t.core n).rows = rest ∧
        ((t.ctx n r.ctx).arch.queue 28).rows = ((s.ctx n r.ctx).arch.queue 28).rows ++ [x] ∧
        x.data = lowBits (rowWidth ((s.ctx n r.ctx).arch.queue 28).wd) r.out ∧ x.wait = none) ∧
    (∃ t, exec (.tandemRowArrival n row) s = .next t ∧ OnlyCore n s t ∧
      (t.core n).tandem = (s.core n).tandem.map fun x => if x.due = s.now ∧ x.row = row then { x with due := 0 } else x)

/-- A governor update that leaves at least two usable plies makes PLY the given mask without the failed plies;
otherwise nothing happens. The first failure of a ply marks it failed, takes it out of PLY, puts the array out of
service where fewer than two usable plies are left, and makes invalid each weight set that held a group in it. A
parity error makes invalid only the set that it names. Memory is as before. (R160, R209, R389, R390, R391) -/
def Obligations.PlyEvents : Prop :=
  ∀ (n : Nat) (mask : BitVec 4) (why : SkipCause) (ply : BitVec 2) (act : Bool) (s : State),
    ((s.core n).oos = false → 2 ≤ popCount 4 (mask &&& ~~~(s.core n).failed).toNat →
      ∃ t, exec (.plyUpdate n mask why) s = .next t ∧ SameMem s t ∧ (t.core n).ply = mask &&& ~~~(s.core n).failed ∧
        (t.core n).ctxs = (s.core n).ctxs) ∧
    (((s.core n).oos = true ∨ popCount 4 (mask &&& ~~~(s.core n).failed).toNat < 2) → exec (.plyUpdate n mask why) s = .next s) ∧
    ((s.core n).failed.getLsbD ply.toNat = false → ∃ t, exec (.plyFailure n ply) s = .next t ∧ SameMem s t ∧
      (∀ q : BitVec 2, (t.core n).failed.getLsbD q.toNat = ((s.core n).failed.getLsbD q.toNat || q == ply)) ∧
      (t.core n).ply.getLsbD ply.toNat = false ∧
      (popCount 4 (~~~(t.core n).failed).toNat < 2 → (t.core n).oos = true ∧ (t.core n).ply = 0) ∧
      ((s.core n).active.mask.getLsbD ply.toNat = true → (t.core n).active.lost.isSome = true) ∧
      ((s.core n).active.mask.getLsbD ply.toNat = false → (t.core n).active = (s.core n).active) ∧
      ((s.core n).shadow.mask.getLsbD ply.toNat = true → (t.core n).shadow.lost.isSome = true) ∧
      ((s.core n).shadow.mask.getLsbD ply.toNat = false → (t.core n).shadow = (s.core n).shadow)) ∧
    (∃ t, exec (.weightParityError n act) s = .next t ∧ SameMem s t ∧
      (act = true → (t.core n).active.lost.isSome = true ∧ (t.core n).shadow = (s.core n).shadow) ∧
      (act = false → (t.core n).shadow.lost.isSome = true ∧ (t.core n).active = (s.core n).active))

/-- An rq refill adds one filled row up to 8. Spill space for the endpoint that waits makes the context Ready; its
word joins those spilled, goes at once where nothing sent is awaited (log 72), and is not kept for a broken end. A
plane-agent answer whose turn has come ends the wait: without a plane set table it raises cause 37 in slot 0 of its
bundle; a request that breaks no rule writes its plane entry and the plane count, for a PDEL that reclaims no frame,
and raises nothing. A paging completion for a page that is present, or whose plane or tables are gone, leaves the
contexts stopped on it Ready and writes nothing; a missing page gets the agent's frame in the tier that TIER gives,
pinned first where that is 1, filled as R37 says, with FPA and P in its entry, and they are Ready; a refusal stays
with them. A completed save leaves the context Saved, with no result of it due; every byte outside its save area (pool
and 58 KiB) reads as before (shown with no copy that a cache could give up), where the area lies and how it is laid
out being the model's choice (logs 11 and 18). (R33, R37, R62, R83, R171, R356, R357, R358, R359, R373, R400) -/
def Obligations.PagingAndAgentEvents : Prop :=
  ∀ (n k ep : Nat) (s : State), k < 4 → ep < 8 →
    (∃ t, exec (.rqRefill n k) s = .next t ∧ OnlyCore n s t ∧
      (t.ctx n k).arch = { (s.ctx n k).arch with rqn := min 8 ((s.ctx n k).arch.rqn + 1) }) ∧
    (∀ w, (s.ctx n k).agent = some (.spill ep w) → (s.ctx n k).st = .blocked .spill →
      let c := (s.ctx n k).chan ep
      ∃ t, exec (.spillSpaceAllocated n k ep) s = .next t ∧ SameMem s t ∧ (t.ctx n k).st = .ready ∧ (t.ctx n k).agent = none ∧
        (c.broken.isSome = true → OnlyCtx n k s t ∧ (t.ctx n k).chan ep = { c with space := true }) ∧
        (c.broken = none → (c.sent ≠ 0 ∨ c.spill ≠ []) →
          OnlyCtx n k s t ∧ (t.ctx n k).chan ep = { c with space := true, spill := c.spill ++ [w] }) ∧
        (∀ b, c.broken = none → c.sent = 0 → c.spill = [] → c.bound = some b → s.gone.contains b.who.peer = false →
          (t.ctx n k).chan ep = { c with space := true, sent := 1, snum := c.snum + 1 } ∧ ∃ v, Injects (stackOf n) s t
            [{ core := some n, cls := 0, weight := v, dst := b.who.peer
               msg := .cell (chanCell b { who := ctxRef n k, ep := ep } 7 c.snum c.route (leBytes 8 w.toNat)) }])) ∧
    (∀ op i q spec primer seq, (s.ctx n k).agent = some (.plane op i q spec primer seq) → (s.ctx n k).st = .blocked .plane →
      (s.fw.planes = [] ∨ s.fw.planes.head? = some (n, k)) → s.firmOut = false →
      let asn := (s.ctx n k).asn
      let goesOn (t : State) (l : List Pending) : Prop :=
        (t.ctx n k).st = .ready ∧ (t.ctx n k).agent = none ∧ (t.ctx n k).faults = (s.ctx n k).faults ++ l ∧
        (∀ c ∈ (t.ctx n k).ckpts, c.agent = false) ∧ t.fw.planes = s.fw.planes.filter (fun x => x != (n, k))
      ((s.space asn).base = none → ∃ t, exec (.planeAgentAnswer n k) s = .next t ∧ OnlyCtx n k s { t with fw := s.fw } ∧
        goesOn t [{ seq := seq, slot := 0, cause := 37, val := BitVec.ofNat 64 (q % 16 * 2 ^ 60 + i % 4096) }]) ∧
      (∀ a e0 eq, q < 16 → s.setAddr asn i = some a → s.tab asn a 16 = .ok e0 → s.tab asn (a + 16 * q) 16 = .ok eq →
        planeOpBad op q e0 eq = false → AtHome s a 256 → Settled s a 256 → (op = 1 → s.planeFrames asn i q = { got := [], need := [] }) →
        ∃ t, exec (.planeAgentAnswer n k) s = .next t ∧ goesOn t [] ∧ ∀ b, readByte b t.mem =
          if a + 16 * q ≤ b ∧ b < a + 16 * q + 16 then (leBytes 16 (planeOpEntry op eq spec primer)).getD (b - (a + 16 * q)) 0
          else if op = 0 ∧ b = a + 4 then BitVec.ofNat 8 (nbits e0 32 4 + (nbits e0 36 4 + 1) * 16)
          else if op = 1 ∧ b = a + 4 then BitVec.ofNat 8 (nbits e0 32 4 + (nbits e0 36 4 - 1) * 16)
          else readByte b s.mem)) ∧
    (∀ q seq, (s.ctx n k).agent = some (.applied q seq) → (s.ctx n k).st = .blocked .plane → s.firmOut = false →
      ∃ t, exec (.planeAgentAnswer n k) s = .next t ∧ SameMem s t ∧ (t.ctx n k).st = .ready ∧ (t.ctx n k).agent = none ∧
        (t.ctx n k).faults = (s.ctx n k).faults ∧ ∀ c ∈ (t.ctx n k).ckpts, c.agent = false) ∧
    (∀ r : PageSupply, (s.ctx n k).agent = some (.frame r.page r.plane) → (s.ctx n k).asn = r.asn →
      (s.ctx n k).st = .blocked .paging → (∃ c, (n, c) ∈ s.cores) →
      let goesOn (t : State) (l : List (Nat × Nat)) : Prop :=
        (t.ctx n k).st = .ready ∧ (t.ctx n k).agent = none ∧ (t.ctx n k).refusals = (s.ctx n k).refusals ++ l ∧
        (t.ctx n k).arch = (s.ctx n k).arch ∧ (r.asn, r.page, r.plane) ∉ t.fw.asked
      (r.ok = false → ∃ t, exec (.pagingComplete r) s = .next t ∧ SameMem s t ∧ goesOn t [(r.page, r.plane)]) ∧
      (r.ok = true → s.pageEntries r.asn r.page r.plane = .bad →
        ∃ t, exec (.pagingComplete r) s = .next t ∧ SameMem s t ∧ goesOn t []) ∧
      (∀ e pe fe, r.ok = true → s.pageEntries r.asn r.page r.plane = .ok e pe fe → s.firmOut = false →
        (nbits pe 0 1 = 0 ∨ nbits fe 57 1 = 1 → ∃ t, exec (.pagingComplete r) s = .next t ∧ SameMem s t ∧ goesOn t []) ∧
        (∀ fr s1, nbits pe 0 1 = 1 → nbits fe 57 1 = 0 →
          s.allocate (frameAddr e r.plane) (frameSize pe) (nbits fe 60 2) = some (fr, s1) →
          (fr.tier = 1 → s1.pinned (stackAt fr.fpa) (fr.fpa % 2 ^ 45) fr.size = true) →
          let a := fr.fpa
          let l := supplyBytes r pe fe
          let x := frameAddr e r.plane
          AtHome s a l.length → AtHome s x 16 → Settled s a l.length → Settled s x 16 → (x + 16 ≤ a ∨ a + l.length ≤ x) →
          fr.tier = nbits fe 60 2 ∧ fr.size = frameSize pe ∧ fr.entry = x ∧
          ∃ t, exec (.pagingComplete r) s = .next t ∧ goesOn t [] ∧ ∀ b, readByte b t.mem =
            if a ≤ b ∧ b < a + l.length then l.getD (b - a) 0
            else if x ≤ b ∧ b < x + 16 then (leBytes 16 (entryWith fe a (s.pageCmp a))).getD (b - x) 0
            else readByte b s.mem))) ∧
    (∃ t, exec (.saveComplete n k) s = .next t ∧ (t.ctx n k).st = .saved ∧
      (MemInv s → (∀ u, (s.stack u).remote = []) → (∀ a, (s.ctx n k).saveTo = some a → a % 4096 = 0) → ∀ b,
        (∀ a, (s.ctx n k).saveTo = some a → b < a ∨ a + (s.ctx n k).saveBytes ≤ b) → readByte b t.mem = readByte b s.mem) ∧
      (∀ f ∈ (t.core n).flights, f.ctx ≠ k) ∧ (∀ e ∈ (t.core n).queue, e.ctx ≠ k) ∧
      (t.ctx n k).arch.sr = (s.ctx n k).arch.sr)

/-- When the check of a held T word of its own (not COLL) completes: if every access passes, the word is checked and
its check is gone, with no register or memory changed; if an access fails with a cause, the fault stands against the
word's bundle and slot with the address as TRAPVAL, and the check is gone. A load (LDG, LGV, PLD, TLD, LDX, KLD, KTAB,
KOUT, KSKP) that passes its checks, with no older access in its way and its places at home, hands each of its results
the row of the elements that its places name, each lane the element's value as it lies in memory: LDG the element or
the bytes named, a landing, a returned row or a scale entry its row; its check is gone and no register changes. One
whose access fails stands with the fault against its bundle and slot. Memory is as before but for lines that caches
give up. (R178, R181, R184, R185, R186, R187, R203, R319, R321, R353, R354) -/
def Obligations.TranslatedStore : Prop :=
  (∀ (n id : Nat) (s : State) (f : Flight) (e : Entry) (car : Carry) (pl : Places) (h : Held),
    (s.core n).flight id = some f → f.id = id → f.kind = .check e car [h.id] 0 pl → h ∈ (s.core n).held → e.slot = .t →
    (∀ a b c d x y z, e.instr ≠ .coll a b c d x y z) →
    (s.wordVerdict n f.ctx e car = .ok → csrStop (accessOf e.instr).2 (s.resolve n f.ctx e car).spans = false →
      ∃ t, exec (.translationComplete n id) s = .next t ∧ SameMem s t ∧ (t.ctx n f.ctx).arch = (s.ctx n f.ctx).arch ∧
        { h with places := some (s.resolve n f.ctx e car) } ∈ (t.core n).held ∧ ∀ g ∈ (t.core n).flights, g.id ≠ id) ∧
    (∀ cause v, s.wordVerdict n f.ctx e car = .fault cause v → (s.core n).flight h.id = none →
      ∃ t, exec (.translationComplete n id) s = .next t ∧ SameMem s t ∧ (∀ g ∈ (t.core n).flights, g.id ≠ id) ∧
        (t.ctx n f.ctx).faults = (s.ctx n f.ctx).faults ++ [{ seq := e.seq, slot := slotNum e.slot, cause := cause, val := v }])) ∧
  ∀ (n id : Nat) (s : State) (f : Flight) (e : Entry) (car : Carry) (pl : Places) (fs : List Nat),
    (s.core n).flight id = some f → f.id = id → f.kind = .check e car fs 0 pl → e.slot ≠ .t → fs.Nodup → id ∉ fs →
    let p := s.resolve n f.ctx e car
    (∀ cause v, s.wordVerdict n f.ctx e car = .fault cause v →
      ∃ t, exec (.translationComplete n id) s = .next t ∧ SameMem s t ∧ (∀ g ∈ (t.core n).flights, g.id ≠ id) ∧
        (t.ctx n f.ctx).faults = (s.ctx n f.ctx).faults ++ [{ seq := e.seq, slot := slotNum e.slot, cause := cause, val := v }]) ∧
    (s.wordVerdict n f.ctx e car = .ok → csrStop (accessOf e.instr).2 p.spans = false → s.reqs = [] → s.poison = [] →
      (s.core n).queue = [] → (s.core n).held = [] → (s.ctx n f.ctx).wq = [] → (s.stack (stackOf n)).stale = [] →
      (∀ g ∈ (s.core n).flights, g.id ≠ id → ∀ a b c d x, g.kind ≠ .check a b c d x) →
      (∀ x ∈ p.spans, AtHome s x.1 x.2 ∧ ∀ b, x.1 ≤ b → b < x.1 + x.2 → nearAt (stackOf n) b = true) →
      ∃ t, exec (.translationComplete n id) s = .next t ∧ (t.ctx n f.ctx).arch = (s.ctx n f.ctx).arch ∧
        (t.core n).flight id = none ∧
        ∀ (j i : Nat) (g : Flight) (r : Nat × List Elem), fs[j]? = some i → (s.core n).flight i = some g → p.rows[j]? = some r → r.1 * r.2.length ≤ 2048 → ∃ x : Row,
          x.toNat < 2 ^ (r.1 * r.2.length) ∧ (∀ m, m < r.2.length → lane r.1 m x = elemNat s (r.2.getD m (.fixed 0)) % 2 ^ r.1) ∧
          ∃ late, (t.core n).flight i = some { g with kind := match g.kind with
            | .gload d _ _ => .gload d (scalarOf e.instr p x) true
            | .ret q _ _ => .ret q x true
            | .land q _ _ l => .land q x late l
            | .scale q z _ l => .scale q (entryOf e.instr p x z.tag) late l
            | kd => kd })

/-- At an object of this package that is not broken: an arrival short of the member count raises ARR and joins the
waiters; the arrival that completes it sets ARR to 0, flips the phase, empties the waiters and ends the wait of every
waiting context of this package whose arrival has left. An increment adds a member and is counted off by the new
context and its parent. A decrement takes one away; where the members that are left have all arrived it flips the
phase and releases the waiters in the same way, and otherwise nothing else happens. An arrival at a broken object is
counted, flips nothing and its context is told. A break notice of a kind other than 1, or of a killed context while a
member is left that no KILL ended, marks the object broken with its first reason, and a notice to an object broken
before leaves that reason; a notice of a context killed in another package is answered there (log 72). (R59, R60, R61,
R370, R371) -/
def Obligations.DomainEvents : Prop :=
  ∀ (o : DomRef) (who : CtxRef) (why : BreakWhy) (s : State) (d : Dom), o.peer / 8 = Config.pkg → s.domAt o = some d →
    let flips (t : State) (l : List CtxRef) : Prop :=
      (∃ x, t.domAt o = some x ∧ x.arr = 0 ∧ x.ph = !d.ph ∧ x.waiters = []) ∧
      ∀ n k w, n < 1536 → k < 4 → ctxRef n k ∈ l → (s.ctx n k).sync = some w → w.obj = o → w.sent = true →
        (t.ctx n k).sync = none ∧ ((s.ctx n k).st = .blocked .sync → (t.ctx n k).st = .ready)
    (d.broken = none → d.arr + 1 < d.mbr → ∃ t, exec (.domainArrival o who) s = .next t ∧ SameMem s t ∧ t.cores = s.cores ∧
      t.domAt o = some { d with arr := d.arr + 1, waiters := d.waiters ++ [who] }) ∧
    (d.broken = none → d.arr + 1 = d.mbr → ∃ t, exec (.domainArrival o who) s = .next t ∧ flips t (d.waiters ++ [who])) ∧
    (∀ y, d.broken = some y → refOwn who = true → ∃ t v, exec (.domainArrival o who) s = .next t ∧ SameMem s t ∧ t.cores = s.cores ∧
      t.domAt o = some { d with arr := d.arr + 1, waiters := d.waiters ++ [who] } ∧
      (s.now, .brokenWait (refCore who) who.ctx (brokenStatus y v 0 0)) ∈ t.sched ∧
      v = if y.kind = 1 ∨ y.kind = 4 then d.lvl.toNat else 0) ∧
    (∃ t, exec (.mbrChange o true who) s = .next t ∧ SameMem s t ∧ t.domAt o = some { d with mbr := d.mbr + 1 } ∧
      (refOwn who = true → ∀ n k, n = refCore who → k = who.ctx → k < 4 → (s.ctx n k).parent % 4 ≠ k → (s.ctx n k).parent < 4 →
        (t.ctx n k).incs = (s.ctx n k).incs - 1 ∧
        (t.ctx n (s.ctx n k).parent).incs = (s.ctx n (s.ctx n k).parent).incs - 1)) ∧
    (∃ t, exec (.mbrChange o false who) s = .next t ∧
      (d.broken = none → d.arr = d.mbr - 1 → d.arr ≠ 0 → (∃ x, t.domAt o = some x ∧ x.mbr = d.mbr - 1) ∧ flips t d.waiters) ∧
      ((d.broken.isSome = true ∨ d.arr ≠ d.mbr - 1 ∨ d.arr = 0) → SameMem s t ∧ t.cores = s.cores ∧
        t.domAt o = some { d with mbr := d.mbr - 1 })) ∧
    (∃ t x, exec (.domainBreakNotice o why) s = .next t ∧ SameMem s t ∧ t.cores = s.cores ∧ t.domAt o = some x ∧
      (d.broken = none → (why.kind ≠ 1 ∨ s.killedMembers o < d.mbr) → x.broken = some why) ∧
      (d.broken.isSome = true → x = d) ∧
      (why.kind = 1 → refOwn why.party = false → s.gone.contains why.party.peer = false →
        { core := none, cls := 0, weight := 1, dst := why.party.peer, msg := .event (.domainBreakNotice o why) } ∈
          (t.stack (o.peer % 8)).inject))

/-- At a bound endpoint of a context of this package: a word of the bound partner with the next number and none
standing early joins the receive queue and the number advances by 1, and a word of any other end changes nothing; an
acknowledgement lowers the send count, and the oldest spilled word goes in the place of its word; one without room is
refused (R284); a break notice of the bound partner marks the endpoint and drops what waits to be sent, and unless the
partner was killed what was received; one of a context killed in another package is answered, and the answer is marked
where it was awaited (logs 22, 72). A broken wait's own effect is the trap: with LEAVE 1 it leaves cause 66 waiting
with its status; with LEAVE 0 and a kind other than 3 and 5 nothing happens. A probe send starts its count again and
sends one probe to the partner of the endpoint waited on. A probe that reaches a context blocked on a channel is
handed on, one hop further, to the partner that this context waits for, unless a word of its own is under way to a
reader that asks; back at its originator, whose bundle has not been presented again, it completes: it leaves cause 66
of KIND 3 waiting; at a context that does not wait on a channel it ends. (R172, R174, R284, R369, R372, R373, R374,
R376) -/
def Obligations.ChannelEvents : Prop :=
  ∀ (n k ep : Nat) (num : BitVec 5) (word status : Dword) (why : BreakWhy) (b : EndRef) (pr : Probe) (s : State),
    let e : EndRef := { who := ctxRef n k, ep := ep }
    let c := (s.ctx n k).chan ep
    let probe (orig : CtxRef) (rd : Bool) (w hops stamp : Nat) : Inject :=
      { core := some n, cls := 0, weight := w, dst := b.who.peer,
        msg := .event (.probeReceive b.who { orig := orig, reader := rd, ep := b.ep, hops := hops, stamp := stamp }) }
    n < 1536 → k < 4 → ep < 8 → c.bound = some b →
    (num = c.rnum → c.early = [] → ∃ t, exec (.channelWord ⟨e, b⟩ num word) s = .next t ∧ OnlyCtx n k s t ∧
      (t.ctx n k).chan ep = { c with recv := c.recv ++ [word], rnum := c.rnum + 1 } ∧ (t.ctx n k).arch = (s.ctx n k).arch) ∧
    (∀ y, y ≠ b → exec (.channelWord ⟨e, y⟩ num word) s = .next s) ∧
    (∀ a : Arrival, (a.room = false → exec (.channelAcknowledgement a) s = .next (s.refuse a.cell)) ∧
      (a.room = true → cellEnd a.cell = e →
        (c.spill = [] → ∃ t, exec (.channelAcknowledgement a) s = .next t ∧ OnlyCtx n k s t ∧
          (t.ctx n k).chan ep = { c with sent := c.sent - 1 } ∧ (t.ctx n k).arch = (s.ctx n k).arch) ∧
        (∀ v r, c.spill = v :: r → s.gone.contains b.who.peer = false → ∃ t w, exec (.channelAcknowledgement a) s = .next t ∧
          (t.ctx n k).chan ep = { c with sent := c.sent - 1 + 1, snum := c.snum + 1, spill := r } ∧
          (t.ctx n k).arch = (s.ctx n k).arch ∧ Injects (stackOf n) s t
            [{ core := some n, cls := 0, weight := w, dst := b.who.peer
               msg := .cell (chanCell b e 7 c.snum c.route (leBytes 8 v.toNat)) }]))) ∧
    (why.party = b.who → ∃ t, exec (.channelBreakNotice e why) s = .next t ∧ SameMem s t ∧
      ((why.kind ≠ 2 ∨ refOwn b.who = true) → OnlyCtx n k s t) ∧
      (t.ctx n k).chan ep = { c with
        sent := 0, spill := [], broken := some why
        recv := if why.kind = 2 then c.recv else [], early := if why.kind = 2 then c.early else []
        deadReader := c.deadReader || decide (why.kind = 2) } ∧
      (why.kind = 2 → refOwn b.who = false → s.gone.contains b.who.peer = false → Injects (e.who.peer % 8) s t
        [{ core := none, cls := 0, weight := 1, dst := b.who.peer, msg := .event (.channelBreakNotice e why) }])) ∧
    (∀ y : EndRef, refOwn y.who = false →
      exec (.channelBreakNotice y why) s = .next { s with told := s.told.erase (why.party, y.who.peer) }) ∧
    (s.alive n k = true → (s.ctx n k).arch.csr.syncmode.getLsbD 1 = true → ∃ t, exec (.brokenWait n k status) s = .next t ∧
      OnlyCtx n k s t ∧ (t.ctx n k).asyncs = (s.ctx n k).asyncs ++ [(66, status)]) ∧
    ((s.ctx n k).arch.csr.syncmode.getLsbD 1 = false → status.toNat / 2 ^ 60 ≠ 3 → status.toNat / 2 ^ 60 ≠ 5 →
      exec (.brokenWait n k status) s = .next s) ∧
    (∀ rd, (s.ctx n k).on = some (rd, ep) → s.gone.contains b.who.peer = false → ∃ t w, exec (.probeSend n k) s = .next t ∧
      (t.ctx n k).probe = 0 ∧ Injects (stackOf n) s t [probe (ctxRef n k) rd w 1 (s.ctx n k).shown]) ∧
    (pr.orig ≠ ctxRef n k → (s.ctx n k).st = .blocked .channel → ∀ rd, (s.ctx n k).on = some (rd, ep) → pr.hops < 256 →
      (pr.reader = true → ((s.ctx n k).chan pr.ep).sent = 0 ∧ ((s.ctx n k).chan pr.ep).spill = []) →
      s.gone.contains b.who.peer = false → ∃ t w, exec (.probeReceive (ctxRef n k) pr) s = .next t ∧
        Injects (stackOf n) s t [probe pr.orig rd w (pr.hops + 1) pr.stamp]) ∧
    (pr.orig = ctxRef n k → (s.ctx n k).st = .blocked .channel → (s.ctx n k).shown = pr.stamp →
      ∀ rd, (s.ctx n k).on = some (rd, ep) → ∃ t, exec (.probeReceive (ctxRef n k) pr) s = .next t ∧ OnlyCtx n k s t ∧
        (t.ctx n k).asyncs = (s.ctx n k).asyncs ++ [(66, brokenStatus { kind := 3, party := b.who } 0 ep 0)]) ∧
    ((s.ctx n k).st ≠ .blocked .channel → exec (.probeReceive (ctxRef n k) pr) s = .next s)

/-- A copy or gather engine whose oldest unfinished command has not started starts it, to move bytes after the start-
up; otherwise nothing changes. In each cycle of a started command its next chunk moves, up to the end of a 128-byte
line: a CPY's bytes from its source, a GATH's from the place that its list entry names, to the next bytes of the
destination, in its own stack at once, elsewhere as a TYPE 9 cell (shown where the pages are walked, no copy of them
is in the way and the regions of a CPY are apart); a used-up entry gives way to the next, and the last one ends the
command. A failed command's own effect is the trap: it leaves cause 64 with its partial-work value waiting for its
issuer, if that context still runs. The bytes of a copy or gather cell stand at their home, and a write response tells
its sender (log 29, the model's); without room the cell stays on the ring. Landed bytes add to CNT of an arrival word;
one with ARM set whose count reaches TGT has TGT taken off, GEN raised by 1 and its flag set on its core; one with TGT
0 counts nothing. (R92, R197, R198, R199, R201, R255, R275, R282, R284, R326) -/
def Obligations.EngineEvents : Prop :=
  ∀ (s : State),
    (∀ (t0 : Nat) (cls : BitVec 3) (e : Nat) (c : Cmd),
      s.cmds.find? (fun c => c.stack == t0 && c.cls == cls && c.eng == e && !c.finished) = some c →
      (c.started = false → ∃ t, exec (.copyCommandStart t0 cls e) s = .next t ∧
        OnlyCmd c.id (fun x => { x with started := true, since := s.now + Config.latCopy }) s t) ∧
      (c.started = true → exec (.copyCommandStart t0 cls e) s = .next s)) ∧
    (∀ (w : CtxRef) (v : Dword), s.alive (refCore w) w.ctx = true → ∃ t, exec (.engineCommandFail w v) s = .next t ∧
      OnlyCtx (refCore w) w.ctx s t ∧ (t.ctx (refCore w) w.ctx).asyncs = (s.ctx (refCore w) w.ctx).asyncs ++ [(64, v)] ∧
      (t.ctx (refCore w) w.ctx).arch = (s.ctx (refCore w) w.ctx).arch) ∧
    (∀ (w : CtxRef) (v : Dword), s.alive (refCore w) w.ctx = false → exec (.engineCommandFail w v) s = .next s) ∧
    (∀ c : RingCell, (∃ t, exec (.copyOrGatherData ⟨c, false⟩) s = .next t ∧ StaysOnRing c s t) ∧
      (Served c true (max 1 c.payload.length) s → AtHome s (cellAddr c) c.payload.length → InSlice s (cellAddr c) →
        ∃ t, exec (.copyOrGatherData ⟨c, true⟩) s = .next t ∧ Lands (cellAddr c) c.payload s t ∧ Answers c 5 [] s t)) ∧
    (∀ c : Cmd, s.cmds = [c] → c.finished = false → c.stopped = none → c.coll = none → c.started = true → c.since ≤ s.now →
      (s.stack c.stack).remote = [] → (∀ r ∈ s.reqs, ∀ u w l, r.kind ≠ .back u w l) →
      let t := s.runEngines
      let moves (sa : Dword) (left du : Nat) : Prop :=
        let da := c.dst + BitVec.ofNat 64 c.moved
        let m := chunkLen left sa da
        ∀ (b : Nat) (l : List Byte), 0 < m → l.length = m → s.engWalk c sa = none → s.engWalk c da = none →
          (∀ i, i < m → s.engByte c (sa + BitVec.ofNat 64 i) = .byte (l.getD i 0) ∧
            s.engPlace c (da + BitVec.ofNat 64 i) = .place (b + i)) →
          (∃ d, t.cmds = [d] ∧ d.moved = c.moved + m ∧ (c.cls ≠ 1 → d.entry = c.entry ∧ d.off = c.off + m)) ∧
          (nearAt c.stack b = true → AtHome s b m → Lands b l s t) ∧
          (nearAt c.stack b = false → (∀ y ∈ linesOf b m, s.copyOf c.stack y = none) → SameMem s t ∧ (s.gone.contains (peerAt b) = false →
            ∃ tag, { core := none, cls := 1, weight := c.weight, dst := peerAt b,
                     msg := .cell (ringCell (peerAt b) (peerOf c.stack) du 9 b tag l) } ∈ (t.stack c.stack).inject))
      (c.cls = 1 → c.moved < fld c.cnt 0 40 →
        (∀ j, j < fld c.cnt 0 40 → fld c.cnt 0 40 ≤ (c.src + BitVec.ofNat 64 j - c.dst).toNat) →
        moves (c.src + BitVec.ofNat 64 c.moved) (fld c.cnt 0 40 - c.moved) 194) ∧
      (c.cls ≠ 1 → c.cls ≠ 2 → c.entry < fld c.cnt 0 20 → ∀ e : List Byte, e.length = 16 →
        let la := c.src + BitVec.ofNat 64 (16 * c.entry)
        let len := leNat ((e.drop 8).take 4)
        s.engWalk c la = none → (∀ i, i < 16 → s.engByte c (la + BitVec.ofNat 64 i) = .byte (e.getD i 0)) →
        (len ≤ c.off → t = { s with cmds := [{ c with entry := c.entry + 1, off := 0 }] }) ∧
        (c.off < len → moves (BitVec.ofNat 64 (leNat (e.take 8) + c.off)) (len - c.off) 195)) ∧
      ((c.cls = 1 ∧ fld c.cnt 0 40 ≤ c.moved) ∨ (c.cls ≠ 1 ∧ fld c.cnt 0 20 ≤ c.entry) → t = { s with cmds := [{ c with finished := true }] })) ∧
    ∀ n a b : Nat, MemInv s →
      let p := spAddr n a
      let tgt := memNat s p 4
      let cnt := (memNat s (p + 4) 4 + b) % 2 ^ 32
      let gen := memNat s (p + 8) 4
      let x := (readByte (p + 12) s.mem).toNat
      ∃ t, exec (.arrivalUpdate n a b) s = .next t ∧ (∀ m, m ≠ n → t.core m = s.core m) ∧
        (tgt = 0 → t = s) ∧
        (tgt ≠ 0 → 128 ≤ x → tgt ≤ cnt → Lands (p + 4) (leBytes 4 (cnt - tgt) ++ leBytes 4 ((gen + 1) % 2 ^ 32)) s t ∧
          t.core n = { s.core n with flgNew := (s.core n).flgNew ||| BitVec.ofNat 64 (2 ^ (x % 64)) }) ∧
        (tgt ≠ 0 → (x < 128 ∨ cnt < tgt) → Lands (p + 4) (leBytes 4 cnt) s t ∧ t.core n = s.core n)

/-- A queued collective whose group is undefined or lacks the stack fails with KIND 28, one whose group lost a member
with KIND 30; otherwise it takes its rank, size and place among those of its group and evaluates its bucket-ready
word, once the word's page is walked, and again, read afresh, at each notice of a SIGST. Its cells: a status word is
ORed in, counted and passed on until it has been at every member; a drop ends it with KIND 30, or goes on with the own
status ORed in and ends it with KIND 27 where commands disagree; without room a cell stays on the ring; a broadcast
cell's elements are to be written at their place; a partial sum is added to the own elements and sent on. At the end
STAT is written, then DONE raised, then FLAG set. (Layout of the cells: log 22, the model's.) (R190, R200, R290, R291,
R292, R326, R381) -/
def Obligations.CollectiveEvents : Prop :=
  ∀ (s : State) (k : Nat) (c : Cmd) (j : CollJob), s.collCmd k = some c → c.coll = some j → c.stack = k → k < 8 →
    (∀ x ∈ s.cmds, x.id = c.id → x = c) →
    let bad (kind low : Nat) : Prop := ∃ t d, exec (.collHead k) s = .next t ∧
      t = { s with cmds := t.cmds, sched := t.sched } ∧ t.cmds = s.cmds.map (fun x => if x.id = c.id then { x with finished := true } else x) ∧
      (d, Instr.engineCommandFail (ctxRef c.core c.ctx) (partialWork c kind 0 low)) ∈ t.sched
    let reads (d : Cmd) (l : List Byte) : Prop := s.engWalk c j.ready = none ∧
      (∀ a, s.engAt c j.ready true = .place a → nearAt k a = true → InSlice s a) ∧
      engBytes ((List.range 8).map fun i => s.engByte d (j.ready + BitVec.ofNat 64 i)) = (l, none)
    let looked (w : Nat) (j1 : CollJob) (t : State) : Prop := t.cmds = s.cmds.map fun x => if x.id = c.id then { x with
      buf := [], started := x.started || decide (j.rtgt.toNat ≤ w), coll := some (evaluated w j1) } else x
    (j.phase = 0 →
      (s.group j.grp = none → bad 28 0) ∧
      ∀ g, s.group j.grp = some g →
        let j1 := { j with phase := 1, look := true, ord := assocGet k 0 g.runs
                           rank := g.members.findIdx fun p => p == peerOf k, p := g.members.length }
        (g.members.contains (peerOf k) = false → bad 28 0) ∧
        (g.members.contains (peerOf k) = true →
          (∀ r, g.dropped = some r → bad 30 (r % 2 ^ 12 * 2 ^ 28)) ∧
          (g.dropped = none → (∀ x ∈ s.collEarly, s.earlyFor k j1 x = true → isDrop x.2 = false) →
            (∀ l, reads c l → ∃ t, exec (.collHead k) s = .next t ∧ SameMem s t ∧ t = { s with cmds := t.cmds, groups := t.groups, stk := t.stk } ∧
              looked (leNat l) j1 t ∧
              t.groups = s.groups.map fun x => if x.num = j.grp then { x with runs := assocSet k (j1.ord + 1) x.runs } else x) ∧
            ((s.engWalk c j.ready).isSome = true → ∃ t d, exec (.collHead k) s = .next t ∧ t.cmd c.id = some d ∧ d.coll = some j1 ∧
              d.walked = c.walked ++ [pageKey c.asn.toNat (fld j.ready 16 41) * 16 + fld j.ready 60 4] ∧
              ((∀ u, (s.stack u).remote = []) → SameMem s t) ∧
              ((∀ y ∈ s.fw.asked, y.1 = c.asn.toNat → y.2.1 ≠ fld j.ready 16 41) → s.now < d.since))))) ∧
    (j.phase ≠ 0 → exec (.collHead k) s = .next s) ∧
    (∀ a n, (n = k ∨ (n = 8 ∧ ∀ u, u < 8 → u ≠ k → s.watches u a = false)) →
      (s.watches k a = false → exec (.sigstNotify n a) s = .next s) ∧
      (∀ l, s.watches k a = true → j.phase = 1 → reads { c with buf := [] } l → ∃ t, exec (.sigstNotify n a) s = .next t ∧ SameMem s t ∧
        t = { s with cmds := t.cmds, stk := t.stk, reqs := t.reqs } ∧ (∀ r ∈ s.reqs, r ∉ t.reqs → ∃ y, r.kind = .copy c.id y) ∧
        looked (leNat l) j t)) ∧
    (∀ x i, (i = .collectiveChunk ⟨x, false⟩ ∨ i = .collectiveStatus ⟨x, false⟩ ∨ i = .collectiveDrop ⟨x, false⟩) →
      ∃ t, exec i s = .next t ∧ StaysOnRing x s t) ∧
    (∀ (x : RingCell) (g : CollGroup), collGroup x = j.grp → s.group j.grp = some g → g.members.contains (peerOf k) = true →
      x.tag.toNat = j.ord % 2 ^ 16 → j.ended = none → 3 ≤ j.phase → j.phase ≠ 8 → (x.ty ≠ 11 → x.dst.toNat % 8 = k) →
      let next := s.member j.grp ((j.rank + 1) % max 1 j.p)
      let sent (t : State) (y : RingCell) : Prop := s.gone.contains next = false →
        { core := none, cls := 2, weight := c.weight, dst := next, msg := .cell y } ∈ (t.stack k).inject
      let job (f : CollJob) (t : State) : Prop := t.cmds = s.cmds.map fun y => if y.id = c.id then { y with coll := some f } else y
      (x.ty = 14 → x.xt.getLsbD 28 = false → ∃ t, exec (.collectiveStatus ⟨x, true⟩) s = .next t ∧ SameMem s t ∧ t.cores = s.cores ∧
        job { j with stat := j.stat ||| x.stat, statIn := j.statIn + 1 } t ∧
        ((j.rank + 1) % max 1 j.p ≠ fld x.xt 12 16 → ∃ y, sent t y ∧ y.ty = 14 ∧ y.stat = x.stat ||| j.stat ∧
          fld y.xt 0 12 = j.grp % 2 ^ 12 ∧ fld y.xt 12 16 = fld x.xt 12 16)) ∧
      (x.ty = 14 → x.xt.getLsbD 28 = true → ∃ t d, exec (.collectiveDrop ⟨x, true⟩) s = .next t ∧ SameMem s t ∧ t.cores = s.cores ∧
        t.cmd c.id = some d ∧ (∃ j2, d.coll = some j2 ∧ j2.stat = j.stat ||| x.stat ∧
          j2.ended = some (if x.xt.getLsbD 29 then 27 else 30, fld x.xt 12 16)) ∧
        (x.xt.getLsbD 29 = true → g.members.findIdx (fun p => p == peerOf k) = j.rank → g.members.length = j.p → 2 ≤ j.p →
          next ≠ x.src.toNat → s.gone.contains next = false → ∃ y w, y.ty = 14 ∧ y.xt = x.xt ∧ y.stat = x.stat ||| j.stat ∧
            { core := none, cls := 2, weight := w, dst := next, msg := .cell y } ∈ (t.stack k).inject)) ∧
      (x.ty = 11 → x.lvl = 0 → x.bc = true → x.du = 193 → x.xt.getLsbD k = false → j.op = 3 → j.rank ≠ 0 →
        j.elems x.payload.length x.payload ≠ [] →
        ∃ t, exec (.broadcastData x k true) s = .next t ∧ SameMem s t ∧ t.cores = s.cores ∧
          job { j with stat := j.stat ||| x.stat, got := assocSet 0 (assocGet 0 0 j.got + 1) j.got
                       writes := j.writes ++ [(j.dst + BitVec.ofNat 64 (j.eb * (x.addr.toNat / 2 ^ 12)),
                         j.bytes (j.elems x.payload.length x.payload))] } t) ∧
      (x.ty = 10 → disagrees j x = true → ∃ t d, exec (.collectiveChunk ⟨x, true⟩) s = .next t ∧ SameMem s t ∧ t.cores = s.cores ∧
        t.cmd c.id = some d ∧ ∃ j2, d.coll = some j2 ∧ j2.ended = some (27, s.rankOf j.grp x.src.toNat)) ∧
      (x.ty = 10 → disagrees j x = false → (j.op = 0 ∨ j.op = 1) → fld x.xt 28 13 + 2 < j.p →
        ∃ t y, exec (.collectiveChunk ⟨x, true⟩) s = .next t ∧
          SameMem s t ∧ t.cores = s.cores ∧ sent t y ∧ y.ty = 10 ∧ fld y.xt 28 13 = (fld x.xt 28 13 + 1) % 2 ^ 13 ∧ y.addr = x.addr ∧
          y.payload = j.bytes ((List.zip (j.elems x.payload.length x.payload)
            (j.mine (j.lo (fld x.xt 12 16) + x.addr.toNat * j.per) (j.elems x.payload.length x.payload).length)).map
              fun z => (j.sum z.1 z.2).1))) ∧
    (j.phase = 5 → s.cmdWaits c = false → s.engWalk c (j.desc + 28) = none → s.engWalk c (j.desc + 20) = none →
      ∀ (a : Nat) (l l0 : List Byte), nearAt k a = true → uncached a = false → AtHome s a 12 → a % 128 ≤ 116 →
      (s.stack k).l2.contains (lineOf a) = true →
      let at_ (u : State) (d : Cmd) (o x : Nat) (l : List Byte) : Prop :=
        engBytes ((List.range 4).map fun i => u.engByte d (j.desc + BitVec.ofNat 64 (o + i))) = (l, none) ∧
        (List.range 4).map (fun i => u.engPlace d (j.desc + BitVec.ofNat 64 (o + i))) = (List.range 4).map fun i => .place (x + i)
      let m := ((s.l2Touch k By.none_ (lineOf (a + 8)) true).homePut (a + 8) (leBytes 4 j.stat.toNat)).updJob c.id
        fun x => { x with phase := 7 }
      at_ s c 28 (a + 8) l0 → at_ m { c with coll := some { j with phase := 7 } } 20 a l →
      ∃ t, exec (.collComplete k) s = .next t ∧
        (∀ b, readByte b t.mem = if a ≤ b ∧ b < a + 4 then (leBytes 4 (leNat l + 1)).getD (b - a) 0
          else if a + 8 ≤ b ∧ b < a + 12 then (leBytes 4 j.stat.toNat).getD (b - a - 8) 0 else readByte b s.mem) ∧
        t.cmds = s.cmds.map (fun x => if x.id = c.id then { x with finished := true, coll := some { j with phase := 8 } } else x) ∧
        (j.fe = true → (t.core c.core).flgNew = (s.core c.core).flgNew ||| BitVec.ofNat 64 (2 ^ j.flag.toNat)) ∧
        (j.fe = false → t.cores = s.cores))

/-- A token that reaches a balancer of a network that neither fails nor holds it toggles it and leaves on the lower
wire where the toggle was clear, the upper where it was set: to the next layer's host, or after the last layer to its
counter; one on the balancer's lower wire that comes in the same base cycle goes first. Without room a cell stays on
the ring. There its number is base + count x width + wire, the count rises, and the number returns. A held network
keeps tokens at layer 1; a failed one returns all ones. A number at its context is the result of its TAKE; of a failed
network cause 66 of KIND 5 waits too. A network whose host is lost, or whose drain times out while CNCONFIG or RESET
waits, returns its tokens as failed, those of this package's cores elsewhere too (log 73); a quiet one admits its held
tokens. (R284, R293, R294, R295, R296, R368, R379, R380) -/
def Obligations.NetworkEvents : Prop :=
  ∀ (s : State) (c : RingCell) (x : Net), let d := tokenNet c
    s.net d = some x →
    let w := netWidth x.wc
    let goes (t : State) (from_ : RingCell) (dst : Nat) (y : RingCell) (i : Instr) : Prop :=
      (dst = peerOf (from_.dst.toNat % 8) → ∃ due, (due, i) ∈ t.sched) ∧
      (dst ≠ peerOf (from_.dst.toNat % 8) → s.gone.contains dst = false →
        { core := none, cls := 0, weight := 1, dst := dst, msg := .cell y } ∈ (t.stack (from_.dst.toNat % 8)).inject)
    let back (t : State) (y : RingCell) (num : Dword) (lost : Bool) : Prop :=
      goes t y y.src.toNat (returnCell y num lost) (.takeReturn ⟨(returnCell y num lost), true⟩)
    (∀ i, (i = .takeToken ⟨c, false⟩ ∨ i = .takeReturn ⟨c, false⟩) → ∃ t, exec i s = .next t ∧ StaysOnRing c s t) ∧
    (∀ e, s.lowerFirst c = some e → ∃ y, e.2 = .takeToken y ∧ tokenNet y.cell = d ∧ tokenLay y.cell = tokenLay c ∧
      tokenWire y.cell = pairWire (tokenLay c) (tokenWire c) ∧ tokenWire y.cell < tokenWire c ∧ exec (.takeToken ⟨c, true⟩) s = .next
        { s with sched := (s.now, e.2) :: (s.now, .takeToken ⟨c, true⟩) :: s.sched.erase e }) ∧
    (s.lowerFirst c = none → x.failed = true → ∃ t, exec (.takeToken ⟨c, true⟩) s = .next t ∧ SameMem s t ∧ t.nets = s.nets ∧
      back t c (BitVec.allOnes 64) true) ∧
    (s.lowerFirst c = none → x.failed = false → x.hold = true → tokenLay c = 1 → ∃ t, exec (.takeToken ⟨c, true⟩) s = .next t ∧ t = { s with nets := t.nets, sched := t.sched } ∧
      t.net d = some { x with held := x.held ++ [c] }) ∧
    (s.lowerFirst c = none → x.failed = false → (x.hold && tokenLay c == 1) = false →
      let l := tokenLay c
      let bit := w / 2 * (l - 1) + balancerRank w l (tokenWire c)
      let out := if x.tog.getLsbD bit then max (tokenWire c) (pairWire l (tokenWire c)) else min (tokenWire c) (pairWire l (tokenWire c))
      let host := x.hostPeer (balancerHost w (l + 1) out)
      ∃ t y, exec (.takeToken ⟨c, true⟩) s = .next t ∧ SameMem s t ∧ t.cores = s.cores ∧ t.net d = some y ∧
        y.tog = x.tog ^^^ BitVec.ofNat 256 (2 ^ bit) ∧ y.cnt = x.cnt ∧ y.base = x.base ∧
        (netLayers x.wc ≤ l → ∃ due, (due, Instr.takeReturn ⟨{ c with xt := setFld c.xt 8 5 out }, true⟩) ∈ t.sched) ∧
        (l < netLayers x.wc →
          let z := cellFrom { c with dst := BitVec.ofNat 12 host, xt := setFld (setFld c.xt 8 5 out) 4 4 (l + 1) } c.dst.toNat
          goes t c host z (.takeToken ⟨z, true⟩))) ∧
    (c.du = 197 → tokenWire c < x.cnt.length →
      ∃ t y, exec (.takeReturn ⟨c, true⟩) s = .next t ∧ SameMem s t ∧ t.cores = s.cores ∧ t.net d = some y ∧
        y.cnt = x.cnt.set (tokenWire c) (x.cnt.getD (tokenWire c) 0 + 1) ∧ y.tog = x.tog ∧
        back t c (x.base + BitVec.ofNat 64 ((x.cnt.getD (tokenWire c) 0).toNat * w + tokenWire c)) false) ∧
    (∀ (r : Req) (n k id : Nat), c.du ≠ 197 → s.req c.tag = some r → r.kind = .take n k id →
      ∃ t, exec (.takeReturn ⟨c, true⟩) s = .next t ∧ SameMem s t ∧ t.req c.tag = none ∧
        (∀ f ∈ (s.core n).flights, f.id = id → ∀ q v b, f.kind = .gload q v b →
          { f with kind := .gload q (BitVec.ofNat 64 (fld c.xt 13 64)) true } ∈ (t.core n).flights) ∧
        (∃ due, (due, Instr.globalLoadReturn n id) ∈ t.sched) ∧
        (t.ctx n k).asyncs = (s.ctx n k).asyncs ++ if c.xt.getLsbD 94 then [(66, takeFailed (fld c.xt 0 4))] else []) ∧
    (∃ t, exec (.hostStationLost d) s = .next t ∧ SameMem s t ∧ t.cores = s.cores ∧
      t.net d = some { x with failed := true, inside := [], held := [] } ∧
      ∀ y ∈ x.inside ++ x.held, back t y (BitVec.allOnes 64) true) ∧
    (x.hold = true → (∃ q nw b h0 h1, WaitCmd.cnconfig q d nw b h0 h1 ∈ s.fw.waiting) → ∃ t, exec (.networkDrainTimeout d) s = .next t ∧
      SameMem s t ∧ (s.takesAway x = false → t.cores = s.cores) ∧ t.net d = some { x with inside := [] } ∧
      (∀ r n k id, s.req r.cell.tag = some r → r.kind = .take n k id → tokenNet r.cell = d → x.span = true →
        x.held.any (sameToken r.cell) = false → (66, takeFailed (fld r.cell.xt 0 4)) ∈ (t.ctx n k).asyncs) ∧
      (∃ due, (due, Instr.networkQuiet d) ∈ t.sched) ∧ ∀ y ∈ x.inside, back t y (BitVec.allOnes 64) true) ∧
    (x.hold = false → exec (.networkDrainTimeout d) s = .next s) ∧
    ((∀ w ∈ s.fw.waiting, (∀ q nw b h0 h1, w ≠ .cnconfig q d nw b h0 h1) ∧ ∀ q, w ≠ .reset q) → exec (.networkDrainTimeout d) s = .next s) ∧
    (x.inside ≠ [] ∨ (x.failed = false ∧ s.takesAway x = true) → exec (.networkQuiet d) s = .next s) ∧
    (x.inside = [] → (x.failed = true ∨ s.takesAway x = false) → s.fw.waiting = [] → ∃ t, exec (.networkQuiet d) s = .next t ∧ SameMem s t ∧ t.cores = s.cores ∧
      t.net d = some { x with hold := false, held := [] } ∧ ∀ y ∈ x.held, ∃ due, (due, Instr.takeToken ⟨y, true⟩) ∈ t.sched) ∧
    (∀ q nw b h0 h1, x.inside = [] → (x.failed = true ∨ s.takesAway x = false) → s.fw.waiting = [.cnconfig q d nw b h0 h1] → s.gone = [] → ∃ t y,
      exec (.networkQuiet d) s = .next t ∧ SameMem s t ∧ t.cores = s.cores ∧ t.fw.waiting = [] ∧
      t.outbox = s.outbox ++ [.completion q.peer 13 q.seq 0 0 []] ∧
      t.net d = some y ∧ y = { newNet d nw b h0 h1 with held := [] } ∧ y.tog = 0 ∧ ∀ v ∈ y.cnt, v = 0)

/-- Without room a request stays on the ring: it comes again with RFS raised, after the second refusal on the escape
channel, where its 1024th pass is the last. A request whose answer is kept is answered from the record. One for a line
that a swap holds comes again at the end of the swap. Otherwise it is answered, and the answer kept: where its line
stands in the slice of its home, a read returns that line (zeros with the poison mark for a poisoned one), a write and
a byte-masked write store their bytes and answer, an atomic stores the new value of its operation and returns the old
one, and leaves a poisoned line as it was. A request to an address outside the ranges of the memory map stops with a
fault, one to a CSR window with a refusal. (Payload layouts of atomics and answers: log 22.) (R41, R193, R268, R282,
R284, R285, R363, R377, R378) -/
def Obligations.HomeRequests : Prop :=
  ∀ (c : RingCell) (s : State), let a := cellAddr c
    let same (i : Instr) : Prop := i = .readRequest c true ∨ i = .write c true ∨ i = .byteMaskedWrite c true ∨ i = .atomicRequest c true
    (∀ i, (i = .readRequest c false ∨ i = .write c false ∨ i = .byteMaskedWrite c false ∨ i = .atomicRequest c false) →
      ∃ t, exec i s = .next t ∧ StaysOnRing c s t) ∧
    (∀ r i, s.replies.find? (fun r => r.1 == c.src && r.2.1 == c.tag) = some r → same i → ∃ t, exec i s = .next t ∧
      t = { s with stk := t.stk } ∧ (s.gone.contains c.src.toNat = false →
        { core := none, cls := 0, weight := 1, dst := c.src.toNat, msg := .cell r.2.2 } ∈ (t.stack (c.dst.toNat % 8)).inject)) ∧
    ((∀ r ∈ s.replies, r.1 = c.src → r.2.1 ≠ c.tag) →
      (∀ i, same i → localMapped c.addr.toNat = false → exec i s = .fault .unmapped) ∧
      (∀ i, i = Instr.write c true ∨ i = .byteMaskedWrite c true ∨ i = .atomicRequest c true → c.payload.length ≤ 1 → inCsr a = true →
        localMapped c.addr.toNat = true → exec i s = .refused .csrWindow) ∧
      (∀ i j w, same i → localMapped c.addr.toNat = true → c.payload.length ≤ 1 → inCsr a = false → s.slotHeld (lineOf a) = true →
        s.swapOver (lineOf a) = some w → arrivalOf c = some j →
        ∃ t, exec i s = .next t ∧ t = { s with sched := t.sched } ∧ (s.now + (w.ends - s.now), j) ∈ t.sched)) ∧
    (∀ i wr n, (i = Instr.readRequest c true ∧ wr = false ∧ n = 1) ∨ (i = .write c true ∧ wr = true ∧ n = max 1 c.payload.length) ∨
        (i = .byteMaskedWrite c true ∧ wr = true ∧ n = max 1 (c.payload.length - 16)) ∨ (i = .atomicRequest c true ∧ wr = true ∧ n = 1) →
      Served c wr n s → ∃ t r, exec i s = .next t ∧ (c.src, c.tag, r) ∈ t.replies) ∧
    (Served c false 1 s → AtHome s (a / 128 * 128) 128 → InSlice s a → ∃ t, exec (.readRequest c true) s = .next t ∧ SameMem s t ∧
      (s.badLine (a / 128) = false → Answers c 1 ((List.range 128).map fun i => readByte (a / 128 * 128 + i) s.mem) s t) ∧
      (s.badLine (a / 128) = true → Answers c 1 (List.replicate 128 0 ++ [1]) s t)) ∧
    (Served c true (max 1 c.payload.length) s → AtHome s a c.payload.length → InSlice s a →
      ∃ t, exec (.write c true) s = .next t ∧ Lands a c.payload s t ∧ Answers c 5 [] s t) ∧
    (Served c true (max 1 (c.payload.length - 16)) s → AtHome s a (c.payload.length - 16) → InSlice s a →
      ∃ t, exec (.byteMaskedWrite c true) s = .next t ∧ Answers c 5 [] s t ∧
        ∀ b, readByte b t.mem = if a ≤ b ∧ b < a + (c.payload.length - 16) ∧ (leNat (c.payload.take 16)).testBit (b - a)
          then c.payload.getD (16 + (b - a)) 0 else readByte b s.mem) ∧
    (∀ (k n : Nat) (f x y : Dword), (k < 10 ∧ n = 8) ∨ (k = 10 ∧ n = 4) → Served c true 1 s → AtHome s a n → InSlice s a →
      c.payload = leBytes 1 k ++ leBytes 7 n ++ leBytes 8 f.toNat ++ leBytes n x.toNat ++ leBytes n y.toNat →
      (s.badLine (a / 128) = false → ∃ t, exec (.atomicRequest c true) s = .next t ∧ Answers c 5 (leBytes n (memNat s a n) ++ [0]) s t ∧
        let o : Dword := BitVec.ofNat 64 (memNat s a n)
        let put (v : Dword) : Prop := Lands a (leBytes n v.toNat) s t
        (k = 0 → put (o + x)) ∧ (k = 1 → put (o &&& x)) ∧ (k = 2 → put (o ||| x)) ∧ (k = 3 → put (o ^^^ x)) ∧
        (k = 4 → put (BitVec.ofInt 64 (min o.toInt x.toInt))) ∧ (k = 5 → put (BitVec.ofInt 64 (max o.toInt x.toInt))) ∧
        (k = 6 → put (BitVec.ofNat 64 (min o.toNat x.toNat))) ∧ (k = 7 → put (BitVec.ofNat 64 (max o.toNat x.toNat))) ∧
        (k = 8 → put x) ∧ (k = 9 → put (if o = y then x else o)) ∧
        (k = 10 → put (BitVec.ofNat 64 (round .f32 f (Val.add (fpcRm f) (operand f .f32 (o.toNat % 2 ^ 32))
          (operand f .f32 (x.toNat % 2 ^ 32))).1).1))) ∧
      (s.badLine (a / 128) = true → ∃ t, exec (.atomicRequest c true) s = .next t ∧ SameMem s t ∧
        Answers c 5 (List.replicate n 0 ++ [1]) s t))

/-- Without room a response or signal stays on the ring as a request does. A read response fills the invalid words of
its line in the stack's caches, where the L2 holds the line, or where an acquire has passed meanwhile is handed to the
flights that wait for it alone, or goes to the flight, the tables or the engine command that asked, or marks the line
poisoned. A write response ends the store, write-back or engine's write, or gives the atomic its old value; a poisoned
one leaves cause 65 waiting. A response to no outstanding request does nothing. A signal sets the flag it names on its
core. A request without response is sent once more on the escape channel; after that the access is unreachable: a line
comes poisoned to what waits for it and to no copy, a store is dropped, an atomic delivers 0, and cause 65 waits, for
a TAKE cause 66 of KIND 5. (R152, R274, R282, R284, R285, R286, R363, R368, R377, R378) -/
def Obligations.ResponsesAndSignals : Prop :=
  ∀ (c : RingCell) (s : State),
    (∀ i, (i = .readResponse ⟨c, false⟩ ∨ i = .writeResponse ⟨c, false⟩ ∨ i = .signal ⟨c, false⟩) → ∃ t, exec i s = .next t ∧ StaysOnRing c s t) ∧
    (s.req c.tag = none → exec (.readResponse ⟨c, true⟩) s = .next s ∧ exec (.writeResponse ⟨c, true⟩) s = .next s) ∧
    (∀ r, s.req c.tag = some r →
      (∀ k line n f, r.kind = .fill k line n f → k < 8 →
        let waiting (t : State) (bad : Bool) (l : List Byte) : Prop :=
          ∀ m g, stackOf m = k → g ∈ (s.core m).flights → g.awaits line = true →
            { id := g.id, line := line, bad := bad, bytes := l } ∈ (t.core m).came
        ((s.stack k).l2.contains line = true → (s.stack k).stale.contains line = false → ∃ t, exec (.readResponse ⟨c, true⟩) s = .next t ∧ SameMem s t ∧ t.cores = s.cores ∧ t.req c.tag = none ∧
          (128 < c.payload.length → line ∈ (t.stack k).bad ∧ (t.stack k).remote = (s.stack k).remote) ∧
          (c.payload.length ≤ 128 → ∃ y, t.copyOf k line = some y ∧ y.valid = BitVec.allOnes 32 ∧ ∀ o, o < 128 →
            y.byte o = match s.copyOf k line with
              | some x => if x.valid.getLsbD (o / 4) then x.byte o else c.payload.getD o 0
              | none => c.payload.getD o 0)) ∧
        ((s.stack k).stale.contains line = true → ∃ t, exec (.readResponse ⟨c, true⟩) s = .next t ∧ SameMem s t ∧ t.req c.tag = none ∧
          (t.stack k).remote = (s.stack k).remote ∧ (t.stack k).bad = (s.stack k).bad ∧
          waiting t (decide (128 < c.payload.length)) c.payload) ∧
        ∃ t, exec (.destinationUnreachable c.tag) s = .next t ∧ SameMem s t ∧ t.req c.tag = none ∧
          (t.stack k).remote = (s.stack k).remote ∧ (t.stack k).bad = (s.stack k).bad ∧ waiting t true []) ∧
      (∀ n k id line, r.kind = .read n k id line → id = fetchId ∨ ((s.core n).flight id).isSome = true → ∃ t, exec (.readResponse ⟨c, true⟩) s = .next t ∧
        t = { s with cores := t.cores, reqs := t.reqs } ∧ t.req c.tag = none ∧ (∀ m, m ≠ n → t.core m = s.core m) ∧
        t.core n = { s.core n with came := (s.core n).came ++
          [{ id := id, line := line, bad := decide (128 < c.payload.length), bytes := c.payload }] }) ∧
      (∀ asn line, r.kind = .table asn line → ∃ t, exec (.readResponse ⟨c, true⟩) s = .next t ∧
        t = { s with tabs := t.tabs, reqs := t.reqs } ∧ t.req c.tag = none ∧
        (asn, { id := 0, line := line, bad := decide (128 < c.payload.length), bytes := c.payload }) ∈ t.tabs) ∧
      (∀ id line, r.kind = .copy id line → ∃ t, exec (.readResponse ⟨c, true⟩) s = .next t ∧ SameMem s t ∧ t.cores = s.cores ∧ t.req c.tag = none ∧
        t.cmds = s.cmds.map fun x => if x.id = id then { x with buf := x.buf ++ [(line, decide (128 < c.payload.length), c.payload)] } else x) ∧
      ((r.kind = .firm ∨ (∃ id, r.kind = .engine id) ∨ (∃ id o, r.kind = .data id o) ∨ ∃ k w line, r.kind = .back k w line) →
        ∃ t, exec (.writeResponse ⟨c, true⟩) s = .next t ∧ t = { s with reqs := t.reqs } ∧ t.req c.tag = none) ∧
      (∀ n k line, r.kind = .store n k line → ∃ t, exec (.writeResponse ⟨c, true⟩) s = .next t ∧ SameMem s t ∧ t.req c.tag = none ∧
        (c.payload.getLast? ≠ some 1 → t = { s with reqs := t.reqs }) ∧
        (c.payload.getLast? = some 1 → ∃ v, (65, v) ∈ (t.ctx n k).asyncs)) ∧
      (∀ n k id line, r.kind = .atomic n k id line → ∃ t, exec (.writeResponse ⟨c, true⟩) s = .next t ∧ SameMem s t ∧ t.req c.tag = none ∧
        (∃ due, (due, Instr.globalLoadReturn n id) ∈ t.sched) ∧
        (∀ f ∈ (s.core n).flights, f.id = id → ∀ q v b, f.kind = .gload q v b →
          { f with kind := .gload q (BitVec.ofNat 64 (leNat c.payload.dropLast)) true } ∈ (t.core n).flights) ∧
        (c.payload.getLast? = some 1 → ∃ v, (65, v) ∈ (t.ctx n k).asyncs)) ∧
      (r.again = true → exec (.requestReissue c.tag) s = .next s) ∧
      (r.again = false → ∃ t, exec (.requestReissue c.tag) s = .next t ∧ SameMem s t ∧ t.cores = s.cores ∧
        t.req c.tag = some { r with again := true } ∧
        (∃ due, s.now < due ∧ (due, Instr.destinationUnreachable c.tag) ∈ t.sched) ∧
        (s.gone.contains r.cell.dst.toNat = false → { core := none, cls := 0, weight := 1, dst := r.cell.dst.toNat, msg := .cell { r.cell with
          vc := 2, ring := 0, passes := 0, dir := if s.ringDown 0 Config.pkg then 1 else 0 } } ∈ (t.stack (r.cell.src.toNat % 8)).inject)) ∧
      (∀ n k line, r.kind = .store n k line → ∃ t, exec (.destinationUnreachable c.tag) s = .next t ∧ SameMem s t ∧ t.req c.tag = none ∧
        (65, poisonVal n (line * 128)) ∈ (t.ctx n k).asyncs) ∧
      (∀ n k id, r.kind = .take n k id → ∃ t, exec (.destinationUnreachable c.tag) s = .next t ∧ SameMem s t ∧ t.req c.tag = none ∧
        (66, takeFailed (fld r.cell.xt 0 4)) ∈ (t.ctx n k).asyncs) ∧
      (∀ n k id line, r.kind = .atomic n k id line → ∃ t, exec (.destinationUnreachable c.tag) s = .next t ∧ SameMem s t ∧
        t.req c.tag = none ∧ (65, poisonVal n (line * 128)) ∈ (t.ctx n k).asyncs ∧
        (∀ f ∈ (s.core n).flights, f.id = id → ∀ q v b, f.kind = .gload q v b → { f with kind := .gload q 0 true } ∈ (t.core n).flights))) ∧
    (c.du.toNat < 192 → ∃ t, exec (.signal ⟨c, true⟩) s = .next t ∧ OnlyCore (c.dst.toNat % 8 * 192 + c.du.toNat) s t ∧
      t.core (c.dst.toNat % 8 * 192 + c.du.toNat) = { s.core (c.dst.toNat % 8 * 192 + c.du.toNat) with
        flgNew := (s.core (c.dst.toNat % 8 * 192 + c.du.toNat)).flgNew ||| BitVec.ofNat 64 (2 ^ (c.addr.toNat % 64)) }) ∧
    (192 ≤ c.du.toNat → exec (.signal ⟨c, true⟩) s = .next s)

/-- A station without room lets a broadcast cell pass to the next station, or back to its originator; one with room
stores its payload, once, sets its bit in CPD and passes it on; a bridge takes a copy for the ring below, of a
collective's only where that holds a member of its group. A broadcast that every station has copied is removed, else
it goes round once more, then as ordinary cells. A returned cell is reinserted on the escape channel with RFS cleared;
a timed-out one turns its direction, but for channel cells and escape cells. A cell that fails its CRC is sent again;
the eighth failure in a row puts the segment down, and the cell goes the other way; training it up clears its record.
An escape cell that is removed makes its access unreachable only where it carries an awaited access of this package:
the line that a load asked for comes poisoned to what waits for it, a store is lost with cause 65 for its context.
(R283, R284, R285, R287, R375, R378) -/
def Obligations.RingCells : Prop :=
  ∀ (c : RingCell) (g : SegRef) (k : Nat) (s : State),
    let goes (t : State) (y : RingCell) : Prop :=
      let here := y.dst.toNat / 8 = Config.pkg ∧ (y.bc = true → y.lvl = 0)
      (here → ∀ i, arrivalOf y = some i → ∃ due, (due, i) ∈ t.sched) ∧ (¬ here → Out.cell y ∈ t.outbox)
    let on (t : State) (y : RingCell) : Prop :=
      (y.lvl = 0 ∧ y.src.toNat / 8 = Config.pkg → ∃ due, (due, if k % 8 = y.src.toNat % 8 then Instr.broadcastReturn y (y.rfs == 1)
        else .broadcastData y (nextStop y k) true) ∈ t.sched) ∧
      (¬ (y.lvl = 0 ∧ y.src.toNat / 8 = Config.pkg) → Out.cell y ∈ t.outbox)
    let copied : RingCell := { c with xt := setFld c.xt k 1 1 }
    let fresh : Prop := c.bc = false ∨ c.xt.getLsbD k = false
    (c.bc = false → ∃ t, exec (.broadcastData c k false) s = .next t ∧ StaysOnRing c s t) ∧
    (c.bc = true → ∃ t, exec (.broadcastData c k false) s = .next t ∧ t = { s with sched := t.sched, outbox := t.outbox } ∧ on t c) ∧
    (c.bc = true → c.xt.getLsbD k = true → ∃ t, exec (.broadcastData c k true) s = .next t ∧
      t = { s with sched := t.sched, outbox := t.outbox } ∧ on t copied) ∧
    (c.lvl = 0 → c.du ≠ 193 → fresh → AtHome s (peerOf k * 2 ^ 45 + c.addr.toNat) c.payload.length → InSlice s (peerOf k * 2 ^ 45 + c.addr.toNat) →
      ∃ t, exec (.broadcastData c k true) s = .next t ∧ Lands (peerOf k * 2 ^ 45 + c.addr.toNat) c.payload s t ∧ t.cores = s.cores ∧
        (c.bc = true → on t copied)) ∧
    (1 ≤ c.lvl.toNat → fresh →
      let below : Prop := c.du ≠ 193 ∨ ∃ m, s.group (collGroup c) = some m ∧
        ∃ p ∈ m.members, if c.lvl = 1 then p / 8 = Config.pkg else p / 256 = Config.pkg / 32
      let y : RingCell := { c with lvl := 0, xt := 0, rfs := 0, src := BitVec.ofNat 12 (peerOf (c.src.toNat % 8))
                                   dst := BitVec.ofNat 12 (peerOf (c.src.toNat % 8)) }
      ∃ t, exec (.broadcastData c k true) s = .next t ∧ SameMem s t ∧ t.cores = s.cores ∧ (c.bc = true → on t copied) ∧
        (below → c.lvl = 1 → ∃ due, (due, Instr.broadcastData y (nextStop y (c.src.toNat % 8)) true) ∈ t.sched) ∧
        (below → c.lvl ≠ 1 → Out.cell { c with lvl := 1, xt := 0, rfs := 0 } ∈ t.outbox) ∧
        (¬ below → c.bc = false → t = s)) ∧
    (∀ second, (∀ p, p < ringSize c.lvl → ringHas c.lvl c.ring.toNat c.src.toNat p = true → c.xt.getLsbD p = true) →
      exec (.broadcastReturn c second) s = .next s) ∧
    (∀ p, p < ringSize c.lvl → ringHas c.lvl c.ring.toNat c.src.toNat p = true → c.xt.getLsbD p = false →
      (let y : RingCell := { c with rfs := 1 }
       ∃ t, exec (.broadcastReturn c false) s = .next t ∧ t = { s with sched := t.sched, outbox := t.outbox } ∧
        (c.lvl = 0 ∧ c.src.toNat / 8 = Config.pkg → ∃ due, (due, Instr.broadcastData y (nextStop y c.src.toNat) true) ∈ t.sched) ∧
        (¬ (c.lvl = 0 ∧ c.src.toNat / 8 = Config.pkg) → Out.cell y ∈ t.outbox)) ∧
      ∃ t, exec (.broadcastReturn c true) s = .next t ∧ SameMem s t ∧ t.cores = s.cores ∧
        goes t { c with bc := false, vc := 2, ring := 0, passes := 0, rfs := 0, dst := BitVec.ofNat 12 (ringPeer c.lvl c.src.toNat p)
                        dir := if s.ringDown c.lvl.toNat (ringOf c) then 1 else 0 }) ∧
    (∃ t, exec (.returnedCell c g) s = .next t ∧ SameMem s t ∧ t.cores = s.cores ∧
      goes t { c with vc := 2, ring := 0, passes := 0, rfs := 0, ret := false, dir := if s.ringDown g.lvl g.ring then 1 else 0 }) ∧
    (∃ t, exec (.directionTimeout c g) s = .next t ∧ SameMem s t ∧ t.cores = s.cores ∧ 
      goes t (if c.ty = 7 ∨ c.ty = 8 ∨ c.vc = 2 then c else { c with dir := ~~~c.dir })) ∧
    ((s.seg g).down = true ∨ (s.seg g).fails < 7 → ∃ t, exec (.cellCrcFail c g) s = .next t ∧ SameMem s t ∧ t.cores = s.cores ∧ goes t c ∧
      (t.seg g).down = (s.seg g).down ∧ (t.seg g).fails = (s.seg g).fails + 1) ∧
    ((s.seg g).down = false → 7 ≤ (s.seg g).fails →
      let u := s.setSeg { s.seg g with fails := (s.seg g).fails + 1, down := true }
      u.cutStacks = [] → u.cutSlots = [] →
      ∃ t, exec (.cellCrcFail c g) s = .next t ∧ SameMem s t ∧ t.cores = s.cores ∧ goes t { c with dir := ~~~c.dir } ∧ (t.seg g).down = true) ∧
    (∃ t, exec (.segmentTrainedUp g) s = .next t ∧ t = { s with segs := t.segs } ∧ t.seg g = { ref := g, fails := 0, down := false } ∧
      ∀ h, h ≠ g → t.seg h = s.seg h) ∧
    (s.carries c = false → ∃ t, exec (.escapeCellRemoved c g) s = .next t ∧ SameMem s t ∧ t.cores = s.cores ∧ t.reqs = s.reqs) ∧
    (∀ r u line n k, s.carries c = true → s.req c.tag = some r → r.kind = .fill u line n k → u < 8 →
      ∃ t, exec (.escapeCellRemoved c g) s = .next t ∧ SameMem s t ∧ t.req c.tag = none ∧ (t.stack u).remote = (s.stack u).remote ∧
        ∀ m f, stackOf m = u → f ∈ (s.core m).flights → f.awaits line = true →
          { id := f.id, line := line, bad := true, bytes := [] } ∈ (t.core m).came) ∧
    (∀ r n k line, s.carries c = true → s.req c.tag = some r → r.kind = .store n k line →
      ∃ t, exec (.escapeCellRemoved c g) s = .next t ∧ SameMem s t ∧ t.req c.tag = none ∧ (65, poisonVal n (line * 128)) ∈ (t.ctx n k).asyncs)

/-- An uncorrectable error of a line, and a failed pool request, poison the line, and one of its words in a cache
leaves no copy (log 55); one of a landing row zeroes its half, with cause 65; one of a context's own state passes it
to firmware (WHY 3). Errors and droops are counted, saturating. A back-invalidated line leaves every cache of its
stack, and the pool holds what its other user wrote. A lost port is down, a retrained one up. Halving halves every
group's counters. A scheduled swap runs unless eight do, and completes later: RES becomes its home page, both counters
are cleared, a pin that waited for it is set, and it leaves the list; one that cannot read a line of both pages will
be abandoned: it changes neither RES nor CMP and poisons those lines. (R264, R266, R267, R268, R271, R325, R362, R363,
R364, R365, R395, R396) -/
def Obligations.MemoryDevices : Prop :=
  ∀ (s : State) (k n g a : Nat) (u : BitVec 3) (h : BitVec 4) (p : BitVec 1) (dp : BitVec 2),
    let count (t : State) (r e : Nat) (top : Nat) : Prop :=
      t.life.sram.counter r e = min (s.life.sram.counter r e + 1) top ∧
      ∀ x y, (x ≠ r ∨ y ≠ e) → t.life.sram.counter x y = s.life.sram.counter x y
    (∃ t, exec (.uncorrectableError (.line u a)) s = .next t ∧ SameMem s t ∧
      (∀ l, l ∈ t.poison ↔ (ownFpa a = true ∧ l = a / 128) ∨ l ∈ s.poison) ∧ count t 4 ((8 * stackAt a + u.toNat) * 2 + 1) (2 ^ 32 - 1) ∧
      (u ≠ 3 → t = { s with poison := t.poison, life := t.life }) ∧
      (u = 3 → ∀ j, j < 8 → t.copyOf j (a / 128) = none ∧
        (ownFpa a = false → (s.copyOf j (a / 128)).isSome = true → a / 128 ∈ (t.stack j).bad))) ∧
    (∀ (id : Nat) (hi : Bool) (f : Flight), (s.core n).flight id = some f → ∃ t, exec (.uncorrectableError (.landing n id a hi)) s = .next t ∧
      SameMem s t ∧ (65, poisonVal n a) ∈ (t.ctx n f.ctx).asyncs ∧ count t 4 ((8 * stackOf n + 1) * 2 + 1) (2 ^ 32 - 1) ∧
      ∀ q x b l, f.kind = .land q x b l → ∃ y : Row, { f with kind := .land q y b l } ∈ (t.core n).flights ∧ ∀ j, j < 1024 →
        y.getLsbD j = (hi && x.getLsbD j) ∧ y.getLsbD (1024 + j) = (!hi && x.getLsbD (1024 + j))) ∧
    (s.alive n k = true → (s.ctx n k).st ≠ .saving → (s.ctx n k).st ≠ .saved → (s.ctx n k).ckpts = [] →
      ∃ t, exec (.uncorrectableError (.context u n k)) s = .next t ∧ SameMem s t ∧ (∀ m, m ≠ n → t.core m = s.core m) ∧
        (t.ctx n k).st = .saving ∧ (t.ctx n k).saveTo.isSome = true ∧
        (t.ctx n k).esc = some { why := 3, pw := 0, cyc := (s.core n).time } ∧
        let a := (s.ctx n k).arch
        (t.ctx n k).arch = { a with
          csr := { a.csr with trappc := a.pc }, ih := true, holds := Vector.replicate 8 none, loops := [], skip := 0
          grp := { n := 0, accs := [] }, entered := 0, quiet := false
          shadow := { holds := a.holds, loops := a.loops, skip := a.skip, entered := a.entered, entAt := a.entAt
                      quiet := if a.quiet then some a.pc else none } }) ∧
    (∃ t, exec (.correctedError k u) s = .next t ∧ t = { s with life := t.life } ∧ count t 4 ((8 * k + u.toNat) * 2) (2 ^ 32 - 1)) ∧
    (∃ t, exec (.droopEvent k dp) s = .next t ∧ t = { s with life := t.life } ∧ count t 2 (4 * k + dp.toNat) (2 ^ 64 - 1)) ∧
    (∀ l, ¬ (ownFpa (a * 128) = true ∧ stackAt (a * 128) = k % 8) → exec (.backInvalidate k ⟨a, l⟩) s = .next s) ∧
    (∀ l : List Byte, ownFpa (a * 128) = true → stackAt (a * 128) = k → l.length = 128 → MemInv s →
      ∃ t, exec (.backInvalidate k ⟨a, l⟩) s = .next t ∧ Lands (a * 128) l s t ∧ t.copyOf k a = none ∧
        (t.stack k).l2.contains a = false ∧ ∀ m, stackOf m = k → (t.core m).hasLine a = false) ∧
    (∀ w, ∃ t, exec (.cxlRequestFailed a w) s = .next t ∧ t = { s with poison := t.poison, life := t.life } ∧
      ∀ l, l ∈ t.poison ↔ l = a / 128 ∨ l ∈ s.poison) ∧
    (∃ t, exec (.cxlLinkLoss k p) s = .next t ∧ SameMem s t ∧ t.cores = s.cores ∧ (t.stack k).ports.getLsbD p.toNat = false ∧
      (t.stack k).ports.getLsbD (1 - p.toNat) = (s.stack k).ports.getLsbD (1 - p.toNat) ∧ ∀ b, s.bootHost = some b →
        t.outbox = s.outbox ++ [.completion b 0x81 0 2 (BitVec.ofNat 64 (2 * (k % 8) + p.toNat + 2 ^ 16 * peerOf k)) []]) ∧
    (∃ t, exec (.portRetrained k p) s = .next t ∧ t = { s with stk := t.stk } ∧ (t.stack k).ports.getLsbD p.toNat = true ∧
      (t.stack k).ports.getLsbD (1 - p.toNat) = (s.stack k).ports.getLsbD (1 - p.toNat)) ∧
    (∃ t, exec (.counterHalving k) s = .next t ∧ t = { s with stk := t.stk } ∧ ∀ x, let r := (s.stack k).remapOf x
      let q := (t.stack k).remapOf x
      q = { r with cnt := q.cnt } ∧ ∀ i : Fin 16, q.cnt[i].toNat = r.cnt[i].toNat / 2) ∧
    ((s.stack k).swaps.find? (fun w => w.group == g && !w.running) = none → exec (.swap k g h) s = .next s) ∧
    (∀ w, (s.stack k).swaps.find? (fun w => w.group == g && !w.running) = some w →
      (8 ≤ (s.stack k).running → exec (.swap k g h) s = .next s) ∧
      ((s.stack k).running < 8 → ∃ t, exec (.swap k g h) s = .next t ∧ t = { s with stk := t.stk, sched := t.sched } ∧
        (∃ due ok, s.now < due ∧ (due, Instr.swapComplete k g ok) ∈ t.sched ∧ (ok = true ↔ ∀ j i, i < 512 →
          (j = h.toNat ∨ j = ((s.stack k).remapOf g).res.toNat) →
          s.badLine ((peerOf (k % 8) * 2 ^ 45 + pageAddr g j) / 128 + i) = false)) ∧
        (t.stack k).swaps = (s.stack k).swaps.map fun w => if w.group = g then { w with home := h, running := true, ends := s.now + Config.latSwap } else w)) ∧
    ((s.stack k).swaps.find? (fun w => w.group == g && w.running) = none → ∀ ok, exec (.swapComplete k g ok) s = .next s) ∧
    (∀ w ok, (s.stack k).swaps.find? (fun w => w.group == g && w.running) = some w → w.held = [] →
      let want := decide (0 < assocGet g 0 (s.stack k).pins) || decide (remapBase ≤ g * 65536)
      ((s.stack k).remapOf g).pin = want ∨ (want = true ∧ ok = true ∧ w.home = 0) →
      ∃ t, exec (.swapComplete k g ok) s = .next t ∧ (s.fw.frames = [] → SameMem s t ∧ t.cores = s.cores) ∧
        let r := (s.stack k).remapOf g
        let q := (t.stack k).remapOf g
        q.pin = want ∧ (∀ i : Fin 16, q.cnt[i] = if i.val = w.home.toNat ∨ i.val = r.res.toNat then 0 else r.cnt[i]) ∧
        (ok = true → q.res = w.home ∧ t.poison = s.poison) ∧ (ok = false → q.res = r.res ∧ q.cmp = r.cmp ∧
          ∀ l, l ∈ t.poison ↔ l ∈ s.poison ∨ l ∈ s.unreadable (k % 8) g w.home.toNat ∨ l ∈ s.unreadable (k % 8) g r.res.toNat) ∧
        (t.stack k).swaps = (s.stack k).swaps.filter fun v => v.group != g)

/-- For a command that is taken: IDENT, PLYSTAT and CTRREAD report; ATTEST writes its report; PSETDESC and PTROOT set
a base and a root, drop the address space's cached translations and, for PSETDESC, write a descriptor; LOADIMG writes
an image that lies in one permitted page; HANDLE installs a handle and completes at once where the pages of its extent
are pinned, or resident and in no swap, else once they are; MBXWRITE sets a mailbox and flag, FLAGSET flags; COLLCFG
defines a group; ARBSET, CTRSEL and POWERCAP set their values. Arguments outside their limits complete with ST 2, a
missing core or context with ST 4, and change nothing. (R23, R32, R45, R170, R290, R310, R311, R312, R316, R318, R360) -/
def Obligations.FirmwareTables : Prop :=
  ∀ (q : HostCmd) (s : State), Accepts s →
    let no (i : Instr) (cmd st : Nat) : Prop := ∃ t, exec i s = .next t ∧ Declined q cmd st 0 s t
    let dropped (asn : Nat) (t : State) : Prop := ∀ n, (∀ y ∈ (t.core n).pages, y / 2 ^ 41 ≠ asn ∧ y ∈ (s.core n).pages) ∧
      ∀ y ∈ (t.core n).frames, y / 16 / 2 ^ 41 ≠ asn ∧ y ∈ (s.core n).frames
    (∃ t, exec (.ident q) s = .next t ∧ OnlyFw s t ∧
      Completes q 1 0 0x9A1536 (identityBytes 0 16 ++ leBytes 8 (Config.pkg * 8) ++
        (List.range 24).map fun i => Config.sha512 (identityBytes 208 520) i) s t) ∧
    (∀ (nonce : List Byte) (a : Nat), (nonce.length ≠ 32 ∨ 2 ^ 57 ≤ a → no (.attest q nonce a) 2 2) ∧
      (nonce.length = 32 → a < 2 ^ 57 → ownFpa a = true → AtHome s a 1224 → Settled s a 1224 → ∃ t, exec (.attest q nonce a) s = .next t ∧
        Completes q 2 0 1224 [] s t ∧ Lands a (report nonce) s t ∧ (report nonce).length = 1224)) ∧
    (∀ (asn : Nat) (d : Dword) (x : Source) (n : Nat) (l : List PageSupply),
      (fld d 57 3 ≠ 0 ∨ 4096 ≤ asn ∨ 2 ^ 57 ≤ x.fpa ∨ 2 ^ 32 < n → no (.loadimg q asn d x n l) 3 2) ∧
      (fld d 57 3 = 0 → asn < 4096 → x.fpa < 2 ^ 57 → n ≤ 2 ^ 32 →
        (n = 0 → no (.loadimg q asn d x n l) 3 0) ∧
        ∀ fe, 0 < n → fld d 0 16 + n ≤ 65536 → fld d 16 41 < 2 ^ 41 →
          s.loadPage asn (fld d 16 41) (fld d 60 4) (fld d 0 16 + n) = .ok fe → nbits fe 57 1 = 1 →
          ownFpa (nbits fe 0 57 + fld d 0 16) = true → AtHome s (nbits fe 0 57 + fld d 0 16) n →
          Settled s (nbits fe 0 57 + fld d 0 16) n →
          ∃ t, exec (.loadimg q asn d x n l) s = .next t ∧ Completes q 3 0 0 [] s t ∧
            Lands (nbits fe 0 57 + fld d 0 16) (s.sourceBytes x n) s t)) ∧
    (∀ (asn b k : Nat) (x : Source), (4096 ≤ asn ∨ 2 ^ 57 ≤ b ∨ b % 256 ≠ 0 ∨ 4096 ≤ k ∨ 2 ^ 57 ≤ x.fpa → no (.psetdesc q asn b k x) 4 2) ∧
      (asn < 4096 → b < 2 ^ 57 → b % 256 = 0 → k < 4096 → x.fpa < 2 ^ 57 →
        x.fpa = 0 ∨ (ownFpa (b + 256 * k) = true ∧ AtHome s (b + 256 * k) 256 ∧ Settled s (b + 256 * k) 256) → ∃ t, exec (.psetdesc q asn b k x) s = .next t ∧
        Completes q 4 0 0 [] s t ∧ t.space asn = { s.space asn with base := some b } ∧
        (∀ m, m ≠ asn → t.space m = s.space m) ∧ dropped asn t ∧
        (x.fpa = 0 → SameMem s t) ∧ (x.fpa ≠ 0 → Lands (b + 256 * k) (s.sourceBytes x 256) s t))) ∧
    (∀ asn r : Nat, (4096 ≤ asn ∨ 2 ^ 57 ≤ r ∨ r % 16384 ≠ 0 → no (.ptroot q asn r) 5 2) ∧
      (asn < 4096 → r < 2 ^ 57 → r % 16384 = 0 → ∃ t, exec (.ptroot q asn r) s = .next t ∧ Completes q 5 0 0 [] s t ∧ SameMem s t ∧
        t.space asn = { s.space asn with root := some r } ∧ (∀ m, m ≠ asn → t.space m = s.space m) ∧
        dropped asn t)) ∧
    (∀ (k m asn : Nat) (d : BitVec 512), (8 ≤ k ∨ 4096 ≤ m ∨ 4096 ≤ asn ∨ descBad d = true → no (.handle q k m asn d) 6 2) ∧
      (k < 8 → m < 4096 → asn < 4096 → descBad d = false →
        let h : Handle := { num := m, asn := BitVec.ofNat 12 asn, desc := if fld d 56 8 = 0 then setFld d 56 8 127 else d }
        ∃ t, exec (.handle q k m asn d) s = .next t ∧ SameMem s t ∧ t.cores = s.cores ∧
          (∀ m', m' ≠ m → t.handleOf k m' = s.handleOf k m') ∧ t.handleOf k m = some h ∧
          (Completes q 6 0 0 [] s t ∨ (t.outbox = s.outbox ∧ WaitCmd.pinning q k m ∈ t.fw.waiting)) ∧
          (s.handleOf k m = none → (∀ g ∈ pinGroups (fld h.desc 0 45) h.bytes, ((s.stack k).remapOf g).pin = true ∨
              (((s.stack k).remapOf g).res = 0 ∧ ∀ w ∈ (s.stack k).swaps, w.group ≠ g)) → Completes q 6 0 0 [] s t))) ∧
    (∀ w v : Dword, let n := fld w 0 11
      let k := fld w 12 2
      (mbxBad w = true → no (.mbxwrite q w v) 11 2) ∧ (mbxBad w = false → s.alive n k = false → no (.mbxwrite q w v) 11 4) ∧
      (mbxBad w = false → s.alive n k = true → ∃ t, exec (.mbxwrite q w v) s = .next t ∧ Completes q 11 0 0 [] s t ∧ SameMem s t ∧
        (∀ m, m ≠ n → t.core m = s.core m) ∧ (t.ctx n k).arch = { (s.ctx n k).arch with mb := (t.ctx n k).arch.mb } ∧
        (t.ctx n k).arch.mb.toList = (s.ctx n k).arch.mb.toList.set (fld w 16 3) v ∧
        (t.core n).flgNew = (s.core n).flgNew ||| (if fld w 24 1 = 1 then BitVec.ofNat 64 (2 ^ fld w 26 6) else 0))) ∧
    (∀ (n : Nat) (m : Dword), (1536 ≤ n → no (.flagset q n m) 12 4) ∧
      (n < 1536 → ∃ t, exec (.flagset q n m) s = .next t ∧ Completes q 12 0 0 [] s t ∧ SameMem s t ∧
        (∀ j, j ≠ n → t.core j = s.core j) ∧ t.core n = { s.core n with flgNew := (s.core n).flgNew ||| m })) ∧
    (∀ (g p : Nat) (x : Source), (4096 ≤ g ∨ p < 2 ∨ 4096 < p ∨ 2 ^ 57 ≤ x.fpa → no (.collcfg q g p x) 16 2) ∧
      (g < 4096 → 2 ≤ p → p ≤ 4096 → x.fpa < 2 ^ 57 → ∀ l : List Nat, l.length = p → (∀ m ∈ l, m < 4096) →
        s.sourceBytes x (2 * p) = l.flatMap (leBytes 2) → ∃ t, exec (.collcfg q g p x) s = .next t ∧ Completes q 16 0 0 [] s t ∧
        SameMem s t ∧ t.cores = s.cores ∧ t.group g = some { num := g, members := l, dropped := none, runs := [] } ∧
        ∀ m, m ≠ g → t.group m = s.group m)) ∧
    (∀ a w : Dword, (fld a 24 40 ≠ 0 ∨ w.toNat = 0 ∨ 15 < w.toNat → no (.arbset q a w) 17 2) ∧
      (fld a 24 40 = 0 → 0 < w.toNat → w.toNat ≤ 15 → ∃ t, exec (.arbset q a w) s = .next t ∧ OnlyFw s t ∧ Completes q 17 0 0 [] s t ∧
        t.fw.arbw = a ∧ t.fw.swt = w.toNat)) ∧
    (∀ (k c r : Nat) (en : Bool), (8 ≤ k ∨ 32 ≤ c ∨ r = 0 ∨ 12 < r → no (.ctrsel q k c r en) 18 2) ∧
      (k < 8 → c < 32 → 0 < r → r ≤ 12 → ∃ t, exec (.ctrsel q k c r en) s = .next t ∧ Completes q 18 0 0 [] s t ∧ SameMem s t ∧
        t.cores = s.cores ∧ ∀ d j, assocGet j d (t.stack k).ctrs = if j = c then { src := r, en := en, val := 0 } else assocGet j d (s.stack k).ctrs)) ∧
    (∀ k f n : Nat, (8 ≤ k ∨ n = 0 ∨ 30 < n ∨ 32 < f + n → no (.ctrread q k f n) 19 2) ∧
      (k < 8 → 0 < n → n ≤ 30 → f + n ≤ 32 → ∃ t, exec (.ctrread q k f n) s = .next t ∧ OnlyFw s t ∧ Completes q 19 0 0
        ((List.range n).flatMap fun i => leBytes 8 (assocGet (f + i) { src := 0, en := false, val := 0 } (s.stack k).ctrs).val) s t)) ∧
    (∀ k : Nat, (8 ≤ k → no (.plystat q k) 21 2) ∧ (k < 8 → ∃ t l, exec (.plystat q k) s = .next t ∧ OnlyFw s t ∧ Completes q 21 0 0 l s t ∧
      l.length = 96 ∧ ∀ i, i < 192 → (l.getD (i / 2) 0).toNat / 2 ^ (4 * (i % 2)) % 16 = (s.core (192 * k + i)).ply.toNat)) ∧
    ∀ l t' d : Nat, (l < 1200 ∨ 3600 < l → no (.powercap q l t' d) 22 2) ∧
      (1200 ≤ l → l ≤ 3600 → ∃ t, exec (.powercap q l t' d) s = .next t ∧ OnlyFw s t ∧ Completes q 22 0 l [] s t ∧
        t.fw.limit = l ∧ t.fw.wt = t' ∧ t.fw.wd = d)

/-- A command to a package that has not booted does nothing. LAUNCH with bad parameters completes with ST 2, without
room with ST 3 and the instances it has room for; else it records its launch and completes with its number, and only
Free contexts change: Ready ones start at the entry with s1 the instance, s2 the count, s3 0, others are Reserved;
where it would take the slot of a retired context whose words still run it waits for them (log 54). KILL retires its
targets and takes the words of their unretired bundles, or waits for a target whose trap is in progress; PREEMPT
starts a save, or waits so; RESUME makes a saved context Ready to replay, its registers those of its area (log 18),
the checkpoints of its unretired bundles as they stood; it waits for the lines of an area in another package; a
missing target completes with ST 4. (R48, R49, R50, R51, R53, R62, R63, R313, R314, R315, R329) -/
def Obligations.FirmwareContexts : Prop :=
  ∀ (q : HostCmd) (s : State),
    (∀ i, firmwareCommand i = some q → s.fw.up = false → exec i s = .next s) ∧
    (Accepts s →
      let no (i : Instr) (cmd st r : Nat) : Prop := ∃ t, exec i s = .next t ∧ Declined q cmd st r s t
      (∀ d0 d1 d2 d3 : Dword, let a := launchArgs d0 d1 d2 d3
        let l := s.launchNumber
        (launchBad d1 d3 = true → no (.launch q d0 d1 d2 d3) 7 2 0) ∧
        (launchBad d1 d3 = false → s.roomAll a l < a.icnt → no (.launch q d0 d1 d2 d3) 7 3 (s.roomAll a l)) ∧
        (launchBad d1 d3 = false → a.icnt ≤ s.roomAll a l →
          ∃ t, exec (.launch q d0 d1 d2 d3) s = .next t ∧
          ((t = { s with fw := { s.fw with waiting := s.fw.waiting ++ [.launch q d0 d1 d2 d3] } } ∧
              ∃ n k, k < 4 ∧ (s.ctx n k).st = .retired) ∨
           (Completes q 7 0 l [] s t ∧
            ((∀ n, (s.core n).fused = a.fuse ∨ (s.core n).l1 = []) → SameMem s t) ∧ (∃ r ∈ t.launches, r.num = l ∧ r.host = q.peer ∧ r.fuse = a.fuse) ∧
            (∀ n k, k < 4 → t.ctx n k = s.ctx n k ∨
              ((s.ctx n k).st = .free ∧ ∃ i ix, i < a.icnt ∧ ix < a.cpi ∧ (t.ctx n k).bnd = some (bindOf a q l i ix) ∧
                (ix ≠ 0 → (t.ctx n k).st = .reserved) ∧
                (ix = 0 → (t.ctx n k).st = .ready ∧ (t.ctx n k).arch.pc = d0 ∧ (t.ctx n k).arch.getS 1 = BitVec.ofNat 64 i ∧
                  (t.ctx n k).arch.getS 2 = BitVec.ofNat 64 a.icnt ∧ (t.ctx n k).arch.getS 3 = 0 ∧
                  (t.ctx n k).arch.csr.arbw = s.fw.arbw ∧ (t.core n).flg &&& d2 = 0 ∧ (t.core n).flgNew &&& d2 = 0))) ∧
            (a.icnt = 1 → ∃ n k, k < 4 ∧ (s.ctx n k).st = .free ∧ (t.ctx n k).bnd = some (bindOf a q l 0 0) ∧ (t.ctx n k).st = .ready))))) ∧
      (∀ w : Dword, (killBad w = true → no (.kill q w) 8 2 0) ∧
        (killBad w = false → s.killTargets w = [] → no (.kill q w) 8 4 0) ∧
        (killBad w = false → s.killTargets w ≠ [] → ∃ t, exec (.kill q w) s = .next t ∧ SameMem s t ∧
          t.fw.waiting = s.fw.waiting ++ [.kill q (s.killTargets w)] ∧ ∀ x ∈ s.killTargets w,
            ((s.ctx x.1 x.2).trapping = true → (t.ctx x.1 x.2).dying = true ∧ (t.ctx x.1 x.2).st = (s.ctx x.1 x.2).st ∧
              (t.ctx x.1 x.2).faults = (s.ctx x.1 x.2).faults) ∧
            ((s.ctx x.1 x.2).trapping = false →
              (t.ctx x.1 x.2).st = .retired ∧ (t.ctx x.1 x.2).killed = true ∧ (t.ctx x.1 x.2).ckpts = [] ∧
              ∀ p ∈ (s.ctx x.1 x.2).ckpts.head?, (∀ e ∈ (t.core x.1).queue, e.ctx = x.2 → e.seq < p.seq) ∧
                ∀ f ∈ (t.core x.1).flights, f.ctx = x.2 → f.seq < p.seq))) ∧
      (∀ n k a : Nat, (a % 4096 ≠ 0 ∨ 2 ^ 57 ≤ a → no (.preempt q n k a) 9 2 0) ∧
        (a % 4096 = 0 → a < 2 ^ 57 →
          (4 ≤ k ∨ s.alive n k = false ∨ (s.ctx n k).st = .saving ∨ (s.ctx n k).st = .saved ∨ (∀ b, (s.ctx n k).bnd = some b → b.pre = false) →
            no (.preempt q n k a) 9 4 0) ∧
          (∀ b, k < 4 → s.alive n k = true → (s.ctx n k).st ≠ .saving → (s.ctx n k).st ≠ .saved → (s.ctx n k).bnd = some b → b.pre = true →
            ∃ t, exec (.preempt q n k a) s = .next t ∧ OnlyCtx n k s { t with fw := s.fw } ∧
              ((s.ctx n k).trapping = true → t.ctx n k = { s.ctx n k with leave := some a }) ∧
              ((s.ctx n k).trapping = false → (t.ctx n k).st = .saving ∧ (t.ctx n k).saveTo = some a ∧
                (t.ctx n k).arch = (s.ctx n k).arch) ∧ t.fw.waiting = s.fw.waiting ++ [.save q n k]))) ∧
      (∀ n k a : Nat, (s.saved.find? (fun v => v.pcn == n && v.k == k && v.fpa == a) = none → no (.resume q n k a) 10 4 0) ∧
        (∀ v, s.saved.find? (fun v => v.pcn == n && v.k == k && v.fpa == a) = some v →
          (1536 ≤ n ∨ (s.ctx n k).st ≠ .saved → no (.resume q n k a) 10 4 0) ∧
          let size := (s.ctx n k).saveBytes
          (n < 1536 → (s.ctx n k).st = .saved → s.areaLacks a size ≠ [] → ∃ t, exec (.resume q n k a) s = .next t ∧ SameMem s t ∧
            t.cores = s.cores ∧ t.saved = s.saved ∧ t.fw.waiting = s.fw.waiting ++ [.resume q n k a]) ∧
          (n < 1536 → (s.ctx n k).st = .saved → s.areaLacks a size = [] → ∃ t, exec (.resume q n k a) s = .next t ∧ Completes q 10 0 0 [] s t ∧
            (t.ctx n k).st = (if (s.ctx n k).gone then .retired else .ready) ∧ (t.ctx n k).replay = !(s.ctx n k).gone ∧
            (t.ctx n k).ckpts.map (·.seq) = (s.ctx n k).ckpts.map (·.seq) ∧
            (∀ y ∈ (t.ctx n k).ckpts, (s.ctx n k).gone = false → ∃ z ∈ (s.ctx n k).ckpts, y.arch = { z.arch with rqn := 0 }) ∧
            (s.areaBytes a size = none → SameMem s t ∧ (∀ m, m ≠ n → t.core m = s.core m) ∧
              ((s.ctx n k).gone = false → (t.ctx n k).arch = { (s.ctx n k).arch with rqn := 0 })) ∧
            (inCsr a = false → (s.ctx n k).gone = false → AtHome s a size →
              let rest := a + areaPart (s.ctx n k).poolBytes 5
              SameMem s t ∧ (t.ctx n k).arch.pc = BitVec.ofNat 64 (memNat s (rest + 648) 8) ∧ (t.ctx n k).arch.rqn = 0 ∧
              ∀ r : BitVec 5, r ≠ 0 → (t.ctx n k).arch.getS r = BitVec.ofNat 64 (memNat s (rest + 128 + 8 * r.toNat) 8)) ∧
            (t.core n).queue.map (fun e => (e.ctx, e.seq, e.slot, e.raw)) =
              ((s.core n).queue ++ v.entries).map (fun e => (e.ctx, e.seq, e.slot, e.raw)) ∧
            ∀ y ∈ t.saved, ¬ (y.pcn = n ∧ y.k = k)))))

/-- With arguments outside their layout these commands complete with ST 2, as CNSAVE of an unconfigured network does.
Otherwise the command waits, its network holds new tokens at their entry, CNCONFIG times out after the drain limit,
and a network without tokens is told at once that it is quiet. RESET commits the lifetime record at its start; without
tokens in any network it leaves no context, memory, handle, domain object, network or group, the dispatcher at core 0
and the settings of R312, completes, and boots only an image that passes its checks; with tokens it waits with every
context ended. (R293, R296, R312, R313, R315, R380, R396) -/
def Obligations.NetworkCommandsAndReset : Prop :=
  ∀ (q : HostCmd) (s : State), Accepts s →
    let no (i : Instr) (cmd st : Nat) : Prop := ∃ t, exec i s = .next t ∧ Declined q cmd st 0 s t
    let waits (i : Instr) (d : NetRef) (w : WaitCmd) (lim : Bool) : Prop := ∃ t, exec i s = .next t ∧
      t = { s with fw := t.fw, nets := t.nets, sched := t.sched } ∧ t.fw.waiting = s.fw.waiting ++ [w] ∧
      t.nets = s.nets.map (fun x => if x.ref = d then { x with hold := true } else x) ∧
      (s.isQuiet d = true → ∃ due, (due, Instr.networkQuiet d) ∈ t.sched) ∧
      (lim = true → ∃ due, (due, Instr.networkDrainTimeout d) ∈ t.sched)
    (∀ dom nw b h0 h1 : Dword,
      (netOf dom nw true = none → no (.cnconfig q dom nw b h0 h1) 13 2) ∧
      (∀ d, netOf dom nw true = some d → hostsBad nw h0 h1 = true → no (.cnconfig q dom nw b h0 h1) 13 2) ∧
      (∀ d, netOf dom nw true = some d → hostsBad nw h0 h1 = false →
        waits (.cnconfig q dom nw b h0 h1) d (.cnconfig q d nw b h0 h1) true)) ∧
    (∀ (dom nw : Dword) (a : Nat),
      (netOf dom nw false = none → no (.cnsave q dom nw a) 14 2) ∧
      (∀ d, netOf dom nw false = some d → s.net d = none → no (.cnsave q dom nw a) 14 2) ∧
      (∀ d x, netOf dom nw false = some d → s.net d = some x → 2 ^ 57 ≤ a → no (.cnsave q dom nw a) 14 2) ∧
      (∀ d x, netOf dom nw false = some d → s.net d = some x → a < 2 ^ 57 → waits (.cnsave q dom nw a) d (.cnsave q d a) false)) ∧
    (∀ (dom nw : Dword) (x : Source),
      (netOf dom nw false = none → no (.cnrestore q dom nw x) 15 2) ∧
      (∀ d, netOf dom nw false = some d → 2 ^ 57 ≤ x.fpa → no (.cnrestore q dom nw x) 15 2) ∧
      (∀ d, netOf dom nw false = some d → x.fpa < 2 ^ 57 →
        waits (.cnrestore q dom nw x) d (.cnrestore q d (s.sourceBytes x 176)) false)) ∧
    ((∃ x ∈ s.nets, s.isQuiet x.ref = false) → (∀ w ∈ s.fw.waiting, ∀ r, w ≠ .reset r) → ∃ t, exec (.reset q) s = .next t ∧ SameMem s t ∧
      t.fw.waiting = s.fw.waiting ++ [.reset q] ∧ (∀ n k, (t.ctx n k).st = .free) ∧ (∀ x ∈ t.nets, x.hold = true) ∧ t.life = s.life.commit ∧
      ∀ x ∈ s.nets, s.isQuiet x.ref = false → ∃ due, (due, Instr.networkDrainTimeout x.ref) ∈ t.sched) ∧
    ((∀ x ∈ s.nets, s.isQuiet x.ref = true) → (∀ w ∈ s.fw.waiting, ∀ r, w ≠ .reset r) → ∃ t ready, exec (.reset q) s = .next t ∧
      t.mem = [] ∧ (∀ n k, (t.ctx n k).st = .free) ∧ t.nets = [] ∧ t.groups = [] ∧ (∀ k, (t.stack k).handles = [] ∧ (t.stack k).doms = []) ∧
      t.fw = { Fw.reset with up := s.image } ∧ t.outbox = s.outbox ++ [.completion q.peer 23 q.seq 0 0 []] ++ ready ∧
      (ready = [] ∨ s.image = true ∧ ∃ p, ready = [.completion p 0 0 0 0 []]) ∧ t.life = s.life.commit ∧
      (max s.life.flashA.gen s.life.flashB.gen + 1 < 2 ^ 64 →
        t.life.latest = { s.life.sram with gen := max s.life.flashA.gen s.life.flashB.gen + 1 }))

/-- LIFEREAD within its limits copies bytes of the latest committed snapshot and completes with its generation, else
with ST 2. A sample adds one second and one count in the bin of each ply's temperature and each stack's voltage. A
commit overwrites the older flash copy with the record and the next generation, counters saturating, and happens only
with power. Power-on clears the package, resumes the newer copy with PWRC raised and, where the image passes its
checks, sends the ready message to a known boot host, else does not boot; ring training that finds the first adapter
sends it then. Power loss keeps both flash copies, loses the record in SRAM and takes the package down. (R315, R395,
R396, R397) -/
def Obligations.LifetimeAndPower : Prop :=
  ∀ (s : State),
    (∀ (q : HostCmd) (r o n a : Nat), Accepts s →
      ((7 ≤ r ∨ o % 8 ≠ 0 ∨ n % 8 ≠ 0 ∨ n < 8 ∨ 8192 < n ∨ 2 ^ 57 ≤ a) → ∃ t, exec (.liferead q r o n a) s = .next t ∧ Declined q 20 2 0 s t) ∧
      (∀ z, regionSize r = some z → o % 8 = 0 → n % 8 = 0 → 8 ≤ n → n ≤ 8192 → a < 2 ^ 57 →
        (z < o + n → ∃ t, exec (.liferead q r o n a) s = .next t ∧ Declined q 20 2 0 s t) ∧
        (o + n ≤ z → ownFpa a = true → AtHome s a n → Settled s a n → ∃ t, exec (.liferead q r o n a) s = .next t ∧
          Completes q 20 0 s.life.latest.gen [] s t ∧ Lands a (((s.life.latest.region r).drop o).take n) s t))) ∧
    (∀ temps volts : List Nat, ∃ t, exec (.lifetimeSample temps volts) s = .next t ∧ t = { s with life := t.life } ∧
      t.life.sram.secs = min (s.life.sram.secs + 1) (2 ^ 64 - 1) ∧
      (∀ i b, i < 32 → b < 16 → t.life.sram.counter 1 (16 * i + b) =
        if i < temps.length ∧ tempBin (temps.getD i 0) = b then min (s.life.sram.counter 1 (16 * i + b) + 1) (2 ^ 32 - 1)
        else s.life.sram.counter 1 (16 * i + b)) ∧
      (∀ i b, i < 8 → b < 16 → t.life.sram.counter 5 (16 * i + b) =
        if i < volts.length ∧ voltBin (volts.getD i 0) = b then min (s.life.sram.counter 5 (16 * i + b) + 1) (2 ^ 32 - 1)
        else s.life.sram.counter 5 (16 * i + b))) ∧
    (s.fw.up = false → exec .snapshotCommit s = .next s) ∧
    (s.fw.up = true → ∃ t, exec .snapshotCommit s = .next t ∧ t = { s with life := t.life } ∧
      t.life.sram = { s.life.sram with gen := min (max s.life.flashA.gen s.life.flashB.gen + 1) (2 ^ 64 - 1) } ∧
      (max s.life.flashA.gen s.life.flashB.gen + 1 < 2 ^ 64 → t.life.latest = t.life.sram) ∧
      (s.life.flashB.gen < s.life.flashA.gen → t.life.flashA = s.life.flashA ∧ t.life.flashB = t.life.sram) ∧
      (s.life.flashA.gen ≤ s.life.flashB.gen → t.life.flashB = s.life.flashB ∧ t.life.flashA = t.life.sram)) ∧
    (∃ t ready, exec .powerOn s = .next t ∧ t.mem = [] ∧ (∀ n k, (t.ctx n k).st = .free) ∧ t.fw = { Fw.reset with up := s.image } ∧
      t.life = { s.life with sram := { s.life.latest with pwrc := min (s.life.latest.pwrc + 1) (2 ^ 32 - 1) } } ∧ t.outbox = s.outbox ++ ready ∧
      (∀ p, s.image = true → bootPeer = some p → ready = [.completion p 0 0 0 0 []]) ∧ (s.image = false ∨ bootPeer = none → ready = [])) ∧
    (∃ t, exec .powerLoss s = .next t ∧ t.mem = [] ∧ t.fw.up = false ∧ t.life.flashA = s.life.flashA ∧ t.life.flashB = s.life.flashB ∧
      t.life.sram = LifeRec.reset ∧ ∀ n k, (t.ctx n k).st = .free) ∧
    (∀ p, s.fw.up = true → s.bootHost = none → ∃ t, exec (.ring0Retrain (some p)) s = .next t ∧ OnlyFw s t ∧ t.bootHost = some (BitVec.ofNat 12 p) ∧
      t.outbox = s.outbox ++ [.completion (BitVec.ofNat 12 p) 0 0 0 0 []]) ∧
    exec (.ring0Retrain none) s = .next s ∧
    ∀ f p, s.fw.up = false ∨ s.bootHost = some p → exec (.ring0Retrain f) s = .next s

/-- For every well-formed instruction of an opcode map, with every operand at every value that the encoding admits,
the encoder gives a word of 32 bits, and decoding that word under the instruction's slot gives the instruction back.
Conversely every word that decodes under a slot is the encoding of the instruction that it decodes to, which is well
formed and belongs to that slot: no bit of a word is dropped. (R66, R67, R120, R125, R129, R130, R131, R132, R330,
R331) -/
def Obligations.CodecAgrees : Prop :=
  (∀ (i : Instr) (sm : SlotMap), i.wf = true → i.slotMap = some sm →
    ∃ w, encode i = some w ∧ w < 2 ^ 32 ∧ decodeWord sm w = .ok i) ∧
  ∀ (sm : SlotMap) (w : Nat) (i : Instr), w < 2 ^ 32 → decodeWord sm w = .ok i →
    i.wf = true ∧ i.slotMap = some sm ∧ encode i = some w

/-- One or two words of each opcode map, as the spec prints them beside their assembly, decode under their slot to
that instruction; an all-ones S word does not decode, nor does an S word with H set. (R139, R141, R145, R182, R190,
R193, R203, R205, R223, R243, R330, R331) -/
def Obligations.SpecWords : Prop :=
  decodeWord .s 0x04064282 = .ok (.mul 0 0 3 4 5) ∧
  decodeWord .s 0x08042040 = .ok (.addi 0 0 2 2 64) ∧
  decodeWord .s 0x34061100 = .ok (.pand 0 0 3 1 2) ∧
  decodeWord .s 0x58400000 = .ok (.lexit 0 1 0) ∧
  decodeWord .l 0x0C033000 = .ok (.ldv 0 0 0 3 6 0) ∧
  decodeWord .t 0x48295005 = .ok (.arrw 0 0 20 21 5) ∧
  decodeWord .t 0x440A0003 = .ok (.take 0 0 5 3) ∧
  decodeWord .m 0x14009000 = .ok (.mchn 0 0 9) ∧
  decodeWord .v 0x04203042 = .ok (.vadd 0 0 2 0 3 0 1 0 2) ∧
  decodeWord .v 0xB8203001 = .ok (.viota 0 0 2 0 3 1) ∧
  decodeWord .k 0x18012000 = .ok (.krng 0 0 9) ∧
  decodeWord .k 0x08091F80 = .ok (.ktab 0 0 1 0 8) ∧
  decodeWord .s 0xFFFFFFFF = .error .unassignedOp ∧
  decodeWord .s 0x0A042040 = .error .unassignedField

/-- Where the next move is a due event or an event of the machine, the step is exec of it; where it is the issue of a
queue entry, the step is exec of the entry's instruction after the entry has left its queue; where it is a cell at the
command port, the step is exec of the firmware command that its header names, with its parameters in the order of
R311; where none is left, the cycle ends. A bundle whose dispatch leaves an S word has it executed in the same step.
What is said of exec is therefore said of step; the entries are the decoded words of the bundle at the pc
(DispatchOfABundle). (R66, R69, R309, R311, R313, R319) -/
def Obligations.StepRuns : Prop :=
  ∀ (s : State),
    (∀ (i : Instr) (u : State), (nextMove s = .event i ∧ u = s) ∨ (∃ d, nextMove s = .sched d i ∧ u = s.take d i) →
      (∀ r, exec i u = .fault r → step s = .fault r) ∧ (∀ r, exec i u = .refused r → step s = .refused r) ∧
      (∀ t, exec i u = .next t → t.act.sword = none → step s = .next t.rest) ∧
      (∀ t w v, exec i u = .next t → t.act.sword = some w → exec w t.noSword = .next v → step s = .next (t.noSword.afterSword v))) ∧
    (∀ (n : Nat) (e : Entry), nextMove s = .issue n e → ∀ t, exec e.instr (s.issueStart n e) = .next t → t.act.sword = none →
      step s = .next t.rest) ∧
    (∀ (d : Nat) (c : RingCell) (i : Instr) (t : State), nextMove s = .command d c → CellHolds c i →
      exec i (s.takeCell d c) = .next t → step s = .next t.rest) ∧
    (nextMove s = .tick → step s = .next s.tick)

/-- For every state whose memory is in canonical form (addresses strictly rising, no cell that reads as an unlisted
one), if a step of the package goes on, memory is in canonical form after it: equal memories stay equal data. (R3,
R40, R195) -/
def Obligations.MemoryInvariant : Prop :=
  ∀ s t : State, MemInv s → step s = .next t → MemInv t

/-- At reset memory is canonical with nothing listed; every core is stopped with four Free contexts, both weight sets
hold code 0 of E4M3 under ply mask 0b1111, PLY is full and no chain is set; no launch, domain object, handle, network,
group, command or request stands; the dispatcher is at core 0, the limit 3600 W, w_t 16, w_d 1, the launch ARBW
0x1_0101 and SWT 4. (Memory that nothing has written reading 0, and a core's other values: the model's, log 1 and log
2.) (R56, R160, R205, R219, R312, R315) -/
def Obligations.ResetState : Prop :=
  let s := State.reset
  MemInv s ∧ s.mem = [] ∧
  (∀ n, (s.core n).cur = none ∧ (s.core n).clk = .freewheel false ∧ (s.core n).active = (s.core n).shadow ∧
    (s.core n).active.ty = 5 ∧ (s.core n).active.mask = 15 ∧ (s.core n).active.w = List.replicate 64 0 ∧
    (s.core n).ply = 15 ∧ (s.core n).chainN = 0 ∧ ∀ k, (s.ctx n k).st = .free) ∧
  (∀ t, (s.stack t).handles = [] ∧ (s.stack t).doms = []) ∧ s.launches = [] ∧ s.nets = [] ∧ s.groups = [] ∧ s.cmds = [] ∧ s.reqs = [] ∧
  s.fw.cursor = 0 ∧ s.fw.limit = 3600 ∧ s.fw.wt = 16 ∧ s.fw.wd = 1 ∧ s.fw.arbw = 0x10101 ∧ s.fw.swt = 4
end

