-- ==== Sys2Proof/Laws/State.lean ====
section
/-!
SUPPORT. The fields of a state after an update, one lemma per field and update, each by `rfl`; and what reading a core,
a context or a stack gives after one of them has been changed.
-/

namespace Sys2Proof.Machine

/-! ### A core replaced or changed -/

@[simp] theorem State.setCore_now (s : State) (n : Nat) (c : Core) : (s.setCore n c).now = s.now := rfl
@[simp] theorem State.setCore_mem (s : State) (n : Nat) (c : Core) : (s.setCore n c).mem = s.mem := rfl
@[simp] theorem State.setCore_poison (s : State) (n : Nat) (c : Core) : (s.setCore n c).poison = s.poison := rfl
@[simp] theorem State.setCore_stk (s : State) (n : Nat) (c : Core) : (s.setCore n c).stk = s.stk := rfl
@[simp] theorem State.setCore_spaces (s : State) (n : Nat) (c : Core) : (s.setCore n c).spaces = s.spaces := rfl
@[simp] theorem State.setCore_tabs (s : State) (n : Nat) (c : Core) : (s.setCore n c).tabs = s.tabs := rfl
@[simp] theorem State.setCore_launches (s : State) (n : Nat) (c : Core) : (s.setCore n c).launches = s.launches := rfl
@[simp] theorem State.setCore_nets (s : State) (n : Nat) (c : Core) : (s.setCore n c).nets = s.nets := rfl
@[simp] theorem State.setCore_groups (s : State) (n : Nat) (c : Core) : (s.setCore n c).groups = s.groups := rfl
@[simp] theorem State.setCore_collEarly (s : State) (n : Nat) (c : Core) : (s.setCore n c).collEarly = s.collEarly := rfl
@[simp] theorem State.setCore_cmds (s : State) (n : Nat) (c : Core) : (s.setCore n c).cmds = s.cmds := rfl
@[simp] theorem State.setCore_reqs (s : State) (n : Nat) (c : Core) : (s.setCore n c).reqs = s.reqs := rfl
@[simp] theorem State.setCore_tags (s : State) (n : Nat) (c : Core) : (s.setCore n c).tags = s.tags := rfl
@[simp] theorem State.setCore_replies (s : State) (n : Nat) (c : Core) : (s.setCore n c).replies = s.replies := rfl
@[simp] theorem State.setCore_saved (s : State) (n : Nat) (c : Core) : (s.setCore n c).saved = s.saved := rfl
@[simp] theorem State.setCore_fw (s : State) (n : Nat) (c : Core) : (s.setCore n c).fw = s.fw := rfl
@[simp] theorem State.setCore_life (s : State) (n : Nat) (c : Core) : (s.setCore n c).life = s.life := rfl
@[simp] theorem State.setCore_image (s : State) (n : Nat) (c : Core) : (s.setCore n c).image = s.image := rfl
@[simp] theorem State.setCore_segs (s : State) (n : Nat) (c : Core) : (s.setCore n c).segs = s.segs := rfl
@[simp] theorem State.setCore_gone (s : State) (n : Nat) (c : Core) : (s.setCore n c).gone = s.gone := rfl
@[simp] theorem State.setCore_farBroken (s : State) (n : Nat) (c : Core) : (s.setCore n c).farBroken = s.farBroken := rfl
@[simp] theorem State.setCore_told (s : State) (n : Nat) (c : Core) : (s.setCore n c).told = s.told := rfl
@[simp] theorem State.setCore_outbox (s : State) (n : Nat) (c : Core) : (s.setCore n c).outbox = s.outbox := rfl
@[simp] theorem State.setCore_sched (s : State) (n : Nat) (c : Core) : (s.setCore n c).sched = s.sched := rfl
@[simp] theorem State.setCore_free (s : State) (n : Nat) (c : Core) : (s.setCore n c).free = s.free := rfl
@[simp] theorem State.setCore_act (s : State) (n : Nat) (c : Core) : (s.setCore n c).act = s.act := rfl

/-! ### A core changed -/

@[simp] theorem State.updCore_now (s : State) (n : Nat) (f : Core → Core) : (s.updCore n f).now = s.now := rfl
@[simp] theorem State.updCore_mem (s : State) (n : Nat) (f : Core → Core) : (s.updCore n f).mem = s.mem := rfl
@[simp] theorem State.updCore_poison (s : State) (n : Nat) (f : Core → Core) : (s.updCore n f).poison = s.poison := rfl
@[simp] theorem State.updCore_stk (s : State) (n : Nat) (f : Core → Core) : (s.updCore n f).stk = s.stk := rfl
@[simp] theorem State.updCore_spaces (s : State) (n : Nat) (f : Core → Core) : (s.updCore n f).spaces = s.spaces := rfl
@[simp] theorem State.updCore_tabs (s : State) (n : Nat) (f : Core → Core) : (s.updCore n f).tabs = s.tabs := rfl
@[simp] theorem State.updCore_launches (s : State) (n : Nat) (f : Core → Core) : (s.updCore n f).launches = s.launches := rfl
@[simp] theorem State.updCore_nets (s : State) (n : Nat) (f : Core → Core) : (s.updCore n f).nets = s.nets := rfl
@[simp] theorem State.updCore_groups (s : State) (n : Nat) (f : Core → Core) : (s.updCore n f).groups = s.groups := rfl
@[simp] theorem State.updCore_collEarly (s : State) (n : Nat) (f : Core → Core) : (s.updCore n f).collEarly = s.collEarly := rfl
@[simp] theorem State.updCore_cmds (s : State) (n : Nat) (f : Core → Core) : (s.updCore n f).cmds = s.cmds := rfl
@[simp] theorem State.updCore_reqs (s : State) (n : Nat) (f : Core → Core) : (s.updCore n f).reqs = s.reqs := rfl
@[simp] theorem State.updCore_tags (s : State) (n : Nat) (f : Core → Core) : (s.updCore n f).tags = s.tags := rfl
@[simp] theorem State.updCore_replies (s : State) (n : Nat) (f : Core → Core) : (s.updCore n f).replies = s.replies := rfl
@[simp] theorem State.updCore_saved (s : State) (n : Nat) (f : Core → Core) : (s.updCore n f).saved = s.saved := rfl
@[simp] theorem State.updCore_fw (s : State) (n : Nat) (f : Core → Core) : (s.updCore n f).fw = s.fw := rfl
@[simp] theorem State.updCore_life (s : State) (n : Nat) (f : Core → Core) : (s.updCore n f).life = s.life := rfl
@[simp] theorem State.updCore_image (s : State) (n : Nat) (f : Core → Core) : (s.updCore n f).image = s.image := rfl
@[simp] theorem State.updCore_segs (s : State) (n : Nat) (f : Core → Core) : (s.updCore n f).segs = s.segs := rfl
@[simp] theorem State.updCore_gone (s : State) (n : Nat) (f : Core → Core) : (s.updCore n f).gone = s.gone := rfl
@[simp] theorem State.updCore_farBroken (s : State) (n : Nat) (f : Core → Core) : (s.updCore n f).farBroken = s.farBroken := rfl
@[simp] theorem State.updCore_told (s : State) (n : Nat) (f : Core → Core) : (s.updCore n f).told = s.told := rfl
@[simp] theorem State.updCore_outbox (s : State) (n : Nat) (f : Core → Core) : (s.updCore n f).outbox = s.outbox := rfl
@[simp] theorem State.updCore_sched (s : State) (n : Nat) (f : Core → Core) : (s.updCore n f).sched = s.sched := rfl
@[simp] theorem State.updCore_free (s : State) (n : Nat) (f : Core → Core) : (s.updCore n f).free = s.free := rfl
@[simp] theorem State.updCore_act (s : State) (n : Nat) (f : Core → Core) : (s.updCore n f).act = s.act := rfl

/-! ### A context changed -/

@[simp] theorem State.updCtx_now (s : State) (n k : Nat) (f : Ctx → Ctx) : (s.updCtx n k f).now = s.now := rfl
@[simp] theorem State.updCtx_mem (s : State) (n k : Nat) (f : Ctx → Ctx) : (s.updCtx n k f).mem = s.mem := rfl
@[simp] theorem State.updCtx_poison (s : State) (n k : Nat) (f : Ctx → Ctx) : (s.updCtx n k f).poison = s.poison := rfl
@[simp] theorem State.updCtx_stk (s : State) (n k : Nat) (f : Ctx → Ctx) : (s.updCtx n k f).stk = s.stk := rfl
@[simp] theorem State.updCtx_spaces (s : State) (n k : Nat) (f : Ctx → Ctx) : (s.updCtx n k f).spaces = s.spaces := rfl
@[simp] theorem State.updCtx_tabs (s : State) (n k : Nat) (f : Ctx → Ctx) : (s.updCtx n k f).tabs = s.tabs := rfl
@[simp] theorem State.updCtx_launches (s : State) (n k : Nat) (f : Ctx → Ctx) : (s.updCtx n k f).launches = s.launches := rfl
@[simp] theorem State.updCtx_nets (s : State) (n k : Nat) (f : Ctx → Ctx) : (s.updCtx n k f).nets = s.nets := rfl
@[simp] theorem State.updCtx_groups (s : State) (n k : Nat) (f : Ctx → Ctx) : (s.updCtx n k f).groups = s.groups := rfl
@[simp] theorem State.updCtx_collEarly (s : State) (n k : Nat) (f : Ctx → Ctx) : (s.updCtx n k f).collEarly = s.collEarly := rfl
@[simp] theorem State.updCtx_cmds (s : State) (n k : Nat) (f : Ctx → Ctx) : (s.updCtx n k f).cmds = s.cmds := rfl
@[simp] theorem State.updCtx_reqs (s : State) (n k : Nat) (f : Ctx → Ctx) : (s.updCtx n k f).reqs = s.reqs := rfl
@[simp] theorem State.updCtx_tags (s : State) (n k : Nat) (f : Ctx → Ctx) : (s.updCtx n k f).tags = s.tags := rfl
@[simp] theorem State.updCtx_replies (s : State) (n k : Nat) (f : Ctx → Ctx) : (s.updCtx n k f).replies = s.replies := rfl
@[simp] theorem State.updCtx_saved (s : State) (n k : Nat) (f : Ctx → Ctx) : (s.updCtx n k f).saved = s.saved := rfl
@[simp] theorem State.updCtx_fw (s : State) (n k : Nat) (f : Ctx → Ctx) : (s.updCtx n k f).fw = s.fw := rfl
@[simp] theorem State.updCtx_life (s : State) (n k : Nat) (f : Ctx → Ctx) : (s.updCtx n k f).life = s.life := rfl
@[simp] theorem State.updCtx_image (s : State) (n k : Nat) (f : Ctx → Ctx) : (s.updCtx n k f).image = s.image := rfl
@[simp] theorem State.updCtx_segs (s : State) (n k : Nat) (f : Ctx → Ctx) : (s.updCtx n k f).segs = s.segs := rfl
@[simp] theorem State.updCtx_gone (s : State) (n k : Nat) (f : Ctx → Ctx) : (s.updCtx n k f).gone = s.gone := rfl
@[simp] theorem State.updCtx_farBroken (s : State) (n k : Nat) (f : Ctx → Ctx) : (s.updCtx n k f).farBroken = s.farBroken := rfl
@[simp] theorem State.updCtx_told (s : State) (n k : Nat) (f : Ctx → Ctx) : (s.updCtx n k f).told = s.told := rfl
@[simp] theorem State.updCtx_outbox (s : State) (n k : Nat) (f : Ctx → Ctx) : (s.updCtx n k f).outbox = s.outbox := rfl
@[simp] theorem State.updCtx_sched (s : State) (n k : Nat) (f : Ctx → Ctx) : (s.updCtx n k f).sched = s.sched := rfl
@[simp] theorem State.updCtx_free (s : State) (n k : Nat) (f : Ctx → Ctx) : (s.updCtx n k f).free = s.free := rfl
@[simp] theorem State.updCtx_act (s : State) (n k : Nat) (f : Ctx → Ctx) : (s.updCtx n k f).act = s.act := rfl

/-! ### The core of the running word changed -/

@[simp] theorem State.updMyCore_now (s : State) (f : Core → Core) : (s.updMyCore f).now = s.now := rfl
@[simp] theorem State.updMyCore_mem (s : State) (f : Core → Core) : (s.updMyCore f).mem = s.mem := rfl
@[simp] theorem State.updMyCore_poison (s : State) (f : Core → Core) : (s.updMyCore f).poison = s.poison := rfl
@[simp] theorem State.updMyCore_stk (s : State) (f : Core → Core) : (s.updMyCore f).stk = s.stk := rfl
@[simp] theorem State.updMyCore_spaces (s : State) (f : Core → Core) : (s.updMyCore f).spaces = s.spaces := rfl
@[simp] theorem State.updMyCore_tabs (s : State) (f : Core → Core) : (s.updMyCore f).tabs = s.tabs := rfl
@[simp] theorem State.updMyCore_launches (s : State) (f : Core → Core) : (s.updMyCore f).launches = s.launches := rfl
@[simp] theorem State.updMyCore_nets (s : State) (f : Core → Core) : (s.updMyCore f).nets = s.nets := rfl
@[simp] theorem State.updMyCore_groups (s : State) (f : Core → Core) : (s.updMyCore f).groups = s.groups := rfl
@[simp] theorem State.updMyCore_collEarly (s : State) (f : Core → Core) : (s.updMyCore f).collEarly = s.collEarly := rfl
@[simp] theorem State.updMyCore_cmds (s : State) (f : Core → Core) : (s.updMyCore f).cmds = s.cmds := rfl
@[simp] theorem State.updMyCore_reqs (s : State) (f : Core → Core) : (s.updMyCore f).reqs = s.reqs := rfl
@[simp] theorem State.updMyCore_tags (s : State) (f : Core → Core) : (s.updMyCore f).tags = s.tags := rfl
@[simp] theorem State.updMyCore_replies (s : State) (f : Core → Core) : (s.updMyCore f).replies = s.replies := rfl
@[simp] theorem State.updMyCore_saved (s : State) (f : Core → Core) : (s.updMyCore f).saved = s.saved := rfl
@[simp] theorem State.updMyCore_fw (s : State) (f : Core → Core) : (s.updMyCore f).fw = s.fw := rfl
@[simp] theorem State.updMyCore_life (s : State) (f : Core → Core) : (s.updMyCore f).life = s.life := rfl
@[simp] theorem State.updMyCore_image (s : State) (f : Core → Core) : (s.updMyCore f).image = s.image := rfl
@[simp] theorem State.updMyCore_segs (s : State) (f : Core → Core) : (s.updMyCore f).segs = s.segs := rfl
@[simp] theorem State.updMyCore_gone (s : State) (f : Core → Core) : (s.updMyCore f).gone = s.gone := rfl
@[simp] theorem State.updMyCore_farBroken (s : State) (f : Core → Core) : (s.updMyCore f).farBroken = s.farBroken := rfl
@[simp] theorem State.updMyCore_told (s : State) (f : Core → Core) : (s.updMyCore f).told = s.told := rfl
@[simp] theorem State.updMyCore_outbox (s : State) (f : Core → Core) : (s.updMyCore f).outbox = s.outbox := rfl
@[simp] theorem State.updMyCore_sched (s : State) (f : Core → Core) : (s.updMyCore f).sched = s.sched := rfl
@[simp] theorem State.updMyCore_free (s : State) (f : Core → Core) : (s.updMyCore f).free = s.free := rfl
@[simp] theorem State.updMyCore_act (s : State) (f : Core → Core) : (s.updMyCore f).act = s.act := rfl

/-! ### The context of the running word changed -/

@[simp] theorem State.updMe_now (s : State) (f : Ctx → Ctx) : (s.updMe f).now = s.now := rfl
@[simp] theorem State.updMe_mem (s : State) (f : Ctx → Ctx) : (s.updMe f).mem = s.mem := rfl
@[simp] theorem State.updMe_poison (s : State) (f : Ctx → Ctx) : (s.updMe f).poison = s.poison := rfl
@[simp] theorem State.updMe_stk (s : State) (f : Ctx → Ctx) : (s.updMe f).stk = s.stk := rfl
@[simp] theorem State.updMe_spaces (s : State) (f : Ctx → Ctx) : (s.updMe f).spaces = s.spaces := rfl
@[simp] theorem State.updMe_tabs (s : State) (f : Ctx → Ctx) : (s.updMe f).tabs = s.tabs := rfl
@[simp] theorem State.updMe_launches (s : State) (f : Ctx → Ctx) : (s.updMe f).launches = s.launches := rfl
@[simp] theorem State.updMe_nets (s : State) (f : Ctx → Ctx) : (s.updMe f).nets = s.nets := rfl
@[simp] theorem State.updMe_groups (s : State) (f : Ctx → Ctx) : (s.updMe f).groups = s.groups := rfl
@[simp] theorem State.updMe_collEarly (s : State) (f : Ctx → Ctx) : (s.updMe f).collEarly = s.collEarly := rfl
@[simp] theorem State.updMe_cmds (s : State) (f : Ctx → Ctx) : (s.updMe f).cmds = s.cmds := rfl
@[simp] theorem State.updMe_reqs (s : State) (f : Ctx → Ctx) : (s.updMe f).reqs = s.reqs := rfl
@[simp] theorem State.updMe_tags (s : State) (f : Ctx → Ctx) : (s.updMe f).tags = s.tags := rfl
@[simp] theorem State.updMe_replies (s : State) (f : Ctx → Ctx) : (s.updMe f).replies = s.replies := rfl
@[simp] theorem State.updMe_saved (s : State) (f : Ctx → Ctx) : (s.updMe f).saved = s.saved := rfl
@[simp] theorem State.updMe_fw (s : State) (f : Ctx → Ctx) : (s.updMe f).fw = s.fw := rfl
@[simp] theorem State.updMe_life (s : State) (f : Ctx → Ctx) : (s.updMe f).life = s.life := rfl
@[simp] theorem State.updMe_image (s : State) (f : Ctx → Ctx) : (s.updMe f).image = s.image := rfl
@[simp] theorem State.updMe_segs (s : State) (f : Ctx → Ctx) : (s.updMe f).segs = s.segs := rfl
@[simp] theorem State.updMe_gone (s : State) (f : Ctx → Ctx) : (s.updMe f).gone = s.gone := rfl
@[simp] theorem State.updMe_farBroken (s : State) (f : Ctx → Ctx) : (s.updMe f).farBroken = s.farBroken := rfl
@[simp] theorem State.updMe_told (s : State) (f : Ctx → Ctx) : (s.updMe f).told = s.told := rfl
@[simp] theorem State.updMe_outbox (s : State) (f : Ctx → Ctx) : (s.updMe f).outbox = s.outbox := rfl
@[simp] theorem State.updMe_sched (s : State) (f : Ctx → Ctx) : (s.updMe f).sched = s.sched := rfl
@[simp] theorem State.updMe_free (s : State) (f : Ctx → Ctx) : (s.updMe f).free = s.free := rfl
@[simp] theorem State.updMe_act (s : State) (f : Ctx → Ctx) : (s.updMe f).act = s.act := rfl

/-! ### The registers of the running word's context changed -/

@[simp] theorem State.onArch_now (s : State) (f : Arch → Arch) : (s.onArch f).now = s.now := rfl
@[simp] theorem State.onArch_mem (s : State) (f : Arch → Arch) : (s.onArch f).mem = s.mem := rfl
@[simp] theorem State.onArch_poison (s : State) (f : Arch → Arch) : (s.onArch f).poison = s.poison := rfl
@[simp] theorem State.onArch_stk (s : State) (f : Arch → Arch) : (s.onArch f).stk = s.stk := rfl
@[simp] theorem State.onArch_spaces (s : State) (f : Arch → Arch) : (s.onArch f).spaces = s.spaces := rfl
@[simp] theorem State.onArch_tabs (s : State) (f : Arch → Arch) : (s.onArch f).tabs = s.tabs := rfl
@[simp] theorem State.onArch_launches (s : State) (f : Arch → Arch) : (s.onArch f).launches = s.launches := rfl
@[simp] theorem State.onArch_nets (s : State) (f : Arch → Arch) : (s.onArch f).nets = s.nets := rfl
@[simp] theorem State.onArch_groups (s : State) (f : Arch → Arch) : (s.onArch f).groups = s.groups := rfl
@[simp] theorem State.onArch_collEarly (s : State) (f : Arch → Arch) : (s.onArch f).collEarly = s.collEarly := rfl
@[simp] theorem State.onArch_cmds (s : State) (f : Arch → Arch) : (s.onArch f).cmds = s.cmds := rfl
@[simp] theorem State.onArch_reqs (s : State) (f : Arch → Arch) : (s.onArch f).reqs = s.reqs := rfl
@[simp] theorem State.onArch_tags (s : State) (f : Arch → Arch) : (s.onArch f).tags = s.tags := rfl
@[simp] theorem State.onArch_replies (s : State) (f : Arch → Arch) : (s.onArch f).replies = s.replies := rfl
@[simp] theorem State.onArch_saved (s : State) (f : Arch → Arch) : (s.onArch f).saved = s.saved := rfl
@[simp] theorem State.onArch_fw (s : State) (f : Arch → Arch) : (s.onArch f).fw = s.fw := rfl
@[simp] theorem State.onArch_life (s : State) (f : Arch → Arch) : (s.onArch f).life = s.life := rfl
@[simp] theorem State.onArch_image (s : State) (f : Arch → Arch) : (s.onArch f).image = s.image := rfl
@[simp] theorem State.onArch_segs (s : State) (f : Arch → Arch) : (s.onArch f).segs = s.segs := rfl
@[simp] theorem State.onArch_gone (s : State) (f : Arch → Arch) : (s.onArch f).gone = s.gone := rfl
@[simp] theorem State.onArch_farBroken (s : State) (f : Arch → Arch) : (s.onArch f).farBroken = s.farBroken := rfl
@[simp] theorem State.onArch_told (s : State) (f : Arch → Arch) : (s.onArch f).told = s.told := rfl
@[simp] theorem State.onArch_outbox (s : State) (f : Arch → Arch) : (s.onArch f).outbox = s.outbox := rfl
@[simp] theorem State.onArch_sched (s : State) (f : Arch → Arch) : (s.onArch f).sched = s.sched := rfl
@[simp] theorem State.onArch_free (s : State) (f : Arch → Arch) : (s.onArch f).free = s.free := rfl
@[simp] theorem State.onArch_act (s : State) (f : Arch → Arch) : (s.onArch f).act = s.act := rfl

/-! ### A base die changed -/

@[simp] theorem State.updStack_now (s : State) (t : Nat) (f : Stack → Stack) : (s.updStack t f).now = s.now := rfl
@[simp] theorem State.updStack_mem (s : State) (t : Nat) (f : Stack → Stack) : (s.updStack t f).mem = s.mem := rfl
@[simp] theorem State.updStack_poison (s : State) (t : Nat) (f : Stack → Stack) : (s.updStack t f).poison = s.poison := rfl
@[simp] theorem State.updStack_cores (s : State) (t : Nat) (f : Stack → Stack) : (s.updStack t f).cores = s.cores := rfl
@[simp] theorem State.updStack_spaces (s : State) (t : Nat) (f : Stack → Stack) : (s.updStack t f).spaces = s.spaces := rfl
@[simp] theorem State.updStack_tabs (s : State) (t : Nat) (f : Stack → Stack) : (s.updStack t f).tabs = s.tabs := rfl
@[simp] theorem State.updStack_launches (s : State) (t : Nat) (f : Stack → Stack) : (s.updStack t f).launches = s.launches := rfl
@[simp] theorem State.updStack_nets (s : State) (t : Nat) (f : Stack → Stack) : (s.updStack t f).nets = s.nets := rfl
@[simp] theorem State.updStack_groups (s : State) (t : Nat) (f : Stack → Stack) : (s.updStack t f).groups = s.groups := rfl
@[simp] theorem State.updStack_collEarly (s : State) (t : Nat) (f : Stack → Stack) : (s.updStack t f).collEarly = s.collEarly := rfl
@[simp] theorem State.updStack_cmds (s : State) (t : Nat) (f : Stack → Stack) : (s.updStack t f).cmds = s.cmds := rfl
@[simp] theorem State.updStack_reqs (s : State) (t : Nat) (f : Stack → Stack) : (s.updStack t f).reqs = s.reqs := rfl
@[simp] theorem State.updStack_tags (s : State) (t : Nat) (f : Stack → Stack) : (s.updStack t f).tags = s.tags := rfl
@[simp] theorem State.updStack_replies (s : State) (t : Nat) (f : Stack → Stack) : (s.updStack t f).replies = s.replies := rfl
@[simp] theorem State.updStack_saved (s : State) (t : Nat) (f : Stack → Stack) : (s.updStack t f).saved = s.saved := rfl
@[simp] theorem State.updStack_fw (s : State) (t : Nat) (f : Stack → Stack) : (s.updStack t f).fw = s.fw := rfl
@[simp] theorem State.updStack_life (s : State) (t : Nat) (f : Stack → Stack) : (s.updStack t f).life = s.life := rfl
@[simp] theorem State.updStack_image (s : State) (t : Nat) (f : Stack → Stack) : (s.updStack t f).image = s.image := rfl
@[simp] theorem State.updStack_segs (s : State) (t : Nat) (f : Stack → Stack) : (s.updStack t f).segs = s.segs := rfl
@[simp] theorem State.updStack_gone (s : State) (t : Nat) (f : Stack → Stack) : (s.updStack t f).gone = s.gone := rfl
@[simp] theorem State.updStack_farBroken (s : State) (t : Nat) (f : Stack → Stack) : (s.updStack t f).farBroken = s.farBroken := rfl
@[simp] theorem State.updStack_told (s : State) (t : Nat) (f : Stack → Stack) : (s.updStack t f).told = s.told := rfl
@[simp] theorem State.updStack_outbox (s : State) (t : Nat) (f : Stack → Stack) : (s.updStack t f).outbox = s.outbox := rfl
@[simp] theorem State.updStack_sched (s : State) (t : Nat) (f : Stack → Stack) : (s.updStack t f).sched = s.sched := rfl
@[simp] theorem State.updStack_free (s : State) (t : Nat) (f : Stack → Stack) : (s.updStack t f).free = s.free := rfl
@[simp] theorem State.updStack_act (s : State) (t : Nat) (f : Stack → Stack) : (s.updStack t f).act = s.act := rfl

/-! ### An event scheduled -/

@[simp] theorem State.after_now (s : State) (d : Nat) (i : Instr) : (s.after d i).now = s.now := rfl
@[simp] theorem State.after_mem (s : State) (d : Nat) (i : Instr) : (s.after d i).mem = s.mem := rfl
@[simp] theorem State.after_poison (s : State) (d : Nat) (i : Instr) : (s.after d i).poison = s.poison := rfl
@[simp] theorem State.after_cores (s : State) (d : Nat) (i : Instr) : (s.after d i).cores = s.cores := rfl
@[simp] theorem State.after_stk (s : State) (d : Nat) (i : Instr) : (s.after d i).stk = s.stk := rfl
@[simp] theorem State.after_spaces (s : State) (d : Nat) (i : Instr) : (s.after d i).spaces = s.spaces := rfl
@[simp] theorem State.after_tabs (s : State) (d : Nat) (i : Instr) : (s.after d i).tabs = s.tabs := rfl
@[simp] theorem State.after_launches (s : State) (d : Nat) (i : Instr) : (s.after d i).launches = s.launches := rfl
@[simp] theorem State.after_nets (s : State) (d : Nat) (i : Instr) : (s.after d i).nets = s.nets := rfl
@[simp] theorem State.after_groups (s : State) (d : Nat) (i : Instr) : (s.after d i).groups = s.groups := rfl
@[simp] theorem State.after_collEarly (s : State) (d : Nat) (i : Instr) : (s.after d i).collEarly = s.collEarly := rfl
@[simp] theorem State.after_cmds (s : State) (d : Nat) (i : Instr) : (s.after d i).cmds = s.cmds := rfl
@[simp] theorem State.after_reqs (s : State) (d : Nat) (i : Instr) : (s.after d i).reqs = s.reqs := rfl
@[simp] theorem State.after_tags (s : State) (d : Nat) (i : Instr) : (s.after d i).tags = s.tags := rfl
@[simp] theorem State.after_replies (s : State) (d : Nat) (i : Instr) : (s.after d i).replies = s.replies := rfl
@[simp] theorem State.after_saved (s : State) (d : Nat) (i : Instr) : (s.after d i).saved = s.saved := rfl
@[simp] theorem State.after_fw (s : State) (d : Nat) (i : Instr) : (s.after d i).fw = s.fw := rfl
@[simp] theorem State.after_life (s : State) (d : Nat) (i : Instr) : (s.after d i).life = s.life := rfl
@[simp] theorem State.after_image (s : State) (d : Nat) (i : Instr) : (s.after d i).image = s.image := rfl
@[simp] theorem State.after_segs (s : State) (d : Nat) (i : Instr) : (s.after d i).segs = s.segs := rfl
@[simp] theorem State.after_gone (s : State) (d : Nat) (i : Instr) : (s.after d i).gone = s.gone := rfl
@[simp] theorem State.after_farBroken (s : State) (d : Nat) (i : Instr) : (s.after d i).farBroken = s.farBroken := rfl
@[simp] theorem State.after_told (s : State) (d : Nat) (i : Instr) : (s.after d i).told = s.told := rfl
@[simp] theorem State.after_outbox (s : State) (d : Nat) (i : Instr) : (s.after d i).outbox = s.outbox := rfl
@[simp] theorem State.after_free (s : State) (d : Nat) (i : Instr) : (s.after d i).free = s.free := rfl
@[simp] theorem State.after_act (s : State) (d : Nat) (i : Instr) : (s.after d i).act = s.act := rfl

/-! ### Something leaves the package -/

@[simp] theorem State.emit_now (s : State) (x : Out) : (s.emit x).now = s.now := rfl
@[simp] theorem State.emit_mem (s : State) (x : Out) : (s.emit x).mem = s.mem := rfl
@[simp] theorem State.emit_poison (s : State) (x : Out) : (s.emit x).poison = s.poison := rfl
@[simp] theorem State.emit_cores (s : State) (x : Out) : (s.emit x).cores = s.cores := rfl
@[simp] theorem State.emit_stk (s : State) (x : Out) : (s.emit x).stk = s.stk := rfl
@[simp] theorem State.emit_spaces (s : State) (x : Out) : (s.emit x).spaces = s.spaces := rfl
@[simp] theorem State.emit_tabs (s : State) (x : Out) : (s.emit x).tabs = s.tabs := rfl
@[simp] theorem State.emit_launches (s : State) (x : Out) : (s.emit x).launches = s.launches := rfl
@[simp] theorem State.emit_nets (s : State) (x : Out) : (s.emit x).nets = s.nets := rfl
@[simp] theorem State.emit_groups (s : State) (x : Out) : (s.emit x).groups = s.groups := rfl
@[simp] theorem State.emit_collEarly (s : State) (x : Out) : (s.emit x).collEarly = s.collEarly := rfl
@[simp] theorem State.emit_cmds (s : State) (x : Out) : (s.emit x).cmds = s.cmds := rfl
@[simp] theorem State.emit_reqs (s : State) (x : Out) : (s.emit x).reqs = s.reqs := rfl
@[simp] theorem State.emit_tags (s : State) (x : Out) : (s.emit x).tags = s.tags := rfl
@[simp] theorem State.emit_replies (s : State) (x : Out) : (s.emit x).replies = s.replies := rfl
@[simp] theorem State.emit_saved (s : State) (x : Out) : (s.emit x).saved = s.saved := rfl
@[simp] theorem State.emit_fw (s : State) (x : Out) : (s.emit x).fw = s.fw := rfl
@[simp] theorem State.emit_life (s : State) (x : Out) : (s.emit x).life = s.life := rfl
@[simp] theorem State.emit_image (s : State) (x : Out) : (s.emit x).image = s.image := rfl
@[simp] theorem State.emit_segs (s : State) (x : Out) : (s.emit x).segs = s.segs := rfl
@[simp] theorem State.emit_gone (s : State) (x : Out) : (s.emit x).gone = s.gone := rfl
@[simp] theorem State.emit_farBroken (s : State) (x : Out) : (s.emit x).farBroken = s.farBroken := rfl
@[simp] theorem State.emit_told (s : State) (x : Out) : (s.emit x).told = s.told := rfl
@[simp] theorem State.emit_sched (s : State) (x : Out) : (s.emit x).sched = s.sched := rfl
@[simp] theorem State.emit_free (s : State) (x : Out) : (s.emit x).free = s.free := rfl
@[simp] theorem State.emit_act (s : State) (x : Out) : (s.emit x).act = s.act := rfl

/-! ### Bytes stored -/

@[simp] theorem State.store_now (s : State) (a : Nat) (l : List Byte) : (s.store a l).now = s.now := rfl
@[simp] theorem State.store_poison (s : State) (a : Nat) (l : List Byte) : (s.store a l).poison = s.poison := rfl
@[simp] theorem State.store_cores (s : State) (a : Nat) (l : List Byte) : (s.store a l).cores = s.cores := rfl
@[simp] theorem State.store_stk (s : State) (a : Nat) (l : List Byte) : (s.store a l).stk = s.stk := rfl
@[simp] theorem State.store_spaces (s : State) (a : Nat) (l : List Byte) : (s.store a l).spaces = s.spaces := rfl
@[simp] theorem State.store_tabs (s : State) (a : Nat) (l : List Byte) : (s.store a l).tabs = s.tabs := rfl
@[simp] theorem State.store_launches (s : State) (a : Nat) (l : List Byte) : (s.store a l).launches = s.launches := rfl
@[simp] theorem State.store_nets (s : State) (a : Nat) (l : List Byte) : (s.store a l).nets = s.nets := rfl
@[simp] theorem State.store_groups (s : State) (a : Nat) (l : List Byte) : (s.store a l).groups = s.groups := rfl
@[simp] theorem State.store_collEarly (s : State) (a : Nat) (l : List Byte) : (s.store a l).collEarly = s.collEarly := rfl
@[simp] theorem State.store_cmds (s : State) (a : Nat) (l : List Byte) : (s.store a l).cmds = s.cmds := rfl
@[simp] theorem State.store_reqs (s : State) (a : Nat) (l : List Byte) : (s.store a l).reqs = s.reqs := rfl
@[simp] theorem State.store_tags (s : State) (a : Nat) (l : List Byte) : (s.store a l).tags = s.tags := rfl
@[simp] theorem State.store_replies (s : State) (a : Nat) (l : List Byte) : (s.store a l).replies = s.replies := rfl
@[simp] theorem State.store_saved (s : State) (a : Nat) (l : List Byte) : (s.store a l).saved = s.saved := rfl
@[simp] theorem State.store_fw (s : State) (a : Nat) (l : List Byte) : (s.store a l).fw = s.fw := rfl
@[simp] theorem State.store_life (s : State) (a : Nat) (l : List Byte) : (s.store a l).life = s.life := rfl
@[simp] theorem State.store_image (s : State) (a : Nat) (l : List Byte) : (s.store a l).image = s.image := rfl
@[simp] theorem State.store_segs (s : State) (a : Nat) (l : List Byte) : (s.store a l).segs = s.segs := rfl
@[simp] theorem State.store_gone (s : State) (a : Nat) (l : List Byte) : (s.store a l).gone = s.gone := rfl
@[simp] theorem State.store_farBroken (s : State) (a : Nat) (l : List Byte) : (s.store a l).farBroken = s.farBroken := rfl
@[simp] theorem State.store_told (s : State) (a : Nat) (l : List Byte) : (s.store a l).told = s.told := rfl
@[simp] theorem State.store_outbox (s : State) (a : Nat) (l : List Byte) : (s.store a l).outbox = s.outbox := rfl
@[simp] theorem State.store_sched (s : State) (a : Nat) (l : List Byte) : (s.store a l).sched = s.sched := rfl
@[simp] theorem State.store_free (s : State) (a : Nat) (l : List Byte) : (s.store a l).free = s.free := rfl
@[simp] theorem State.store_act (s : State) (a : Nat) (l : List Byte) : (s.store a l).act = s.act := rfl

/-! ### A context of a core replaced -/

@[simp] theorem Core.setCtx_pcn (c : Core) (k : Nat) (x : Ctx) : (c.setCtx k x).pcn = c.pcn := rfl
@[simp] theorem Core.setCtx_cyc (c : Core) (k : Nat) (x : Ctx) : (c.setCtx k x).cyc = c.cyc := rfl
@[simp] theorem Core.setCtx_stopped (c : Core) (k : Nat) (x : Ctx) : (c.setCtx k x).stopped = c.stopped := rfl
@[simp] theorem Core.setCtx_clk (c : Core) (k : Nat) (x : Ctx) : (c.setCtx k x).clk = c.clk := rfl
@[simp] theorem Core.setCtx_cur (c : Core) (k : Nat) (x : Ctx) : (c.setCtx k x).cur = c.cur := rfl
@[simp] theorem Core.setCtx_curFor (c : Core) (k : Nat) (x : Ctx) : (c.setCtx k x).curFor = c.curFor := rfl
@[simp] theorem Core.setCtx_last (c : Core) (k : Nat) (x : Ctx) : (c.setCtx k x).last = c.last := rfl
@[simp] theorem Core.setCtx_flg (c : Core) (k : Nat) (x : Ctx) : (c.setCtx k x).flg = c.flg := rfl
@[simp] theorem Core.setCtx_flgNew (c : Core) (k : Nat) (x : Ctx) : (c.setCtx k x).flgNew = c.flgNew := rfl
@[simp] theorem Core.setCtx_ply (c : Core) (k : Nat) (x : Ctx) : (c.setCtx k x).ply = c.ply := rfl
@[simp] theorem Core.setCtx_failed (c : Core) (k : Nat) (x : Ctx) : (c.setCtx k x).failed = c.failed := rfl
@[simp] theorem Core.setCtx_cleared (c : Core) (k : Nat) (x : Ctx) : (c.setCtx k x).cleared = c.cleared := rfl
@[simp] theorem Core.setCtx_oos (c : Core) (k : Nat) (x : Ctx) : (c.setCtx k x).oos = c.oos := rfl
@[simp] theorem Core.setCtx_evsel (c : Core) (k : Nat) (x : Ctx) : (c.setCtx k x).evsel = c.evsel := rfl
@[simp] theorem Core.setCtx_evcnt (c : Core) (k : Nat) (x : Ctx) : (c.setCtx k x).evcnt = c.evcnt := rfl
@[simp] theorem Core.setCtx_evWait (c : Core) (k : Nat) (x : Ctx) : (c.setCtx k x).evWait = c.evWait := rfl
@[simp] theorem Core.setCtx_queue (c : Core) (k : Nat) (x : Ctx) : (c.setCtx k x).queue = c.queue := rfl
@[simp] theorem Core.setCtx_issued (c : Core) (k : Nat) (x : Ctx) : (c.setCtx k x).issued = c.issued := rfl
@[simp] theorem Core.setCtx_ports (c : Core) (k : Nat) (x : Ctx) : (c.setCtx k x).ports = c.ports := rfl
@[simp] theorem Core.setCtx_disp (c : Core) (k : Nat) (x : Ctx) : (c.setCtx k x).disp = c.disp := rfl
@[simp] theorem Core.setCtx_filled (c : Core) (k : Nat) (x : Ctx) : (c.setCtx k x).filled = c.filled := rfl
@[simp] theorem Core.setCtx_synOk (c : Core) (k : Nat) (x : Ctx) : (c.setCtx k x).synOk = c.synOk := rfl
@[simp] theorem Core.setCtx_flights (c : Core) (k : Nat) (x : Ctx) : (c.setCtx k x).flights = c.flights := rfl
@[simp] theorem Core.setCtx_held (c : Core) (k : Nat) (x : Ctx) : (c.setCtx k x).held = c.held := rfl
@[simp] theorem Core.setCtx_multi (c : Core) (k : Nat) (x : Ctx) : (c.setCtx k x).multi = c.multi := rfl
@[simp] theorem Core.setCtx_active (c : Core) (k : Nat) (x : Ctx) : (c.setCtx k x).active = c.active := rfl
@[simp] theorem Core.setCtx_shadow (c : Core) (k : Nat) (x : Ctx) : (c.setCtx k x).shadow = c.shadow := rfl
@[simp] theorem Core.setCtx_load (c : Core) (k : Nat) (x : Ctx) : (c.setCtx k x).load = c.load := rfl
@[simp] theorem Core.setCtx_loadsBack (c : Core) (k : Nat) (x : Ctx) : (c.setCtx k x).loadsBack = c.loadsBack := rfl
@[simp] theorem Core.setCtx_rows (c : Core) (k : Nat) (x : Ctx) : (c.setCtx k x).rows = c.rows := rfl
@[simp] theorem Core.setCtx_rowFrom (c : Core) (k : Nat) (x : Ctx) : (c.setCtx k x).rowFrom = c.rowFrom := rfl
@[simp] theorem Core.setCtx_rowPushed (c : Core) (k : Nat) (x : Ctx) : (c.setCtx k x).rowPushed = c.rowPushed := rfl
@[simp] theorem Core.setCtx_swapAt (c : Core) (k : Nat) (x : Ctx) : (c.setCtx k x).swapAt = c.swapAt := rfl
@[simp] theorem Core.setCtx_runs (c : Core) (k : Nat) (x : Ctx) : (c.setCtx k x).runs = c.runs := rfl
@[simp] theorem Core.setCtx_recs (c : Core) (k : Nat) (x : Ctx) : (c.setCtx k x).recs = c.recs := rfl
@[simp] theorem Core.setCtx_recAt (c : Core) (k : Nat) (x : Ctx) : (c.setCtx k x).recAt = c.recAt := rfl
@[simp] theorem Core.setCtx_mstat (c : Core) (k : Nat) (x : Ctx) : (c.setCtx k x).mstat = c.mstat := rfl
@[simp] theorem Core.setCtx_chainN (c : Core) (k : Nat) (x : Ctx) : (c.setCtx k x).chainN = c.chainN := rfl
@[simp] theorem Core.setCtx_chainP (c : Core) (k : Nat) (x : Ctx) : (c.setCtx k x).chainP = c.chainP := rfl
@[simp] theorem Core.setCtx_tandem (c : Core) (k : Nat) (x : Ctx) : (c.setCtx k x).tandem = c.tandem := rfl
@[simp] theorem Core.setCtx_taken (c : Core) (k : Nat) (x : Ctx) : (c.setCtx k x).taken = c.taken := rfl
@[simp] theorem Core.setCtx_armed (c : Core) (k : Nat) (x : Ctx) : (c.setCtx k x).armed = c.armed := rfl
@[simp] theorem Core.setCtx_pages (c : Core) (k : Nat) (x : Ctx) : (c.setCtx k x).pages = c.pages := rfl
@[simp] theorem Core.setCtx_frames (c : Core) (k : Nat) (x : Ctx) : (c.setCtx k x).frames = c.frames := rfl
@[simp] theorem Core.setCtx_fused (c : Core) (k : Nat) (x : Ctx) : (c.setCtx k x).fused = c.fused := rfl
@[simp] theorem Core.setCtx_l1 (c : Core) (k : Nat) (x : Ctx) : (c.setCtx k x).l1 = c.l1 := rfl
@[simp] theorem Core.setCtx_came (c : Core) (k : Nat) (x : Ctx) : (c.setCtx k x).came = c.came := rfl
@[simp] theorem Core.setCtx_nextId (c : Core) (k : Nat) (x : Ctx) : (c.setCtx k x).nextId = c.nextId := rfl

/-! ### A context of a core changed -/

@[simp] theorem Core.updCtx_pcn (c : Core) (k : Nat) (f : Ctx → Ctx) : (c.updCtx k f).pcn = c.pcn := rfl
@[simp] theorem Core.updCtx_cyc (c : Core) (k : Nat) (f : Ctx → Ctx) : (c.updCtx k f).cyc = c.cyc := rfl
@[simp] theorem Core.updCtx_stopped (c : Core) (k : Nat) (f : Ctx → Ctx) : (c.updCtx k f).stopped = c.stopped := rfl
@[simp] theorem Core.updCtx_clk (c : Core) (k : Nat) (f : Ctx → Ctx) : (c.updCtx k f).clk = c.clk := rfl
@[simp] theorem Core.updCtx_cur (c : Core) (k : Nat) (f : Ctx → Ctx) : (c.updCtx k f).cur = c.cur := rfl
@[simp] theorem Core.updCtx_curFor (c : Core) (k : Nat) (f : Ctx → Ctx) : (c.updCtx k f).curFor = c.curFor := rfl
@[simp] theorem Core.updCtx_last (c : Core) (k : Nat) (f : Ctx → Ctx) : (c.updCtx k f).last = c.last := rfl
@[simp] theorem Core.updCtx_flg (c : Core) (k : Nat) (f : Ctx → Ctx) : (c.updCtx k f).flg = c.flg := rfl
@[simp] theorem Core.updCtx_flgNew (c : Core) (k : Nat) (f : Ctx → Ctx) : (c.updCtx k f).flgNew = c.flgNew := rfl
@[simp] theorem Core.updCtx_ply (c : Core) (k : Nat) (f : Ctx → Ctx) : (c.updCtx k f).ply = c.ply := rfl
@[simp] theorem Core.updCtx_failed (c : Core) (k : Nat) (f : Ctx → Ctx) : (c.updCtx k f).failed = c.failed := rfl
@[simp] theorem Core.updCtx_cleared (c : Core) (k : Nat) (f : Ctx → Ctx) : (c.updCtx k f).cleared = c.cleared := rfl
@[simp] theorem Core.updCtx_oos (c : Core) (k : Nat) (f : Ctx → Ctx) : (c.updCtx k f).oos = c.oos := rfl
@[simp] theorem Core.updCtx_evsel (c : Core) (k : Nat) (f : Ctx → Ctx) : (c.updCtx k f).evsel = c.evsel := rfl
@[simp] theorem Core.updCtx_evcnt (c : Core) (k : Nat) (f : Ctx → Ctx) : (c.updCtx k f).evcnt = c.evcnt := rfl
@[simp] theorem Core.updCtx_evWait (c : Core) (k : Nat) (f : Ctx → Ctx) : (c.updCtx k f).evWait = c.evWait := rfl
@[simp] theorem Core.updCtx_queue (c : Core) (k : Nat) (f : Ctx → Ctx) : (c.updCtx k f).queue = c.queue := rfl
@[simp] theorem Core.updCtx_issued (c : Core) (k : Nat) (f : Ctx → Ctx) : (c.updCtx k f).issued = c.issued := rfl
@[simp] theorem Core.updCtx_ports (c : Core) (k : Nat) (f : Ctx → Ctx) : (c.updCtx k f).ports = c.ports := rfl
@[simp] theorem Core.updCtx_disp (c : Core) (k : Nat) (f : Ctx → Ctx) : (c.updCtx k f).disp = c.disp := rfl
@[simp] theorem Core.updCtx_filled (c : Core) (k : Nat) (f : Ctx → Ctx) : (c.updCtx k f).filled = c.filled := rfl
@[simp] theorem Core.updCtx_synOk (c : Core) (k : Nat) (f : Ctx → Ctx) : (c.updCtx k f).synOk = c.synOk := rfl
@[simp] theorem Core.updCtx_flights (c : Core) (k : Nat) (f : Ctx → Ctx) : (c.updCtx k f).flights = c.flights := rfl
@[simp] theorem Core.updCtx_held (c : Core) (k : Nat) (f : Ctx → Ctx) : (c.updCtx k f).held = c.held := rfl
@[simp] theorem Core.updCtx_multi (c : Core) (k : Nat) (f : Ctx → Ctx) : (c.updCtx k f).multi = c.multi := rfl
@[simp] theorem Core.updCtx_active (c : Core) (k : Nat) (f : Ctx → Ctx) : (c.updCtx k f).active = c.active := rfl
@[simp] theorem Core.updCtx_shadow (c : Core) (k : Nat) (f : Ctx → Ctx) : (c.updCtx k f).shadow = c.shadow := rfl
@[simp] theorem Core.updCtx_load (c : Core) (k : Nat) (f : Ctx → Ctx) : (c.updCtx k f).load = c.load := rfl
@[simp] theorem Core.updCtx_loadsBack (c : Core) (k : Nat) (f : Ctx → Ctx) : (c.updCtx k f).loadsBack = c.loadsBack := rfl
@[simp] theorem Core.updCtx_rows (c : Core) (k : Nat) (f : Ctx → Ctx) : (c.updCtx k f).rows = c.rows := rfl
@[simp] theorem Core.updCtx_rowFrom (c : Core) (k : Nat) (f : Ctx → Ctx) : (c.updCtx k f).rowFrom = c.rowFrom := rfl
@[simp] theorem Core.updCtx_rowPushed (c : Core) (k : Nat) (f : Ctx → Ctx) : (c.updCtx k f).rowPushed = c.rowPushed := rfl
@[simp] theorem Core.updCtx_swapAt (c : Core) (k : Nat) (f : Ctx → Ctx) : (c.updCtx k f).swapAt = c.swapAt := rfl
@[simp] theorem Core.updCtx_runs (c : Core) (k : Nat) (f : Ctx → Ctx) : (c.updCtx k f).runs = c.runs := rfl
@[simp] theorem Core.updCtx_recs (c : Core) (k : Nat) (f : Ctx → Ctx) : (c.updCtx k f).recs = c.recs := rfl
@[simp] theorem Core.updCtx_recAt (c : Core) (k : Nat) (f : Ctx → Ctx) : (c.updCtx k f).recAt = c.recAt := rfl
@[simp] theorem Core.updCtx_mstat (c : Core) (k : Nat) (f : Ctx → Ctx) : (c.updCtx k f).mstat = c.mstat := rfl
@[simp] theorem Core.updCtx_chainN (c : Core) (k : Nat) (f : Ctx → Ctx) : (c.updCtx k f).chainN = c.chainN := rfl
@[simp] theorem Core.updCtx_chainP (c : Core) (k : Nat) (f : Ctx → Ctx) : (c.updCtx k f).chainP = c.chainP := rfl
@[simp] theorem Core.updCtx_tandem (c : Core) (k : Nat) (f : Ctx → Ctx) : (c.updCtx k f).tandem = c.tandem := rfl
@[simp] theorem Core.updCtx_taken (c : Core) (k : Nat) (f : Ctx → Ctx) : (c.updCtx k f).taken = c.taken := rfl
@[simp] theorem Core.updCtx_armed (c : Core) (k : Nat) (f : Ctx → Ctx) : (c.updCtx k f).armed = c.armed := rfl
@[simp] theorem Core.updCtx_pages (c : Core) (k : Nat) (f : Ctx → Ctx) : (c.updCtx k f).pages = c.pages := rfl
@[simp] theorem Core.updCtx_frames (c : Core) (k : Nat) (f : Ctx → Ctx) : (c.updCtx k f).frames = c.frames := rfl
@[simp] theorem Core.updCtx_fused (c : Core) (k : Nat) (f : Ctx → Ctx) : (c.updCtx k f).fused = c.fused := rfl
@[simp] theorem Core.updCtx_l1 (c : Core) (k : Nat) (f : Ctx → Ctx) : (c.updCtx k f).l1 = c.l1 := rfl
@[simp] theorem Core.updCtx_came (c : Core) (k : Nat) (f : Ctx → Ctx) : (c.updCtx k f).came = c.came := rfl
@[simp] theorem Core.updCtx_nextId (c : Core) (k : Nat) (f : Ctx → Ctx) : (c.updCtx k f).nextId = c.nextId := rfl

/-! ### An event counted -/

@[simp] theorem Core.count_pcn (c : Core) (src : Nat) (k : Option Nat) (n : Nat) : (c.count src k n).pcn = c.pcn := rfl
@[simp] theorem Core.count_cyc (c : Core) (src : Nat) (k : Option Nat) (n : Nat) : (c.count src k n).cyc = c.cyc := rfl
@[simp] theorem Core.count_stopped (c : Core) (src : Nat) (k : Option Nat) (n : Nat) : (c.count src k n).stopped = c.stopped := rfl
@[simp] theorem Core.count_clk (c : Core) (src : Nat) (k : Option Nat) (n : Nat) : (c.count src k n).clk = c.clk := rfl
@[simp] theorem Core.count_cur (c : Core) (src : Nat) (k : Option Nat) (n : Nat) : (c.count src k n).cur = c.cur := rfl
@[simp] theorem Core.count_curFor (c : Core) (src : Nat) (k : Option Nat) (n : Nat) : (c.count src k n).curFor = c.curFor := rfl
@[simp] theorem Core.count_last (c : Core) (src : Nat) (k : Option Nat) (n : Nat) : (c.count src k n).last = c.last := rfl
@[simp] theorem Core.count_flg (c : Core) (src : Nat) (k : Option Nat) (n : Nat) : (c.count src k n).flg = c.flg := rfl
@[simp] theorem Core.count_flgNew (c : Core) (src : Nat) (k : Option Nat) (n : Nat) : (c.count src k n).flgNew = c.flgNew := rfl
@[simp] theorem Core.count_ply (c : Core) (src : Nat) (k : Option Nat) (n : Nat) : (c.count src k n).ply = c.ply := rfl
@[simp] theorem Core.count_failed (c : Core) (src : Nat) (k : Option Nat) (n : Nat) : (c.count src k n).failed = c.failed := rfl
@[simp] theorem Core.count_cleared (c : Core) (src : Nat) (k : Option Nat) (n : Nat) : (c.count src k n).cleared = c.cleared := rfl
@[simp] theorem Core.count_oos (c : Core) (src : Nat) (k : Option Nat) (n : Nat) : (c.count src k n).oos = c.oos := rfl
@[simp] theorem Core.count_evsel (c : Core) (src : Nat) (k : Option Nat) (n : Nat) : (c.count src k n).evsel = c.evsel := rfl
@[simp] theorem Core.count_evWait (c : Core) (src : Nat) (k : Option Nat) (n : Nat) : (c.count src k n).evWait = c.evWait := rfl
@[simp] theorem Core.count_queue (c : Core) (src : Nat) (k : Option Nat) (n : Nat) : (c.count src k n).queue = c.queue := rfl
@[simp] theorem Core.count_issued (c : Core) (src : Nat) (k : Option Nat) (n : Nat) : (c.count src k n).issued = c.issued := rfl
@[simp] theorem Core.count_ports (c : Core) (src : Nat) (k : Option Nat) (n : Nat) : (c.count src k n).ports = c.ports := rfl
@[simp] theorem Core.count_disp (c : Core) (src : Nat) (k : Option Nat) (n : Nat) : (c.count src k n).disp = c.disp := rfl
@[simp] theorem Core.count_filled (c : Core) (src : Nat) (k : Option Nat) (n : Nat) : (c.count src k n).filled = c.filled := rfl
@[simp] theorem Core.count_synOk (c : Core) (src : Nat) (k : Option Nat) (n : Nat) : (c.count src k n).synOk = c.synOk := rfl
@[simp] theorem Core.count_flights (c : Core) (src : Nat) (k : Option Nat) (n : Nat) : (c.count src k n).flights = c.flights := rfl
@[simp] theorem Core.count_held (c : Core) (src : Nat) (k : Option Nat) (n : Nat) : (c.count src k n).held = c.held := rfl
@[simp] theorem Core.count_multi (c : Core) (src : Nat) (k : Option Nat) (n : Nat) : (c.count src k n).multi = c.multi := rfl
@[simp] theorem Core.count_active (c : Core) (src : Nat) (k : Option Nat) (n : Nat) : (c.count src k n).active = c.active := rfl
@[simp] theorem Core.count_shadow (c : Core) (src : Nat) (k : Option Nat) (n : Nat) : (c.count src k n).shadow = c.shadow := rfl
@[simp] theorem Core.count_load (c : Core) (src : Nat) (k : Option Nat) (n : Nat) : (c.count src k n).load = c.load := rfl
@[simp] theorem Core.count_loadsBack (c : Core) (src : Nat) (k : Option Nat) (n : Nat) : (c.count src k n).loadsBack = c.loadsBack := rfl
@[simp] theorem Core.count_rows (c : Core) (src : Nat) (k : Option Nat) (n : Nat) : (c.count src k n).rows = c.rows := rfl
@[simp] theorem Core.count_rowFrom (c : Core) (src : Nat) (k : Option Nat) (n : Nat) : (c.count src k n).rowFrom = c.rowFrom := rfl
@[simp] theorem Core.count_rowPushed (c : Core) (src : Nat) (k : Option Nat) (n : Nat) : (c.count src k n).rowPushed = c.rowPushed := rfl
@[simp] theorem Core.count_swapAt (c : Core) (src : Nat) (k : Option Nat) (n : Nat) : (c.count src k n).swapAt = c.swapAt := rfl
@[simp] theorem Core.count_runs (c : Core) (src : Nat) (k : Option Nat) (n : Nat) : (c.count src k n).runs = c.runs := rfl
@[simp] theorem Core.count_recs (c : Core) (src : Nat) (k : Option Nat) (n : Nat) : (c.count src k n).recs = c.recs := rfl
@[simp] theorem Core.count_recAt (c : Core) (src : Nat) (k : Option Nat) (n : Nat) : (c.count src k n).recAt = c.recAt := rfl
@[simp] theorem Core.count_mstat (c : Core) (src : Nat) (k : Option Nat) (n : Nat) : (c.count src k n).mstat = c.mstat := rfl
@[simp] theorem Core.count_chainN (c : Core) (src : Nat) (k : Option Nat) (n : Nat) : (c.count src k n).chainN = c.chainN := rfl
@[simp] theorem Core.count_chainP (c : Core) (src : Nat) (k : Option Nat) (n : Nat) : (c.count src k n).chainP = c.chainP := rfl
@[simp] theorem Core.count_tandem (c : Core) (src : Nat) (k : Option Nat) (n : Nat) : (c.count src k n).tandem = c.tandem := rfl
@[simp] theorem Core.count_taken (c : Core) (src : Nat) (k : Option Nat) (n : Nat) : (c.count src k n).taken = c.taken := rfl
@[simp] theorem Core.count_armed (c : Core) (src : Nat) (k : Option Nat) (n : Nat) : (c.count src k n).armed = c.armed := rfl
@[simp] theorem Core.count_pages (c : Core) (src : Nat) (k : Option Nat) (n : Nat) : (c.count src k n).pages = c.pages := rfl
@[simp] theorem Core.count_frames (c : Core) (src : Nat) (k : Option Nat) (n : Nat) : (c.count src k n).frames = c.frames := rfl
@[simp] theorem Core.count_fused (c : Core) (src : Nat) (k : Option Nat) (n : Nat) : (c.count src k n).fused = c.fused := rfl
@[simp] theorem Core.count_l1 (c : Core) (src : Nat) (k : Option Nat) (n : Nat) : (c.count src k n).l1 = c.l1 := rfl
@[simp] theorem Core.count_came (c : Core) (src : Nat) (k : Option Nat) (n : Nat) : (c.count src k n).came = c.came := rfl
@[simp] theorem Core.count_nextId (c : Core) (src : Nat) (k : Option Nat) (n : Nat) : (c.count src k n).nextId = c.nextId := rfl
@[simp] theorem Core.count_ctxs (c : Core) (src : Nat) (k : Option Nat) (n : Nat) : (c.count src k n).ctxs = c.ctxs := rfl

/-! ### A context's registers changed -/

@[simp] theorem Ctx.change_st (x : Ctx) (q : Nat) (f : Arch → Arch) : (x.change q f).st = x.st := rfl
@[simp] theorem Ctx.change_bnd (x : Ctx) (q : Nat) (f : Arch → Arch) : (x.change q f).bnd = x.bnd := rfl
@[simp] theorem Ctx.change_seq (x : Ctx) (q : Nat) (f : Arch → Arch) : (x.change q f).seq = x.seq := rfl
@[simp] theorem Ctx.change_waitCnt (x : Ctx) (q : Nat) (f : Arch → Arch) : (x.change q f).waitCnt = x.waitCnt := rfl
@[simp] theorem Ctx.change_from_ (x : Ctx) (q : Nat) (f : Arch → Arch) : (x.change q f).from_ = x.from_ := rfl
@[simp] theorem Ctx.change_faults (x : Ctx) (q : Nat) (f : Arch → Arch) : (x.change q f).faults = x.faults := rfl
@[simp] theorem Ctx.change_asyncs (x : Ctx) (q : Nat) (f : Arch → Arch) : (x.change q f).asyncs = x.asyncs := rfl
@[simp] theorem Ctx.change_chans (x : Ctx) (q : Nat) (f : Arch → Arch) : (x.change q f).chans = x.chans := rfl
@[simp] theorem Ctx.change_ctags (x : Ctx) (q : Nat) (f : Arch → Arch) : (x.change q f).ctags = x.ctags := rfl
@[simp] theorem Ctx.change_agent (x : Ctx) (q : Nat) (f : Arch → Arch) : (x.change q f).agent = x.agent := rfl
@[simp] theorem Ctx.change_refusals (x : Ctx) (q : Nat) (f : Arch → Arch) : (x.change q f).refusals = x.refusals := rfl
@[simp] theorem Ctx.change_latches (x : Ctx) (q : Nat) (f : Arch → Arch) : (x.change q f).latches = x.latches := rfl
@[simp] theorem Ctx.change_wq (x : Ctx) (q : Nat) (f : Arch → Arch) : (x.change q f).wq = x.wq := rfl
@[simp] theorem Ctx.change_sync (x : Ctx) (q : Nat) (f : Arch → Arch) : (x.change q f).sync = x.sync := rfl
@[simp] theorem Ctx.change_outer (x : Ctx) (q : Nat) (f : Arch → Arch) : (x.change q f).outer = x.outer := rfl
@[simp] theorem Ctx.change_incs (x : Ctx) (q : Nat) (f : Arch → Arch) : (x.change q f).incs = x.incs := rfl
@[simp] theorem Ctx.change_parent (x : Ctx) (q : Nat) (f : Arch → Arch) : (x.change q f).parent = x.parent := rfl
@[simp] theorem Ctx.change_probe (x : Ctx) (q : Nat) (f : Arch → Arch) : (x.change q f).probe = x.probe := rfl
@[simp] theorem Ctx.change_on (x : Ctx) (q : Nat) (f : Arch → Arch) : (x.change q f).on = x.on := rfl
@[simp] theorem Ctx.change_present (x : Ctx) (q : Nat) (f : Arch → Arch) : (x.change q f).present = x.present := rfl
@[simp] theorem Ctx.change_shown (x : Ctx) (q : Nat) (f : Arch → Arch) : (x.change q f).shown = x.shown := rfl
@[simp] theorem Ctx.change_saveTo (x : Ctx) (q : Nat) (f : Arch → Arch) : (x.change q f).saveTo = x.saveTo := rfl
@[simp] theorem Ctx.change_cf (x : Ctx) (q : Nat) (f : Arch → Arch) : (x.change q f).cf = x.cf := rfl
@[simp] theorem Ctx.change_esc (x : Ctx) (q : Nat) (f : Arch → Arch) : (x.change q f).esc = x.esc := rfl
@[simp] theorem Ctx.change_replay (x : Ctx) (q : Nat) (f : Arch → Arch) : (x.change q f).replay = x.replay := rfl
@[simp] theorem Ctx.change_waits (x : Ctx) (q : Nat) (f : Arch → Arch) : (x.change q f).waits = x.waits := rfl
@[simp] theorem Ctx.change_acqUntil (x : Ctx) (q : Nat) (f : Arch → Arch) : (x.change q f).acqUntil = x.acqUntil := rfl
@[simp] theorem Ctx.change_killed (x : Ctx) (q : Nat) (f : Arch → Arch) : (x.change q f).killed = x.killed := rfl
@[simp] theorem Ctx.change_gone (x : Ctx) (q : Nat) (f : Arch → Arch) : (x.change q f).gone = x.gone := rfl
@[simp] theorem Ctx.change_dying (x : Ctx) (q : Nat) (f : Arch → Arch) : (x.change q f).dying = x.dying := rfl
@[simp] theorem Ctx.change_leave (x : Ctx) (q : Nat) (f : Arch → Arch) : (x.change q f).leave = x.leave := rfl
@[simp] theorem Ctx.change_flushed (x : Ctx) (q : Nat) (f : Arch → Arch) : (x.change q f).flushed = x.flushed := rfl
@[simp] theorem Ctx.change_was (x : Ctx) (q : Nat) (f : Arch → Arch) : (x.change q f).was = x.was := rfl

@[simp] theorem Ctx.change_arch (x : Ctx) (q : Nat) (f : Arch → Arch) : (x.change q f).arch = f x.arch := rfl

/-! ### Association lists -/

theorem assocGet_set_same {α : Type} (k : Nat) (d v : α) (l : List (Nat × α)) : assocGet k d (assocSet k v l) = v := by
  induction l with
  | nil => simp [assocSet, assocGet]
  | cons p r ih => obtain ⟨j, w⟩ := p; by_cases h : j = k <;> simp [assocSet, assocGet, h, ih]

theorem assocGet_set_ne {α : Type} {k m : Nat} (h : m ≠ k) (d v : α) (l : List (Nat × α)) :
    assocGet m d (assocSet k v l) = assocGet m d l := by
  induction l with
  | nil => simp [assocSet, assocGet, Ne.symm h]
  | cons p r ih =>
    obtain ⟨j, w⟩ := p
    by_cases hj : j = k
    · subst hj; simp [assocSet, assocGet, Ne.symm h]
    · by_cases hm : j = m
      · subst hm; simp [assocSet, assocGet, hj]
      · simp [assocSet, assocGet, hj, hm, ih]

/-! ### Cores and contexts -/

@[simp] theorem core_setCore (s : State) (n : Nat) (c : Core) : (s.setCore n c).core n = c := assocGet_set_same ..
theorem core_setCore_ne (s : State) {n m : Nat} (h : m ≠ n) (c : Core) : (s.setCore n c).core m = s.core m := assocGet_set_ne h ..
@[simp] theorem core_updCore (s : State) (n : Nat) (f : Core → Core) : (s.updCore n f).core n = f (s.core n) := core_setCore ..
theorem core_updCore_ne (s : State) {n m : Nat} (h : m ≠ n) (f : Core → Core) : (s.updCore n f).core m = s.core m :=
  core_setCore_ne s h _
@[simp] theorem Core.ctx_setCtx (c : Core) (k : Nat) (x : Ctx) : (c.setCtx k x).ctx k = x := by simp [Core.ctx, Core.setCtx]
theorem Core.ctx_setCtx_ne (c : Core) {k j : Nat} (h : j % 4 ≠ k % 4) (x : Ctx) : (c.setCtx k x).ctx j = c.ctx j := by
  simp [Core.ctx, Core.setCtx, Vector.getElem_set_ne, Ne.symm h]
@[simp] theorem Core.ctx_updCtx (c : Core) (k : Nat) (f : Ctx → Ctx) : (c.updCtx k f).ctx k = f (c.ctx k) := Core.ctx_setCtx ..
theorem Core.ctx_updCtx_ne (c : Core) {k j : Nat} (h : j % 4 ≠ k % 4) (f : Ctx → Ctx) : (c.updCtx k f).ctx j = c.ctx j :=
  Core.ctx_setCtx_ne c h _
@[simp] theorem core_updCtx (s : State) (n k : Nat) (f : Ctx → Ctx) : (s.updCtx n k f).core n = (s.core n).updCtx k f := core_updCore ..
theorem core_updCtx_ne (s : State) {n m : Nat} (h : m ≠ n) (k : Nat) (f : Ctx → Ctx) : (s.updCtx n k f).core m = s.core m :=
  core_updCore_ne s h _
@[simp] theorem ctx_updCtx (s : State) (n k : Nat) (f : Ctx → Ctx) : (s.updCtx n k f).ctx n k = f (s.ctx n k) := by
  simp [State.ctx]
theorem ctx_updCtx_ne (s : State) {n m k j : Nat} (h : m ≠ n ∨ j % 4 ≠ k % 4) (f : Ctx → Ctx) :
    (s.updCtx n k f).ctx m j = s.ctx m j := by
  unfold State.ctx
  by_cases hm : m = n
  · subst hm; simp [Core.ctx_updCtx_ne _ (h.resolve_left (fun e => e rfl))]
  · rw [core_updCtx_ne s hm]
@[simp] theorem myCore_updMyCore (s : State) (f : Core → Core) : (s.updMyCore f).myCore = f s.myCore := core_updCore ..
@[simp] theorem myCore_updMe (s : State) (f : Ctx → Ctx) : (s.updMe f).myCore = s.myCore.updCtx s.act.ctx f := core_updCtx ..
@[simp] theorem me_updMe (s : State) (f : Ctx → Ctx) : (s.updMe f).me = f s.me := ctx_updCtx ..
@[simp] theorem myCore_onArch (s : State) (f : Arch → Arch) :
    (s.onArch f).myCore = s.myCore.updCtx s.act.ctx fun x => x.change s.act.entry.seq f := myCore_updMe ..
@[simp] theorem me_onArch (s : State) (f : Arch → Arch) : (s.onArch f).me = s.me.change s.act.entry.seq f := me_updMe ..
@[simp] theorem arch_onArch (s : State) (f : Arch → Arch) : (s.onArch f).arch = f s.arch := by simp [State.arch]
@[simp] theorem me_updMyCore (s : State) (f : Core → Core) : (s.updMyCore f).me = (f s.myCore).ctx s.act.ctx := by
  simp [State.me, State.ctx, State.myCore, State.updMyCore]

/-! ### Base dies -/

@[simp] theorem stack_updStack (s : State) (t : Nat) (f : Stack → Stack) : (s.updStack t f).stack t = f (s.stack t) := by
  simp [State.stack, State.updStack]
theorem stack_updStack_ne (s : State) {t u : Nat} (h : u % 8 ≠ t % 8) (f : Stack → Stack) :
    (s.updStack t f).stack u = s.stack u := by simp [State.stack, State.updStack, Vector.getElem_set_ne, Ne.symm h]

/-! ### Scalars and predicates -/

@[simp] theorem Arch.getS_zero (a : Arch) : a.getS 0 = 0 := by simp [Arch.getS]
theorem Arch.getS_setS (a : Arch) {d : BitVec 5} (h : d ≠ 0) (v : Dword) : (a.setS d v).getS d = v := by
  unfold Arch.setS; rw [if_neg h]; unfold Arch.getS; rw [if_neg h]; simp
theorem Arch.getS_setS_ne (a : Arch) {d r : BitVec 5} (h : r ≠ d) (v : Dword) : (a.setS d v).getS r = a.getS r := by
  have hn : d.toNat ≠ r.toNat := fun e => h (BitVec.eq_of_toNat_eq e.symm)
  unfold Arch.setS
  split
  · rfl
  · unfold Arch.getS; simp [Vector.getElem_set_ne, hn]
@[simp] theorem Arch.getP_zero (a : Arch) : a.getP 0 = true := by simp [Arch.getP]

/-! ### A scalar written, landed or marked -/

@[simp] theorem Arch.setS_pc (a : Arch) (d : BitVec 5) (v : Dword) : (a.setS d v).pc = a.pc := by
  unfold Arch.setS; split <;> rfl
@[simp] theorem Arch.setS_pend (a : Arch) (d : BitVec 5) (v : Dword) : (a.setS d v).pend = a.pend := by
  unfold Arch.setS; split <;> rfl
@[simp] theorem Arch.setS_rdy (a : Arch) (d : BitVec 5) (v : Dword) : (a.setS d v).rdy = a.rdy := by
  unfold Arch.setS; split <;> rfl
@[simp] theorem Arch.setS_pr (a : Arch) (d : BitVec 5) (v : Dword) : (a.setS d v).pr = a.pr := by
  unfold Arch.setS; split <;> rfl
@[simp] theorem Arch.setS_vq (a : Arch) (d : BitVec 5) (v : Dword) : (a.setS d v).vq = a.vq := by
  unfold Arch.setS; split <;> rfl
@[simp] theorem Arch.setS_rqn (a : Arch) (d : BitVec 5) (v : Dword) : (a.setS d v).rqn = a.rqn := by
  unfold Arch.setS; split <;> rfl
@[simp] theorem Arch.setS_kq (a : Arch) (d : BitVec 5) (v : Dword) : (a.setS d v).kq = a.kq := by
  unfold Arch.setS; split <;> rfl
@[simp] theorem Arch.setS_str (a : Arch) (d : BitVec 5) (v : Dword) : (a.setS d v).str = a.str := by
  unfold Arch.setS; split <;> rfl
@[simp] theorem Arch.setS_masks (a : Arch) (d : BitVec 5) (v : Dword) : (a.setS d v).masks = a.masks := by
  unfold Arch.setS; split <;> rfl
@[simp] theorem Arch.setS_tb (a : Arch) (d : BitVec 5) (v : Dword) : (a.setS d v).tb = a.tb := by
  unfold Arch.setS; split <;> rfl
@[simp] theorem Arch.setS_lidx (a : Arch) (d : BitVec 5) (v : Dword) : (a.setS d v).lidx = a.lidx := by
  unfold Arch.setS; split <;> rfl
@[simp] theorem Arch.setS_loops (a : Arch) (d : BitVec 5) (v : Dword) : (a.setS d v).loops = a.loops := by
  unfold Arch.setS; split <;> rfl
@[simp] theorem Arch.setS_holds (a : Arch) (d : BitVec 5) (v : Dword) : (a.setS d v).holds = a.holds := by
  unfold Arch.setS; split <;> rfl
@[simp] theorem Arch.setS_skip (a : Arch) (d : BitVec 5) (v : Dword) : (a.setS d v).skip = a.skip := by
  unfold Arch.setS; split <;> rfl
@[simp] theorem Arch.setS_grp (a : Arch) (d : BitVec 5) (v : Dword) : (a.setS d v).grp = a.grp := by
  unfold Arch.setS; split <;> rfl
@[simp] theorem Arch.setS_mb (a : Arch) (d : BitVec 5) (v : Dword) : (a.setS d v).mb = a.mb := by
  unfold Arch.setS; split <;> rfl
@[simp] theorem Arch.setS_csr (a : Arch) (d : BitVec 5) (v : Dword) : (a.setS d v).csr = a.csr := by
  unfold Arch.setS; split <;> rfl
@[simp] theorem Arch.setS_ih (a : Arch) (d : BitVec 5) (v : Dword) : (a.setS d v).ih = a.ih := by
  unfold Arch.setS; split <;> rfl
@[simp] theorem Arch.setS_shadow (a : Arch) (d : BitVec 5) (v : Dword) : (a.setS d v).shadow = a.shadow := by
  unfold Arch.setS; split <;> rfl
@[simp] theorem Arch.setS_entered (a : Arch) (d : BitVec 5) (v : Dword) : (a.setS d v).entered = a.entered := by
  unfold Arch.setS; split <;> rfl
@[simp] theorem Arch.setS_entAt (a : Arch) (d : BitVec 5) (v : Dword) : (a.setS d v).entAt = a.entAt := by
  unfold Arch.setS; split <;> rfl
@[simp] theorem Arch.setS_quiet (a : Arch) (d : BitVec 5) (v : Dword) : (a.setS d v).quiet = a.quiet := by
  unfold Arch.setS; split <;> rfl
@[simp] theorem Arch.setS_runs (a : Arch) (d : BitVec 5) (v : Dword) : (a.setS d v).runs = a.runs := by
  unfold Arch.setS; split <;> rfl
@[simp] theorem Arch.land_pc (a : Arch) (d : BitVec 5) (v : Dword) : (a.land d v).pc = a.pc := by
  simp [Arch.land]
@[simp] theorem Arch.land_rdy (a : Arch) (d : BitVec 5) (v : Dword) : (a.land d v).rdy = a.rdy := by
  simp [Arch.land]
@[simp] theorem Arch.land_pr (a : Arch) (d : BitVec 5) (v : Dword) : (a.land d v).pr = a.pr := by
  simp [Arch.land]
@[simp] theorem Arch.land_vq (a : Arch) (d : BitVec 5) (v : Dword) : (a.land d v).vq = a.vq := by
  simp [Arch.land]
@[simp] theorem Arch.land_rqn (a : Arch) (d : BitVec 5) (v : Dword) : (a.land d v).rqn = a.rqn := by
  simp [Arch.land]
@[simp] theorem Arch.land_kq (a : Arch) (d : BitVec 5) (v : Dword) : (a.land d v).kq = a.kq := by
  simp [Arch.land]
@[simp] theorem Arch.land_str (a : Arch) (d : BitVec 5) (v : Dword) : (a.land d v).str = a.str := by
  simp [Arch.land]
@[simp] theorem Arch.land_masks (a : Arch) (d : BitVec 5) (v : Dword) : (a.land d v).masks = a.masks := by
  simp [Arch.land]
@[simp] theorem Arch.land_tb (a : Arch) (d : BitVec 5) (v : Dword) : (a.land d v).tb = a.tb := by
  simp [Arch.land]
@[simp] theorem Arch.land_lidx (a : Arch) (d : BitVec 5) (v : Dword) : (a.land d v).lidx = a.lidx := by
  simp [Arch.land]
@[simp] theorem Arch.land_loops (a : Arch) (d : BitVec 5) (v : Dword) : (a.land d v).loops = a.loops := by
  simp [Arch.land]
@[simp] theorem Arch.land_holds (a : Arch) (d : BitVec 5) (v : Dword) : (a.land d v).holds = a.holds := by
  simp [Arch.land]
@[simp] theorem Arch.land_skip (a : Arch) (d : BitVec 5) (v : Dword) : (a.land d v).skip = a.skip := by
  simp [Arch.land]
@[simp] theorem Arch.land_grp (a : Arch) (d : BitVec 5) (v : Dword) : (a.land d v).grp = a.grp := by
  simp [Arch.land]
@[simp] theorem Arch.land_mb (a : Arch) (d : BitVec 5) (v : Dword) : (a.land d v).mb = a.mb := by
  simp [Arch.land]
@[simp] theorem Arch.land_csr (a : Arch) (d : BitVec 5) (v : Dword) : (a.land d v).csr = a.csr := by
  simp [Arch.land]
@[simp] theorem Arch.land_ih (a : Arch) (d : BitVec 5) (v : Dword) : (a.land d v).ih = a.ih := by
  simp [Arch.land]
@[simp] theorem Arch.land_shadow (a : Arch) (d : BitVec 5) (v : Dword) : (a.land d v).shadow = a.shadow := by
  simp [Arch.land]
@[simp] theorem Arch.land_entered (a : Arch) (d : BitVec 5) (v : Dword) : (a.land d v).entered = a.entered := by
  simp [Arch.land]
@[simp] theorem Arch.land_entAt (a : Arch) (d : BitVec 5) (v : Dword) : (a.land d v).entAt = a.entAt := by
  simp [Arch.land]
@[simp] theorem Arch.land_quiet (a : Arch) (d : BitVec 5) (v : Dword) : (a.land d v).quiet = a.quiet := by
  simp [Arch.land]
@[simp] theorem Arch.land_runs (a : Arch) (d : BitVec 5) (v : Dword) : (a.land d v).runs = a.runs := by
  simp [Arch.land]
@[simp] theorem Arch.mark_pc (a : Arch) (d : BitVec 5) : (a.mark d).pc = a.pc := by
  unfold Arch.mark; split <;> rfl
@[simp] theorem Arch.mark_sr (a : Arch) (d : BitVec 5) : (a.mark d).sr = a.sr := by
  unfold Arch.mark; split <;> rfl
@[simp] theorem Arch.mark_rdy (a : Arch) (d : BitVec 5) : (a.mark d).rdy = a.rdy := by
  unfold Arch.mark; split <;> rfl
@[simp] theorem Arch.mark_pr (a : Arch) (d : BitVec 5) : (a.mark d).pr = a.pr := by
  unfold Arch.mark; split <;> rfl
@[simp] theorem Arch.mark_vq (a : Arch) (d : BitVec 5) : (a.mark d).vq = a.vq := by
  unfold Arch.mark; split <;> rfl
@[simp] theorem Arch.mark_rqn (a : Arch) (d : BitVec 5) : (a.mark d).rqn = a.rqn := by
  unfold Arch.mark; split <;> rfl
@[simp] theorem Arch.mark_kq (a : Arch) (d : BitVec 5) : (a.mark d).kq = a.kq := by
  unfold Arch.mark; split <;> rfl
@[simp] theorem Arch.mark_str (a : Arch) (d : BitVec 5) : (a.mark d).str = a.str := by
  unfold Arch.mark; split <;> rfl
@[simp] theorem Arch.mark_masks (a : Arch) (d : BitVec 5) : (a.mark d).masks = a.masks := by
  unfold Arch.mark; split <;> rfl
@[simp] theorem Arch.mark_tb (a : Arch) (d : BitVec 5) : (a.mark d).tb = a.tb := by
  unfold Arch.mark; split <;> rfl
@[simp] theorem Arch.mark_lidx (a : Arch) (d : BitVec 5) : (a.mark d).lidx = a.lidx := by
  unfold Arch.mark; split <;> rfl
@[simp] theorem Arch.mark_loops (a : Arch) (d : BitVec 5) : (a.mark d).loops = a.loops := by
  unfold Arch.mark; split <;> rfl
@[simp] theorem Arch.mark_holds (a : Arch) (d : BitVec 5) : (a.mark d).holds = a.holds := by
  unfold Arch.mark; split <;> rfl
@[simp] theorem Arch.mark_skip (a : Arch) (d : BitVec 5) : (a.mark d).skip = a.skip := by
  unfold Arch.mark; split <;> rfl
@[simp] theorem Arch.mark_grp (a : Arch) (d : BitVec 5) : (a.mark d).grp = a.grp := by
  unfold Arch.mark; split <;> rfl
@[simp] theorem Arch.mark_mb (a : Arch) (d : BitVec 5) : (a.mark d).mb = a.mb := by
  unfold Arch.mark; split <;> rfl
@[simp] theorem Arch.mark_csr (a : Arch) (d : BitVec 5) : (a.mark d).csr = a.csr := by
  unfold Arch.mark; split <;> rfl
@[simp] theorem Arch.mark_ih (a : Arch) (d : BitVec 5) : (a.mark d).ih = a.ih := by
  unfold Arch.mark; split <;> rfl
@[simp] theorem Arch.mark_shadow (a : Arch) (d : BitVec 5) : (a.mark d).shadow = a.shadow := by
  unfold Arch.mark; split <;> rfl
@[simp] theorem Arch.mark_entered (a : Arch) (d : BitVec 5) : (a.mark d).entered = a.entered := by
  unfold Arch.mark; split <;> rfl
@[simp] theorem Arch.mark_entAt (a : Arch) (d : BitVec 5) : (a.mark d).entAt = a.entAt := by
  unfold Arch.mark; split <;> rfl
@[simp] theorem Arch.mark_quiet (a : Arch) (d : BitVec 5) : (a.mark d).quiet = a.quiet := by
  unfold Arch.mark; split <;> rfl
@[simp] theorem Arch.mark_runs (a : Arch) (d : BitVec 5) : (a.mark d).runs = a.runs := by
  unfold Arch.mark; split <;> rfl
@[simp] theorem Arch.setP_pc (a : Arch) (d : BitVec 4) (v : Bool) : (a.setP d v).pc = a.pc := by
  unfold Arch.setP; split <;> rfl
@[simp] theorem Arch.setP_sr (a : Arch) (d : BitVec 4) (v : Bool) : (a.setP d v).sr = a.sr := by
  unfold Arch.setP; split <;> rfl
@[simp] theorem Arch.setP_pend (a : Arch) (d : BitVec 4) (v : Bool) : (a.setP d v).pend = a.pend := by
  unfold Arch.setP; split <;> rfl
@[simp] theorem Arch.setP_rdy (a : Arch) (d : BitVec 4) (v : Bool) : (a.setP d v).rdy = a.rdy := by
  unfold Arch.setP; split <;> rfl
@[simp] theorem Arch.setP_vq (a : Arch) (d : BitVec 4) (v : Bool) : (a.setP d v).vq = a.vq := by
  unfold Arch.setP; split <;> rfl
@[simp] theorem Arch.setP_rqn (a : Arch) (d : BitVec 4) (v : Bool) : (a.setP d v).rqn = a.rqn := by
  unfold Arch.setP; split <;> rfl
@[simp] theorem Arch.setP_kq (a : Arch) (d : BitVec 4) (v : Bool) : (a.setP d v).kq = a.kq := by
  unfold Arch.setP; split <;> rfl
@[simp] theorem Arch.setP_str (a : Arch) (d : BitVec 4) (v : Bool) : (a.setP d v).str = a.str := by
  unfold Arch.setP; split <;> rfl
@[simp] theorem Arch.setP_masks (a : Arch) (d : BitVec 4) (v : Bool) : (a.setP d v).masks = a.masks := by
  unfold Arch.setP; split <;> rfl
@[simp] theorem Arch.setP_tb (a : Arch) (d : BitVec 4) (v : Bool) : (a.setP d v).tb = a.tb := by
  unfold Arch.setP; split <;> rfl
@[simp] theorem Arch.setP_lidx (a : Arch) (d : BitVec 4) (v : Bool) : (a.setP d v).lidx = a.lidx := by
  unfold Arch.setP; split <;> rfl
@[simp] theorem Arch.setP_loops (a : Arch) (d : BitVec 4) (v : Bool) : (a.setP d v).loops = a.loops := by
  unfold Arch.setP; split <;> rfl
@[simp] theorem Arch.setP_holds (a : Arch) (d : BitVec 4) (v : Bool) : (a.setP d v).holds = a.holds := by
  unfold Arch.setP; split <;> rfl
@[simp] theorem Arch.setP_skip (a : Arch) (d : BitVec 4) (v : Bool) : (a.setP d v).skip = a.skip := by
  unfold Arch.setP; split <;> rfl
@[simp] theorem Arch.setP_grp (a : Arch) (d : BitVec 4) (v : Bool) : (a.setP d v).grp = a.grp := by
  unfold Arch.setP; split <;> rfl
@[simp] theorem Arch.setP_mb (a : Arch) (d : BitVec 4) (v : Bool) : (a.setP d v).mb = a.mb := by
  unfold Arch.setP; split <;> rfl
@[simp] theorem Arch.setP_csr (a : Arch) (d : BitVec 4) (v : Bool) : (a.setP d v).csr = a.csr := by
  unfold Arch.setP; split <;> rfl
@[simp] theorem Arch.setP_ih (a : Arch) (d : BitVec 4) (v : Bool) : (a.setP d v).ih = a.ih := by
  unfold Arch.setP; split <;> rfl
@[simp] theorem Arch.setP_shadow (a : Arch) (d : BitVec 4) (v : Bool) : (a.setP d v).shadow = a.shadow := by
  unfold Arch.setP; split <;> rfl
@[simp] theorem Arch.setP_entered (a : Arch) (d : BitVec 4) (v : Bool) : (a.setP d v).entered = a.entered := by
  unfold Arch.setP; split <;> rfl
@[simp] theorem Arch.setP_entAt (a : Arch) (d : BitVec 4) (v : Bool) : (a.setP d v).entAt = a.entAt := by
  unfold Arch.setP; split <;> rfl
@[simp] theorem Arch.setP_quiet (a : Arch) (d : BitVec 4) (v : Bool) : (a.setP d v).quiet = a.quiet := by
  unfold Arch.setP; split <;> rfl
@[simp] theorem Arch.setP_runs (a : Arch) (d : BitVec 4) (v : Bool) : (a.setP d v).runs = a.runs := by
  unfold Arch.setP; split <;> rfl
@[simp] theorem Arch.setQueue_pc (a : Arch) (q : BitVec 5) (v : VQueue) : (a.setQueue q v).pc = a.pc := rfl
@[simp] theorem Arch.setQueue_sr (a : Arch) (q : BitVec 5) (v : VQueue) : (a.setQueue q v).sr = a.sr := rfl
@[simp] theorem Arch.setQueue_pend (a : Arch) (q : BitVec 5) (v : VQueue) : (a.setQueue q v).pend = a.pend := rfl
@[simp] theorem Arch.setQueue_rdy (a : Arch) (q : BitVec 5) (v : VQueue) : (a.setQueue q v).rdy = a.rdy := rfl
@[simp] theorem Arch.setQueue_pr (a : Arch) (q : BitVec 5) (v : VQueue) : (a.setQueue q v).pr = a.pr := rfl
@[simp] theorem Arch.setQueue_rqn (a : Arch) (q : BitVec 5) (v : VQueue) : (a.setQueue q v).rqn = a.rqn := rfl
@[simp] theorem Arch.setQueue_kq (a : Arch) (q : BitVec 5) (v : VQueue) : (a.setQueue q v).kq = a.kq := rfl
@[simp] theorem Arch.setQueue_str (a : Arch) (q : BitVec 5) (v : VQueue) : (a.setQueue q v).str = a.str := rfl
@[simp] theorem Arch.setQueue_masks (a : Arch) (q : BitVec 5) (v : VQueue) : (a.setQueue q v).masks = a.masks := rfl
@[simp] theorem Arch.setQueue_tb (a : Arch) (q : BitVec 5) (v : VQueue) : (a.setQueue q v).tb = a.tb := rfl
@[simp] theorem Arch.setQueue_lidx (a : Arch) (q : BitVec 5) (v : VQueue) : (a.setQueue q v).lidx = a.lidx := rfl
@[simp] theorem Arch.setQueue_loops (a : Arch) (q : BitVec 5) (v : VQueue) : (a.setQueue q v).loops = a.loops := rfl
@[simp] theorem Arch.setQueue_holds (a : Arch) (q : BitVec 5) (v : VQueue) : (a.setQueue q v).holds = a.holds := rfl
@[simp] theorem Arch.setQueue_skip (a : Arch) (q : BitVec 5) (v : VQueue) : (a.setQueue q v).skip = a.skip := rfl
@[simp] theorem Arch.setQueue_grp (a : Arch) (q : BitVec 5) (v : VQueue) : (a.setQueue q v).grp = a.grp := rfl
@[simp] theorem Arch.setQueue_mb (a : Arch) (q : BitVec 5) (v : VQueue) : (a.setQueue q v).mb = a.mb := rfl
@[simp] theorem Arch.setQueue_csr (a : Arch) (q : BitVec 5) (v : VQueue) : (a.setQueue q v).csr = a.csr := rfl
@[simp] theorem Arch.setQueue_ih (a : Arch) (q : BitVec 5) (v : VQueue) : (a.setQueue q v).ih = a.ih := rfl
@[simp] theorem Arch.setQueue_shadow (a : Arch) (q : BitVec 5) (v : VQueue) : (a.setQueue q v).shadow = a.shadow := rfl
@[simp] theorem Arch.setQueue_entered (a : Arch) (q : BitVec 5) (v : VQueue) : (a.setQueue q v).entered = a.entered := rfl
@[simp] theorem Arch.setQueue_entAt (a : Arch) (q : BitVec 5) (v : VQueue) : (a.setQueue q v).entAt = a.entAt := rfl
@[simp] theorem Arch.setQueue_quiet (a : Arch) (q : BitVec 5) (v : VQueue) : (a.setQueue q v).quiet = a.quiet := rfl
@[simp] theorem Arch.setQueue_runs (a : Arch) (q : BitVec 5) (v : VQueue) : (a.setQueue q v).runs = a.runs := rfl

@[simp] theorem Arch.queue_setQueue (a : Arch) (q : BitVec 5) (v : VQueue) : (a.setQueue q v).queue q = v := by
  simp [Arch.queue, Arch.setQueue]
theorem Arch.queue_setQueue_ne (a : Arch) {q r : BitVec 5} (h : r ≠ q) (v : VQueue) : (a.setQueue q v).queue r = a.queue r := by
  have hn : q.toNat ≠ r.toNat := fun e => h (BitVec.eq_of_toNat_eq e.symm)
  simp [Arch.queue, Arch.setQueue, Vector.getElem_set_ne, hn]

end Sys2Proof.Machine
end

