-- ==== Sys2Proof/Laws/Memory.lean ====
section
/-!
SUPPORT. Memory: what a byte reads after a write, and that every write keeps the canonical form.
-/

namespace Sys2Proof.Machine

/-- The canonical form, said of all cells at once: none holds zero, and the addresses after one are above it. -/
theorem memory_wf_cons {a : Nat} {v : Byte} {r : List Host.Cell} :
    Memory.wf ((a, v) :: r) = true ↔ v ≠ 0 ∧ (∀ c ∈ r, a < c.1) ∧ Memory.wf r = true := by
  induction r generalizing a v with
  | nil => simp [Memory.wf]
  | cons c r ih =>
    obtain ⟨b, w⟩ := c
    simp only [Memory.wf, Bool.and_eq_true, bne_iff_ne, decide_eq_true_eq, List.mem_cons, forall_eq_or_imp, and_assoc]
    refine ⟨fun ⟨h1, h2, h3⟩ => ⟨h1, h2, fun c hc => lt_trans h2 ((ih.1 h3).2.1 c hc), h3⟩, fun ⟨h1, h2, _, h3⟩ => ⟨h1, h2, h3⟩⟩

/-- An address below every listed one reads as an unlisted one. -/
theorem readByte_below {a : Nat} {m : List Host.Cell} (h : ∀ c ∈ m, a < c.1) : readByte a m = 0 := by
  cases m with
  | nil => rfl
  | cons c r =>
    obtain ⟨b, w⟩ := c
    have hb : a < b := h (b, w) (List.mem_cons_self ..)
    simp [readByte, hb, Nat.ne_of_gt hb]

/-- The addresses of a written memory are the written one and those listed before. -/
theorem mem_writeByte {a : Nat} {v : Byte} {m : List Host.Cell} {c : Host.Cell} (h : c ∈ writeByte a v m) :
    c.1 = a ∨ c ∈ m := by
  induction m with
  | nil => unfold writeByte at h; split at h <;> simp_all
  | cons d r ih =>
    obtain ⟨b, w⟩ := d
    unfold writeByte at h
    split at h
    · split at h
      · exact .inr h
      · rcases List.mem_cons.1 h with rfl | h
        · exact .inl rfl
        · exact .inr h
    · split at h
      · split at h
        · exact .inr (List.mem_cons_of_mem _ h)
        · rcases List.mem_cons.1 h with rfl | h
          · exact .inl rfl
          · exact .inr (List.mem_cons_of_mem _ h)
      · rcases List.mem_cons.1 h with rfl | h
        · exact .inr (List.mem_cons_self ..)
        · exact (ih h).imp id (List.mem_cons_of_mem _)

/-- A written byte reads back, in a memory of canonical form. -/
theorem readByte_writeByte_same {a : Nat} {v : Byte} {m : List Host.Cell} (h : Memory.wf m = true) :
    readByte a (writeByte a v m) = v := by
  induction m with
  | nil => unfold writeByte; split <;> simp_all [readByte]
  | cons d r ih =>
    obtain ⟨b, w⟩ := d
    obtain ⟨_, hb, hr⟩ := memory_wf_cons.1 h
    unfold writeByte
    split
    · next hl =>
      split
      · next hv => subst hv; simp [readByte, hl, Nat.ne_of_gt hl]
      · simp [readByte]
    · next hl =>
      split
      · next he =>
        subst he
        split
        · next hv => subst hv; exact readByte_below hb
        · simp [readByte]
      · next he => simp [readByte, Ne.symm he, hl, ih hr]

/-- Every other byte reads as before. -/
theorem readByte_writeByte_ne {a c : Nat} (hc : c ≠ a) {v : Byte} {m : List Host.Cell} (h : Memory.wf m = true) :
    readByte c (writeByte a v m) = readByte c m := by
  induction m with
  | nil => unfold writeByte; split <;> simp [readByte, Ne.symm hc]
  | cons d r ih =>
    obtain ⟨b, w⟩ := d
    obtain ⟨_, hb, hr⟩ := memory_wf_cons.1 h
    unfold writeByte
    split
    · next hl =>
      split
      · rfl
      · by_cases hca : c < a
        · simp [readByte, Ne.symm hc, hca, Nat.ne_of_gt (lt_trans hca hl), lt_trans hca hl]
        · simp [readByte, Ne.symm hc, hca]
    · next hl =>
      split
      · next he =>
        subst he
        split
        · by_cases hca : c < a
          · rw [readByte_below fun x hx => lt_trans hca (hb x hx)]; simp [readByte, Ne.symm hc, hca]
          · simp [readByte, Ne.symm hc, hca]
        · simp [readByte, Ne.symm hc]
      · simp [readByte, ih hr]

/-- A write keeps the canonical form. -/
theorem writeByte_wf (a : Nat) (v : Byte) {m : List Host.Cell} (h : Memory.wf m = true) : Memory.wf (writeByte a v m) = true := by
  induction m with
  | nil => unfold writeByte; split <;> simp_all [Memory.wf]
  | cons d r ih =>
    obtain ⟨b, w⟩ := d
    have hd := h
    obtain ⟨hw, hb, hr⟩ := memory_wf_cons.1 h
    unfold writeByte
    split
    · next hl =>
      split
      · exact hd
      · next hv =>
        refine memory_wf_cons.2 ⟨hv, fun c hc => ?_, hd⟩
        rcases List.mem_cons.1 hc with rfl | hc
        · exact hl
        · exact lt_trans hl (hb c hc)
    · next hl =>
      split
      · next he =>
        subst he
        split
        · exact hr
        · next hv => exact memory_wf_cons.2 ⟨hv, hb, hr⟩
      · next he =>
        refine memory_wf_cons.2 ⟨hw, fun c hc => ?_, ih hr⟩
        rcases mem_writeByte hc with hc | hc
        · rw [hc]; omega
        · exact hb c hc

/-- A run of bytes stored keeps the canonical form. -/
theorem writeBytes_wf (a : Nat) (l : List Byte) {m : List Host.Cell} (h : Memory.wf m = true) : Memory.wf (writeBytes a l m) = true := by
  induction l generalizing a with
  | nil => exact h
  | cons v r ih => exact writeByte_wf a v (ih (a + 1))

/-- A byte outside a stored run reads as before. -/
theorem readByte_writeBytes_out {a c : Nat} {l : List Byte} (hc : c < a ∨ a + l.length ≤ c) {m : List Host.Cell}
    (h : Memory.wf m = true) : readByte c (writeBytes a l m) = readByte c m := by
  induction l generalizing a with
  | nil => rfl
  | cons v r ih =>
    simp only [List.length_cons] at hc
    rw [writeBytes, readByte_writeByte_ne (by omega) (writeBytes_wf _ _ h), ih (by omega)]

/-- A byte of a stored run reads as stored. -/
theorem readByte_writeBytes_in {a i : Nat} {l : List Byte} (hi : i < l.length) {m : List Host.Cell}
    (h : Memory.wf m = true) : readByte (a + i) (writeBytes a l m) = l[i] := by
  induction l generalizing a i with
  | nil => simp at hi
  | cons v r ih =>
    rw [writeBytes]
    cases i with
    | zero => exact readByte_writeByte_same (writeBytes_wf _ _ h)
    | succ j =>
      rw [readByte_writeByte_ne (by omega) (writeBytes_wf _ _ h), show a + (j + 1) = a + 1 + j by omega,
        ih (by simpa using hi), List.getElem_cons_succ]

/-- Bytes stored of the package's memory keep its canonical form. -/
theorem store_wf (s : State) (a : Nat) (l : List Byte) (h : Memory.wf s.mem = true) : Memory.wf (s.store a l).mem = true :=
  writeBytes_wf a l h

/-- Reset memory has the canonical form. -/
theorem reset_mem_wf : Memory.wf State.reset.mem = true := rfl

end Sys2Proof.Machine
end

