-- ==== Sys2Proof/Laws/Frame.lean ====
section
/-!
SUPPORT. What each shared operation can change, once for all the words that use it.
-/

namespace Sys2Proof

open Machine

theorem OnlyCore.refl (n : Nat) (s : State) : OnlyCore n s s := ⟨rfl, fun _ => rfl, fun _ _ => rfl⟩

/-- A change of one core is that core's. -/
theorem updCore_onlyCore (s : State) (n : Nat) (f : Core → Core) : OnlyCore n s (s.updCore n f) :=
  ⟨rfl, fun _ => rfl, fun _ h => core_updCore_ne s h f⟩

/-- A change of one context is that context's. -/
theorem updCtx_onlyCtx (s : State) (n k : Nat) (f : Ctx → Ctx) : OnlyCtx n k s (s.updCtx n k f) :=
  ⟨updCore_onlyCore .., by simp [Core.updCtx, Core.setCtx], fun _ h => ctx_updCtx_ne s (.inr h) f⟩

/-- A change of context state by bundle `seq` is that context's registers'. -/
theorem onArchAt_onlyRegs (s : State) (n k seq : Nat) (f : Arch → Arch) : OnlyRegs n k seq s (s.onArchAt n k seq f) := by
  refine ⟨updCtx_onlyCtx .., by simp [State.onArchAt, Ctx.change], fun q hq hle => ?_⟩
  simp only [State.onArchAt, ctx_updCtx, Ctx.change, List.mem_map] at hq
  obtain ⟨k, hk, rfl⟩ := hq
  split at hle
  · next h => exact absurd hle (by simpa using h)
  · next h => simpa [h] using hk

/-- A change of the running word's context state. -/
theorem onArch_onlyMine (s : State) (f : Arch → Arch) : OnlyMine s (s.onArch f) := onArchAt_onlyRegs ..

/-- What `Arch.setS` does. -/
theorem setS_writes (a : Arch) (d : BitVec 5) (v : Dword) : WritesScalar d v a (a.setS d v) := by
  refine ⟨fun r => ?_, by unfold Arch.setS; split <;> rfl⟩
  by_cases hd : d = 0
  · simp [hd, Arch.setS]
  · by_cases hr : r = d
    · subst hr; rw [if_pos ⟨rfl, hd⟩, Arch.getS_setS a hd]
    · rw [if_neg fun h => hr h.1, Arch.getS_setS_ne a hr]

/-- A true predicate lets a single-cycle word write. -/
theorem sSet_next {p : BitVec 3} {s : State} (h : s.qual p = true) (d : BitVec 5) (f : State → Dword) :
    ∃ t, sSet p d f s = .next t ∧ WritesScalar d (f s) s.arch t.arch ∧ OnlyMine s t :=
  ⟨s.setS d (f s), by simp [sSet, sWord, h], by simpa [State.setS] using setS_writes s.arch d (f s), onArch_onlyMine ..⟩

end Sys2Proof
end

