-- ==== Sys2Proof/Tests/Slice0.lean ====
section
/-!
SUPPORT. Tests: ill-formed words refused, words of the spec decoded, single steps with results from the spec or by hand, and
for every obligation a state that meets its hypotheses.
-/

namespace Sys2Proof.Tests

open Sys2Proof Sys2Proof.Machine

set_option maxRecDepth 20000

/-! ### Ill-formed words (R330, R331) -/

/-- One word for each check: the hold bit of S, conditions, levels, CSR numbers, dimensions, bindings, header ports. -/
theorem test_wf_refuses_scalar : ([.add 1 0 1 2 3, .cmp 0 0 1 6 2 3, .cmpi 0 0 1 7 2 3, .loop 0 0 6 1 1, .lexit 0 0 7,
    .syncd 0 0 6, .csrr 0 0 1 0x010, .csrw 0 0 1 0x016, .csrs 0 0 1 0x026, .csrc 0 0 1 0x080, .qcfg 0 0 1 4 3,
    .qcfg 0 0 31 4 2, .qcfgKeep 0 0 1 4 3, .qrel 0 0 31, .qstat 0 0 1 31, .adim 0 0 1 6 2 3 0, .adim 0 0 1 0 2 3 7,
    .idle 1 0 0 0 0 0 0 0, .idle 0 0 0 0 0 7 0 0] : List Instr).all (fun i => !i.wf) = true := by decide

/-- Streams above 15, queues 31, sizes, scopes, classes and operations of L, T, M and K. -/
theorem test_wf_refuses_memory : ([.lds 0 0 1 1 16 0 0 0, .ldv 0 0 0 31 1 0, .ldvt 0 0 0 1 1 3, .pld 0 0 31 0 0 0 0,
    .tld 0 0 31 0 0 0 0 0, .ldx 0 0 0 1 1 31 0, .sgv 0 0 0 1 1 0 1 0, .atom 0 0 11 0 1 2 3, .redv 0 0 0 1 1 3 0,
    .fence 0 0 7, .fencex 0 0 7 0 0, .fencex 0 0 0 6 0, .fencex 0 0 0 0 6, .drain 0 0 7, .coll 0 0 1 2 3 0 4,
    .mlw 0 0 31 0, .mma 0 0 1 7, .mmac 0 0 1 31 0, .kld 0 0 0 1 16 0, .ktab 0 0 0 1 31, .kout 0 0 0 1 20 0] : List Instr).all
    (fun i => !i.wf) = true := by decide

/-- Widths, queues and types of A, B and X. -/
theorem test_wf_refuses_vector : ([.vadd 0 0 3 0 1 0 2 0 3, .vadd 0 0 2 0 31 0 2 0 3, .vadd 0 0 2 0 1 0 31 0 3,
    .vadd 0 0 2 0 1 0 2 0 31, .vadd 0 0 2 7 1 0 2 0 3, .viadd 0 0 2 5 1 0 2 0 3, .vcvt 0 0 2 0 1 0 2 7 0 0,
    .vcvt 0 0 2 5 1 0 2 0 0 1, .vqnt 0 0 2 1 1 0 2 0 3, .vdq 0 0 2 0 1 0 2 1 3, .vdq 0 0 2 0 1 0 2 0 8,
    .vmov 0 0 3 1 0 2, .viota 0 0 2 5 1 0, .xtld 0 0 2 0 0 31, .xcvt 0 0 2 5 1 0 2 0 1 1] : List Instr).all
    (fun i => !i.wf) = true := by decide

/-- The neighbours of the words above are well formed. -/
theorem test_wf_accepts : ([.add 0 0 1 2 3, .cmp 0 0 1 5 2 3, .loop 0 0 5 1 1, .csrr 0 0 1 0x015, .qcfg 0 0 30 4 2,
    .adim 0 0 1 5 2 3 6, .idle 0 2 3 4 5 6 1 1, .lds 0 0 1 1 15 0 0 0, .ldvt 0 0 0 1 1 2, .atom 0 0 10 0 1 2 3,
    .fencex 0 0 6 5 5, .coll 0 0 1 2 3 0 3, .vadd 0 0 2 6 30 1 30 1 30, .viadd 0 0 2 4 1 0 2 0 3, .vdq 0 0 2 0 1 0 2 0 7,
    .vdq 0 0 2 0 1 0 2 1 30] : List Instr).all (fun i => i.wf) = true := by decide

/-! ### Words decoded: the spec's opcode table, each field with a value of its own -/

/-- Words of map s. -/
theorem test_decode_scalar_1 : ([(0x00400000, .nopS 0 1),
    (0x044A7480, .add 0 1 5 7 9),
    (0x044A7481, .sub 0 1 5 7 9),
    (0x044A7482, .mul 0 1 5 7 9),
    (0x044A7483, .mulh 0 1 5 7 9),
    (0x044A7484, .mulhu 0 1 5 7 9),
    (0x044A7485, .div 0 1 5 7 9),
    (0x044A7486, .divu 0 1 5 7 9),
    (0x044A7487, .rem 0 1 5 7 9),
    (0x044A7488, .and 0 1 5 7 9),
    (0x044A7489, .or 0 1 5 7 9),
    (0x044A748A, .xor 0 1 5 7 9),
    (0x044A748B, .andn 0 1 5 7 9),
    (0x044A748C, .shl 0 1 5 7 9),
    (0x044A748D, .shr 0 1 5 7 9),
    (0x044A748E, .sar 0 1 5 7 9),
    (0x044A748F, .min 0 1 5 7 9),
    (0x044A7490, .max 0 1 5 7 9)] : List (Nat × Instr)).all (fun x => (decodeWord .s x.1).toOption == some x.2) = true := by decide

/-- Words of map s. -/
theorem test_decode_scalar_2 : ([(0x044A7491, .minu 0 1 5 7 9),
    (0x044A7492, .maxu 0 1 5 7 9),
    (0x044A7013, .clz 0 1 5 7),
    (0x044A7014, .popc 0 1 5 7),
    (0x044A7495, .sel 0 1 5 7 9),
    (0x084A7009, .addi 0 1 5 7 9),
    (0x0C4A7009, .andi 0 1 5 7 9),
    (0x104A7009, .ori 0 1 5 7 9),
    (0x144A7009, .xori 0 1 5 7 9),
    (0x184A7009, .shli 0 1 5 7 9),
    (0x1C4A7009, .shri 0 1 5 7 9),
    (0x204A7009, .sari 0 1 5 7 9),
    (0x244A0007, .lim 0 1 5 7),
    (0x284A0007, .lims 0 1 5 7),
    (0x2C56A560, .cmp 0 1 5 5 9 11),
    (0x3056A40B, .cmpi 0 1 5 5 9 11),
    (0x344A7480, .pand 0 1 5 7 9),
    (0x344A7481, .por 0 1 5 7 9)] : List (Nat × Instr)).all (fun x => (decodeWord .s x.1).toOption == some x.2) = true := by decide

/-- Words of map s. -/
theorem test_decode_scalar_3 : ([(0x344A7482, .pxor 0 1 5 7 9),
    (0x344A7483, .pandn 0 1 5 7 9),
    (0x344A7004, .pnot 0 1 5 7),
    (0x384A724B, .bfx 0 1 5 7 9 11),
    (0x3C4A724B, .bfi 0 1 5 7 9 11),
    (0x404A7009, .padr 0 1 5 7 9),
    (0x444A0007, .pcrel 0 1 5 7),
    (0x48400005, .br 0 1 5),
    (0x4C400005, .call 0 1 5),
    (0x50405000, .jmpr 0 1 5),
    (0x5469C900, .loop 0 1 5 7 9),
    (0x58680000, .lexit 0 1 5),
    (0x5C674ADA, .wsel 0 1 1 7 9 11 13),
    (0x60453800, .sig 0 1 5 7),
    (0x64680000, .syncd 0 1 5),
    (0x68400000, .yield 0 1),
    (0x6C400000, .retire 0 1),
    (0x704A7480, .fork 0 1 5 7 9)] : List (Nat × Instr)).all (fun x => (decodeWord .s x.1).toOption == some x.2) = true := by decide

/-- Words of map s. -/
theorem test_decode_scalar_4 : ([(0x744A0031, .csrr 0 1 5 49),
    (0x78405031, .csrw 0 1 5 49),
    (0x7C405031, .csrs 0 1 5 49),
    (0x80405031, .csrc 0 1 5 49),
    (0x84400005, .trap 0 1 5),
    (0x88400000, .rte 0 1),
    (0x8C400005, .brk 0 1 5),
    (0x904A0E80, .qcfg 0 1 5 7 1),
    (0x904A0EC0, .qcfgKeep 0 1 5 7 1),
    (0x944A0000, .qrel 0 1 5),
    (0x984A7000, .qstat 0 1 5 7),
    (0x9C54E000, .aset 0 1 5 7),
    (0xA066A578, .adim 0 1 9 5 9 11 6),
    (0xA44AE400, .aget 0 1 5 7 1),
    (0xA84BC000, .mbxr 0 1 5 7),
    (0xAC4BC000, .mbxw 0 1 5 7),
    (0xB04A748B, .pcrt 0 1 5 7 9 11),
    (0xB44A0007, .pdel 0 1 5 7)] : List (Nat × Instr)).all (fun x => (decodeWord .s x.1).toOption == some x.2) = true := by decide

/-- Words of map s. -/
theorem test_decode_scalar_5 : ([(0xB84A003B, .pprt 0 1 5 1 1 11),
    (0xBC69C000, .chbind 0 1 5 7),
    (0xC04BC000, .chrd 0 1 5 7),
    (0xC44BC000, .chwr 0 1 5 7)] : List (Nat × Instr)).all (fun x => (decodeWord .s x.1).toOption == some x.2) = true := by decide

/-- Words of map hdr. -/
theorem test_decode_header_1 : ([(0x0272E300, .idle 0 2 3 4 5 6 1 1)] : List (Nat × Instr)).all (fun x => (decodeWord .hdr x.1).toOption == some x.2) = true := by decide

/-- Words of map l. -/
theorem test_decode_load_1 : ([(0x02400000, .nopL 1 1),
    (0x06674F4F, .lds 1 1 1 7 9 3 5 15),
    (0x0A674F4F, .ldg 1 1 1 7 9 3 5 15),
    (0x0E674803, .ldv 1 1 1 7 9 3),
    (0x12674C00, .ldvt 1 1 1 7 9 2),
    (0x1667485D, .lgv 1 1 1 7 9 11 5),
    (0x1A4BC27D, .pld 1 1 5 7 9 3 13),
    (0x1E4A74F7, .tld 1 1 5 7 9 3 1 7),
    (0x22674AC5, .ldx 1 1 1 7 9 11 5)] : List (Nat × Instr)).all (fun x => (decodeWord .l x.1).toOption == some x.2) = true := by decide

/-- Words of map t. -/
theorem test_decode_store_1 : ([(0x02400000, .nopT 1 1),
    (0x06674F4F, .sts 1 1 1 7 9 3 5 15),
    (0x0A674F4F, .stg 1 1 1 7 9 3 5 15),
    (0x0E674803, .stv 1 1 1 7 9 3),
    (0x12674E87, .sgv 1 1 1 7 9 1 5 7),
    (0x164BC01B, .pst 1 1 5 7 1 11),
    (0x1A4A74F7, .tst 1 1 5 7 9 3 1 7),
    (0x1E674AC5, .stx 1 1 1 7 9 11 5),
    (0x2254E95D, .atom 1 1 5 7 9 11 5),
    (0x26674C05, .redv 1 1 1 7 9 2 5),
    (0x2A674ECD, .sigst 1 1 1 7 9 3 13),
    (0x2E680000, .fence 1 1 5),
    (0x32656000, .fencex 1 1 4 5 3),
    (0x36680000, .drain 1 1 5),
    (0x3A4A7480, .cpy 1 1 5 7 9),
    (0x3E4A748B, .coll 1 1 5 7 9 1 3),
    (0x424A7480, .gath 1 1 5 7 9),
    (0x464A0007, .take 1 1 5 7)] : List (Nat × Instr)).all (fun x => (decodeWord .t x.1).toOption == some x.2) = true := by decide

/-- Words of map t. -/
theorem test_decode_store_2 : ([(0x4A4A7009, .arrw 1 1 5 7 9)] : List (Nat × Instr)).all (fun x => (decodeWord .t x.1).toOption == some x.2) = true := by decide

/-- Words of map m. -/
theorem test_decode_matrix_1 : ([(0x02400000, .nopM 1 1),
    (0x064A0C00, .mlw 1 1 5 6),
    (0x0A400000, .mswp 1 1),
    (0x0E4A0A00, .mma 1 1 5 5),
    (0x124A7800, .mmac 1 1 5 7 4),
    (0x16405000, .mchn 1 1 5),
    (0x1A400000, .mdrn 1 1),
    (0x1E4A0000, .msts 1 1 5),
    (0x22400000, .mzer 1 1)] : List (Nat × Instr)).all (fun x => (decodeWord .m x.1).toOption == some x.2) = true := by decide

/-- Words of map v. -/
theorem test_decode_vector_1 : ([(0x02400000, .nopAb 1 1),
    (0x06649B71, .vadd 1 1 2 2 9 1 13 1 17),
    (0x0A649B71, .vsub 1 1 2 2 9 1 13 1 17),
    (0x0E649B71, .vmul 1 1 2 2 9 1 13 1 17),
    (0x12649B71, .vfma 1 1 2 2 9 1 13 1 17),
    (0x16649B71, .vfms 1 1 2 2 9 1 13 1 17),
    (0x1A649B71, .vmin 1 1 2 2 9 1 13 1 17),
    (0x1E649B71, .vmax 1 1 2 2 9 1 13 1 17),
    (0x22649B40, .vabs 1 1 2 2 9 1 13),
    (0x26649B40, .vneg 1 1 2 2 9 1 13),
    (0x2A64BBF3, .vcmp 1 1 2 2 1 3 1 15 1 19),
    (0x2E649B71, .vsel 1 1 2 2 9 1 13 1 17),
    (0x32649B71, .viadd 1 1 2 2 9 1 13 1 17),
    (0x36649B71, .visub 1 1 2 2 9 1 13 1 17),
    (0x3A649B71, .vimul 1 1 2 2 9 1 13 1 17),
    (0x3E649B71, .vimac 1 1 2 2 9 1 13 1 17),
    (0x42649B71, .vand 1 1 2 2 9 1 13 1 17),
    (0x46649B71, .vor 1 1 2 2 9 1 13 1 17)] : List (Nat × Instr)).all (fun x => (decodeWord .v x.1).toOption == some x.2) = true := by decide

/-- Words of map v. -/
theorem test_decode_vector_2 : ([(0x4A649B71, .vxor 1 1 2 2 9 1 13 1 17),
    (0x4E649B71, .vshl 1 1 2 2 9 1 13 1 17),
    (0x52649B71, .vshr 1 1 2 2 9 1 13 1 17),
    (0x56649B71, .vsar 1 1 2 2 9 1 13 1 17),
    (0x5A64BBF3, .vicmp 1 1 2 2 1 3 1 15 1 19),
    (0x5E629B62, .vcvt 1 1 2 1 9 1 13 4 0 1),
    (0x626A9B71, .vqnt 1 1 2 5 9 1 13 1 17),
    (0x66649B47, .vdq 1 1 2 2 9 1 13 0 7),
    (0x6A6E9B47, .vscl 1 1 2 7 9 1 13 7),
    (0x6E649B40, .vamax 1 1 2 2 9 1 13),
    (0x72649B47, .vospl 1 1 2 2 9 1 13 7),
    (0x76649B71, .vaddsub 1 1 2 2 9 1 13 1 17),
    (0x7A649B40, .vunpk3 1 1 2 2 9 1 13),
    (0x7E607AC0, .vmov 1 1 2 7 1 11),
    (0x82649B4F, .vbcst 1 1 2 2 9 1 13 15),
    (0x86649B4F, .vext 1 1 2 2 9 1 13 15),
    (0x8A649B4F, .vins 1 1 2 2 9 1 13 15),
    (0x8E649B71, .vperm 1 1 2 2 9 1 13 1 17)] : List (Nat × Instr)).all (fun x => (decodeWord .v x.1).toOption == some x.2) = true := by decide

/-- Words of map v. -/
theorem test_decode_vector_3 : ([(0x92649B4F, .vsld 1 1 2 2 9 1 13 15),
    (0x96649B71, .vzip 1 1 2 2 9 1 13 1 17),
    (0x9A649B71, .vuzp 1 1 2 2 9 1 13 1 17),
    (0x9E649B40, .vrsum 1 1 2 2 9 1 13),
    (0xA2649B40, .vrmax 1 1 2 2 9 1 13),
    (0xA6649B40, .vrnd 1 1 2 2 9 1 13),
    (0xAA649B71, .vdrp 1 1 2 2 9 1 13 1 17),
    (0xAE4051C1, .mand 1 1 5 7 1),
    (0xB24051C1, .mor 1 1 5 7 1),
    (0xB64051C0, .mnot 1 1 5 7),
    (0xBA649003, .viota 1 1 2 2 9 3),
    (0xBE405007, .vmsk 1 1 5 7)] : List (Nat × Instr)).all (fun x => (decodeWord .v x.1).toOption == some x.2) = true := by decide

/-- Words of map x. -/
theorem test_decode_special_1 : ([(0x02400000, .nopX 1 1),
    (0x06649B40, .xexp2 1 1 2 2 9 1 13),
    (0x0A649B40, .xlog2 1 1 2 2 9 1 13),
    (0x0E649B40, .xrcp 1 1 2 2 9 1 13),
    (0x12649B40, .xrsq 1 1 2 2 9 1 13),
    (0x16649B40, .xsqrt 1 1 2 2 9 1 13),
    (0x1A649B43, .xtab 1 1 2 2 9 1 13 3),
    (0x1E603AC0, .xtld 1 1 2 3 1 11),
    (0x22669B54, .xcvt 1 1 2 3 9 1 13 2 1 0)] : List (Nat × Instr)).all (fun x => (decodeWord .x x.1).toOption == some x.2) = true := by decide

/-- Words of map k. -/
theorem test_decode_scale_1 : ([(0x02400000, .nopK 1 1),
    (0x066D2580, .kld 1 1 5 1 9 11),
    (0x0A6D3F80, .ktab 1 1 5 1 9),
    (0x0E68E480, .kset 1 1 5 7 9),
    (0x126D2580, .kout 1 1 5 1 9 11),
    (0x1668E480, .kskp 1 1 5 7 9),
    (0x1A40A000, .krng 1 1 5)] : List (Nat × Instr)).all (fun x => (decodeWord .k x.1).toOption == some x.2) = true := by decide

/-- Words that the spec prints, two or more of each map. -/
theorem test_decode_spec : ([(.s, 0x040E8495, .sel 0 0 7 8 9), (.s, 0x1C0E6006, .shri 0 0 7 6 6), (.s, 0x28132345, .lims 0 0 9 0x12345),
    (.s, 0x300A0FFF, .cmpi 0 0 2 4 3 0xFFF), (.s, 0x40084002, .padr 0 0 4 4 2), (.s, 0x700A6380, .fork 0 0 5 6 7),
    (.s, 0x90161140, .qcfgKeep 0 0 11 8 2), (.s, 0xA0082D98, .adim 0 0 2 0 11 12 6), (.s, 0xC4124000, .chwr 0 0 9 1),
    (.s, 0x54014300, .loop 0 0 0 5 3), (.s, 0x60284800, .sig 0 0 40 9), (.s, 0x9808A000, .qstat 0 0 4 10),
    (.l, 0x0416A482, .lds 0 0 0 22 20 2 2 2), (.l, 0x1814C406, .pld 0 0 10 3 16 0 6), (.l, 0x202611C0, .ldx 0 0 1 6 2 7 0),
    (.t, 0x2024A63D, .atom 0 0 9 5 6 7 5), (.t, 0x30302000, .fencex 0 0 6 0 1), (.t, 0x40253A00, .gath 0 0 18 19 20),
    (.m, 0x0EBC0A00, .mma 1 2 30 5), (.m, 0x100A6A00, .mmac 0 0 5 6 5), (.v, 0x68208701, .vscl 0 0 2 0 8 0 28 1),
    (.v, 0xA8123062, .vdrp 0 0 1 1 3 0 1 1 2), (.v, 0x9020307E, .vsld 0 0 2 0 3 0 1 62), (.x, 0x18123081, .xtab 0 0 1 1 3 0 2 1),
    (.x, 0x1C201240, .xtld 0 0 2 1 0 9), (.k, 0x04146F80, .kld 0 0 2 1 3 31), (.k, 0x1020C100, .kout 0 0 4 0 6 2),
    (.k, 0x0C00FF80, .kset 0 0 0 7 63)] : List (SlotMap × Nat × Instr)).all
    (fun x => (decodeWord x.1 x.2.1).toOption == some x.2.2) = true := by decide

/-! ### States for the tests -/

/-- What a step of `exec` gives, seen through `f`. -/
def got {α : Type} (i : Instr) (s : State) (f : State → α) : Option α :=
  match exec i s with | .next t => some (f t) | _ => none

/-- Core 0 runs its context 0, which `f` changes. -/
def one (f : Ctx → Ctx) : State :=
  State.reset.updCore 0 fun c => { c with clk := .running, cur := some 0 }.updCtx 0 fun x => f { x with st := .current, bnd := some placedBind }

/-- As `one`, with registers that `f` changes. -/
def regs (f : Arch → Arch) : State := one fun x => { x with arch := f x.arch }

/-- A row for a test. -/
def row (i v : Nat) : QRow := { id := i, data := BitVec.ofNat 2048 v, wait := none }

/-- Queues 1 and 2 hold two rows each, 3 is empty with depth 4, all of 512 bits; queue 4 has 2048 bits and 64 rows. -/
def rows2 (v1 v2 : Nat) : State := regs fun a =>
  ((((a.setQueue 1 { depth := 4, wd := 0, cur := 0, rows := [row 1 v1, row 2 7] }).setQueue 2
    { depth := 4, wd := 0, cur := 1, rows := [row 3 v2, row 4 9] }).setQueue 3 { depth := 4, wd := 0, cur := 0, rows := [] }).setQueue 4
    { depth := 200, wd := 2, cur := 0, rows := [row 5 3] })

/-- A word of the given slot is running with scalars `x` and `y`. -/
def running (s : State) (sl : Engine) (x y : Nat) : State :=
  { s with act := { s.act with entry := { s.act.entry with slot := sl, orig := false
                                                           ops := { x := BitVec.ofNat 64 x, y := BitVec.ofNat 64 y, z := 0, addr := BitVec.ofNat 64 x, tag := 3 } } } }

/-- A ring cell from peer 1 to stack 0 of this package. -/
def cellTo (ty du addr tag : Nat) (l : List Byte) : RingCell := ringCell 0 1 du ty addr tag l

/-- An engine command. -/
def cmdOf (cls : BitVec 3) (j : Option CollJob) : Cmd :=
  { id := 5, cls := cls, stack := 0, eng := 0, core := 0, ctx := 0, asn := 0, ctag := 1, weight := 1, dst := 0, src := 0, cnt := 0
    coll := j, started := false, since := 0, moved := 0, entry := 0, off := 0, finished := false, buf := [], old := []
    stopped := none, refused := none, walked := [] }

/-- A collective of group 7, member 0 of 3. -/
def jobOf (op : BitVec 2) (ph : Nat) : CollJob :=
  { ord := 0, op := op, bf := false, n := 3, desc := 0x40, ready := 0x80, rtgt := 1, flag := 6, fe := true, grp := 7, dst := 0x100, src := 0x200
    rank := 0, p := 3, phase := ph, look := false, own := [1, 2, 3], chunks := [], got := [], writes := [], stat := 0, statIn := 0
    landed := false, ended := none }

/-- A package with one collective command. -/
def collState (op : BitVec 2) (ph : Nat) : State := { State.reset with cmds := [cmdOf 2 (some (jobOf op ph))] }

/-- Network 2 of no fabric set, width 8. -/
def netA : Net :=
  { ref := { set := none, net := 2 }, wc := 0, span := false, salt := 0, base := 100, hosts := [], tog := 0
    cnt := List.replicate 8 0, failed := false, inside := [], held := [], hold := false, returned := 0 }

/-- A token of network 2 at a layer and wire, for unit `du`. -/
def token (l a du : Nat) : RingCell := { cellTo 12 du 0 9 [] with xt := BitVec.ofNat 96 (2 + l * 2 ^ 4 + a * 2 ^ 8) }

/-- A package with network 2. -/
def netState (f : Net → Net) : State := { State.reset with nets := [f netA] }

/-- A request outstanding under tag 9. -/
def reqState (k : ReqKind) : State :=
  { regs id with reqs := [{ tag := 9, cell := cellTo 2 192 0 9 [], kind := k, again := false }] }

/-- A firmware command of host peer 4095. -/
def hostA : HostCmd := { peer := 4095, seq := 7 }

/-- Where the bytes of a range are at home with nothing else to do. -/
theorem atHome_of {s : State} {a n : Nat} (h : Memory.wf s.mem = true) (hp : (ownFpa a && !s.portDown a) = true)
    (hb : (List.range n).all (fun i => !s.portDown (a + i) && (mailboxAt (a + i)).isNone && !inRemapTable (a + i) &&
      !s.holdsLine (stackAt (a + i)) (lineOf (a + i)) && stackAt (a + i) == stackAt a) = true) : AtHome s a n := by
  simp only [Bool.and_eq_true, Bool.not_eq_true'] at hp
  refine ⟨h, hp.1, hp.2, fun b h1 h2 => ?_⟩
  have := List.all_eq_true.1 hb (b - a) (List.mem_range.2 (by omega))
  rw [Nat.add_sub_cancel' h1] at this
  simp only [Bool.and_eq_true, Bool.not_eq_true', Option.isNone_iff_eq_none, beq_iff_eq] at this
  exact ⟨this.1.1.1.1, this.1.1.1.2, this.1.1.2, this.1.2, this.2⟩

/-! ### Witnesses: the scalar words -/

theorem wit_SingleCycleScalarWords : scalarResult (.addi 0 0 31 0 0xFFF) State.reset = some (0, 31, BitVec.allOnes 64) ∧
    State.reset.qual 0 = true := by decide

theorem wit_MultiplyAndDivideWords : slowResult (.mul 0 0 0 4 5) State.reset = some (3, 0, 0, 0) ∧
    slowResult (.div 0 0 31 4 5) State.reset = some (20, 0, 31, -1) ∧ State.reset.qual 0 = true := by decide

theorem wit_PredicateWords : predResult (.cmp 0 0 15 0 3 4) State.reset = some (0, 15, true) ∧ State.reset.qual 0 = true := by decide

theorem wit_WordsWithoutEffect : sQual (.br 0 7 0) = some 7 ∧ State.reset.qual 7 = false := by decide

theorem wit_TransferWords : State.reset.qual 0 = true ∧ (State.reset.getS 5).toNat % 4 = 0 ∧
    (let s := regs fun a => a.setS 5 3; s.qual 0 = true ∧ (s.getS 5).toNat % 4 ≠ 0 ∧ s.act.entry.slot = .s) := by decide

theorem wit_HandlerRequests : (let s := regs fun a => { a with csr := { a.csr with trapcause := 15 } }
    s.qual 0 = true ∧ s.arch.csr.trapcause.toNat % 256 < 16) := by decide

theorem wit_FaultReturn : (let s := regs fun a => { a with csr := { a.csr with trapcause := 16 } }
    s.qual 0 = true ∧ 16 ≤ s.arch.csr.trapcause.toNat % 256) := by decide

/-- An open loop level 5. -/
def open5 : LoopRec := { lv := 5, trip := 2, idx := 0, len := 3, start := 0, pos := 1, adv := false }

theorem wit_LoopWords : (let s := regs id; s.qual 0 = true ∧ (5 : BitVec 3).toNat < 6 ∧ s.act.entry.slot = .s ∧
      levelOpen s 5 = false ∧ bodyFits s 64 = true) ∧
    (let s := regs fun a => { a with loops := [open5] }
     levelOpen s 5 = true ∧ s.arch.loops = [] ++ open5 :: [] ∧ (∀ y ∈ ([] : List LoopRec), y.lv ≠ 5) ∧ open5.lv = 5 ∧
     levelOpen s 4 = false ∧ bodyFits s 2 = true) := by decide

theorem wit_CsrWrites : State.reset.qual 0 = true := by decide

theorem wit_QueueWords : (let s := rows2 1 2; s.qual 0 = true ∧ s.act.entry.slot = .s ∧ (27 : BitVec 5).toNat < 28 ∧
      s.arch.storage 27 255 2 ≤ s.me.poolRows ∧ s.arch.storage 1 2 0 ≤ s.me.poolRows ∧
      (s.arch.queue 1).rows.length ≤ 2 ∧ (s.arch.queue 1).wd = 0 ∧ 1 < (s.arch.queue 1).rows.length ∧ (s.arch.queue 1).wd ≠ 2) ∧
    (State.reset.me.poolRows < State.reset.arch.storage 0 1 0) ∧ 28 ≤ (28 : BitVec 5).toNat ∧ (30 : BitVec 5).toNat ≤ 30 := by decide

theorem wit_StreamAndMailboxWords : (let s := regs fun a => (a.setS 5 0x100000000).setS 6 0x100000001
    s.qual 0 = true ∧ s.act.entry.slot = .s ∧ (5 : BitVec 3).toNat < 6 ∧ 1 ≤ (s.getS 5).toNat % 2 ^ 33 ∧
    (s.getS 5).toNat % 2 ^ 33 ≤ 2 ^ 32 ∧ 2 ^ 32 < (s.getS 6).toNat % 2 ^ 33 ∧ (s.getS 0).toNat % 2 ^ 33 = 0) := by decide

theorem wit_SignalWord : (let s := regs fun a => (a.setS 5 (BitVec.ofNat 64 (2 ^ 32 + 4095 * 2 ^ 16 + 191))).setS 6 1
    s.qual 0 = true ∧ s.act.entry.slot = .s ∧ s.getS 0 = 0 ∧ s.getS 5 = BitVec.ofNat 64 (2 ^ 32 + (4095 : BitVec 12).toNat * 2 ^ 16 + (191 : BitVec 8).toNat) ∧
    s.gone.contains (4095 : BitVec 12).toNat = false ∧ sigBad (s.getS 6) = true) := by decide

theorem wit_WaitAndLifeWords : (let s := regs fun a => { a with csr := { a.csr with dml := a.csr.dml.set 0 1 } }
    s.qual 0 = true ∧ s.act.entry.slot = .s ∧ (s.arch.dml 1).toNat % 8 ≠ 0 ∧ (s.arch.dml 5).toNat % 8 = 0) := by decide

/-- Context 0 runs, context 3 of the same instance is Reserved. -/
def forkState : State := (regs fun a => a.setS 6 2).updCore 0 fun c => c.updCtx 3 fun x => { x with st := .reserved, bnd := some { placedBind with iix := 1 } }

theorem wit_ForkWord : (let s := forkState; s.qual 0 = true ∧ s.act.entry.slot = .s ∧ s.me.bnd = some placedBind ∧
      (s.getS 5).toNat % 4 = 0 ∧ s.myCore.reservedOf placedBind = some 3 ∧ 3 ≠ s.act.ctx % 4 ∧ (s.getS 6).toNat % 4 ≠ 0) ∧
    (let s := regs id; s.me.bnd = some placedBind ∧ s.myCore.reservedOf placedBind = none) := by decide

theorem wit_PlaneWords : (let s := regs fun a => (a.setS 5 4095).setS 6 4096
    s.qual 0 = true ∧ s.act.entry.slot = .s ∧ (s.getS 5).toNat < 4096 ∧ specBad (s.getS 0) = false ∧ 4096 ≤ (s.getS 6).toNat) := by decide

/-- Endpoint 7 bound to endpoint 2 of context 1 of core 5 of peer 3. -/
def bound7 (f : Chan → Chan) : State := one fun x => x.setChan 7 (f { Chan.reset with bound := some { who := { peer := 3, core := 5, ctx := 1 }, ep := 2 } })

theorem wit_ChannelWords : (let s := regs id; s.qual 0 = true ∧ s.act.entry.slot = .s ∧ bindBad (s.getS 0) = false ∧
      (s.me.chan 7).bound = none) ∧
    (let s := bound7 fun c => { c with recv := [4] }; (s.me.chan 7).bound = some { who := { peer := 3, core := 5, ctx := 1 }, ep := 2 } ∧
      (s.me.chan 7).recv = 4 :: [] ∧ s.gone.contains 3 = false) ∧
    (let s := bound7 id; (s.me.chan 7).bound.isSome = true ∧ (s.me.chan 7).recv = []) ∧
    (let s := bound7 fun c => { c with sent := 15 }; (s.me.chan 7).deadReader = false ∧ (s.me.chan 7).spill = [] ∧ (s.me.chan 7).sent < 16) ∧
    (let s := bound7 fun c => { c with sent := 16 }; (s.me.chan 7).deadReader = false ∧ 16 ≤ (s.me.chan 7).sent ∧
      s.arch.csr.syncmode.getLsbD 0 = false) := by decide

/-! ### Witnesses: the engines -/

theorem wit_SourceOperands : (let s := rows2 1 2
    (1 : BitVec 5).toNat ≤ 28 ∧ (s.arch.queue 1).rows = row 1 1 :: [row 2 7] ∧ (∀ y ∈ [row 2 7], y.id ≠ (row 1 1).id) ∧
    (s.arch.queue 2).rows[(s.arch.queue 2).cur]? = some (row 4 9)) := by decide

/-- The checks of a word, as they decide. -/
theorem clean_of {s : State} {i : Instr} {n : Nat}
    (h : (!limitBad s.arch i && !depthZero s.arch (info i) && !tooMany s.arch (info i) n) = true) : Clean s i n := by
  simpa [Clean, and_assoc] using h

theorem wit_VectorWordsPush : pushTable (.vzip 0 0 0 2 3 0 1 0 2) = some [(2, 3), (3, 3)] ∧
    Clean (rows2 1 2) (.vzip 0 0 0 2 3 0 1 0 2) (info (.vzip 0 0 0 2 3 0 1 0 2)).rows :=
  ⟨by decide, clean_of (by decide)⟩

theorem wit_IntegerLanes : (∃ g, intLane (.viadd 0 0 0 0 3 0 1 1 2) = some (0, 0, 3, (false, 1), (true, 2), g)) ∧ (0 : BitVec 2).toNat < 3 ∧
    Clean (rows2 1 2) (.viadd 0 0 0 0 3 0 1 1 2) 1 := ⟨⟨_, rfl⟩, by decide, clean_of (by decide)⟩

theorem wit_FloatLanes : Clean (rows2 1 2) (.vadd 0 0 0 0 3 0 1 0 2) 1 ∧ Clean (rows2 1 2) (.vfma 0 0 0 0 3 0 1 0 2) 1 :=
  ⟨clean_of (by decide), clean_of (by decide)⟩

theorem wit_LaneMovement : (0 : BitVec 2).toNat < 3 ∧ Clean (rows2 1 2) (.vmov 0 0 0 3 0 1) 1 ∧
    Clean (rows2 1 2) (.vbcst 0 0 0 2 3 0 1 0) 1 ∧ Clean (rows2 1 2) (.vext 0 0 0 2 3 0 1 0) 1 ∧
    Clean (rows2 1 2) (.vsld 0 0 0 2 3 0 1 63) 1 ∧ Clean (rows2 1 2) (.vperm 0 0 0 2 3 0 1 0 2) 1 ∧
    Clean (rows2 1 2) (.viota 0 0 0 2 3 1) 1 :=
  ⟨by decide, clean_of (by decide), clean_of (by decide), clean_of (by decide), clean_of (by decide), clean_of (by decide),
    clean_of (by decide)⟩

theorem wit_MaskWords : (0 : BitVec 2).toNat < 3 ∧
    Clean (rows2 1 2) (.vicmp 0 0 0 2 1 1 0 1 0 2) 1 ∧ Clean (rows2 1 2) (.vcmp 0 0 0 0 1 1 0 1 0 2) 1 :=
  ⟨by decide, clean_of (by decide), clean_of (by decide)⟩

theorem wit_TableLoadAndEngineNops : Clean (rows2 0 2) (.xtld 0 0 0 1 0 1) 1 ∧
    headerBad ((rows2 0 2).src false 1 512).1 = false ∧ headerBad ((rows2 (2 ^ 255) 2).src false 1 512).1 = true :=
  ⟨clean_of (by decide), by decide, by decide⟩

theorem wit_EngineLimits : (queueRows State.reset (.viadd 0 0 0 0 3 0 1 0 2) = some 1 ∧
      limitBad State.reset.arch (.viadd 0 0 0 0 3 0 1 0 2) = false ∧
      (depthZero State.reset.arch (info (.viadd 0 0 0 0 3 0 1 0 2)) || tooMany State.reset.arch (info (.viadd 0 0 0 0 3 0 1 0 2)) 1) = true) ∧
    (queueRows (rows2 1 2) (.pld 0 0 3 0 1 0 0) = some 1 ∧ limitBad (rows2 1 2).arch (.pld 0 0 3 0 1 0 0) = true) ∧
    takeReady State.reset 3 = false ∧ (let s := running State.reset .t 0x1FFFF0 1
      0x200000 < s.act.entry.ops.x.toNat % 2 ^ 21 / 16 * 16 + 16 + s.act.entry.ops.y.toNat % 2 ^ 32) := by decide

theorem wit_ScratchpadLoads : (rows2 1 2).poison = [] ∧ Clean (rows2 1 2) (.ldv 0 0 0 3 6 0) 1 ∧
    (let s := running (rows2 1 2) .l (28 * 64) 0
     Clean s (.ldvt 0 0 0 4 6 2) 1 ∧ (2 : BitVec 2).toNat < 3 ∧
       s.act.entry.ops.addr.toNat % 2 ^ 21 / 64 % 32 + 2 ^ (2 : BitVec 2).toNat ≤ 32 ∧ s.act.entry.ops.addr.toNat % 2 ^ 21 + 63 * 2048 ≤ 0x1FFFFF) :=
  ⟨by decide, clean_of (by decide), clean_of (by decide), by decide, by decide, by decide⟩

theorem wit_GlobalLoads : Clean (rows2 1 2) (.lgv 0 0 0 3 6 255 0) 1 ∧ Clean (rows2 1 2) (.pld 0 0 3 0 1 0 1) 1 ∧
    Clean (rows2 1 2) (.tld 0 0 4 5 6 0 0 0) (64 / 2 ^ (0 : BitVec 2).toNat) ∧
    Clean (rows2 1 2) (.ldx 0 0 0 4 6 2 0) ((rows2 1 2).arch.widthOfQueue 2 / 32) :=
  ⟨clean_of (by decide), clean_of (by decide), clean_of (by decide), clean_of (by decide)⟩

theorem wit_HeldWords : (holdTable (.sts 0 0 0 1 2 3 0 0) = some (none, true) ∧ canHold State.reset (.sts 0 0 0 1 2 3 0 0)) ∧
    (holdTable (.take 0 0 5 2) = some (none, true) ∧ canHold (netState id) (.take 0 0 5 2)) ∧
    (holdTable (.arrw 0 0 1 2 5) = some (none, true) ∧ canHold (running State.reset .t 0x1FFFE0 16) (.arrw 0 0 1 2 5)) ∧
    (holdTable (.stv 0 0 0 1 2 0) = some (some 1, true) ∧ canHold (rows2 1 2) (.stv 0 0 0 1 2 0)) ∧
    (holdTable (.stx 0 0 0 1 2 2 0) = some (some 1, false) ∧ canHold (rows2 1 2) (.stx 0 0 0 1 2 2 0)) :=
  ⟨⟨by decide, by intro h; simp [queueRows, pushTable] at h⟩, ⟨by decide, by show takeReady (netState id) 2 = true; decide⟩,
    ⟨by decide, by unfold canHold; decide⟩, ⟨by decide, fun _ => clean_of (by decide)⟩, ⟨by decide, fun _ => clean_of (by decide)⟩⟩

theorem wit_ScaleWords : (15 : BitVec 6).toNat ≤ 15 ∧ 15 < (16 : BitVec 6).toNat := by decide

theorem wit_ArrayWords : (let s := running (rows2 1 2) .m 8 0; s.myCore.oos = false ∧ s.myCore.shadow.lost = none) ∧
    (let s := running (rows2 1 2) .m 3 0; s.myCore.oos = false ∧ chainBad (s.act.core % 8) s.act.entry.ops.x = false) ∧
    (let s := running (rows2 1 2) .m 0 0; ((if s.act.entry.orig then s.myCore.endRunOf s.act.ctx else s.myCore).recs.map MRec.id).Nodup) ∧
    Clean (rows2 1 2) (.mlw 0 0 1 5) 0 := ⟨by decide, by decide, by decide, clean_of (by decide)⟩

theorem wit_ActivationRows : (let s := running (rows2 1 2) .m 0 0
    s.myCore.oos = false ∧ s.myCore.active.lost = none ∧ s.myCore.chainN = 0) ∧
    Clean (rows2 1 2) (.mma 0 0 1 5) 0 ∧ Clean (rows2 1 2) (.mmac 0 0 1 4 5) 0 := ⟨by decide, clean_of (by decide), clean_of (by decide)⟩
/-! ### Witnesses: the machine's own events -/

/-- `SEL s7, s8, s9` as a bundle at the pc of context 0 of core 0, before it is presented, its page translated and its line in the slice. -/
def selState : State :=
  (((State.reset.placeContext.homePut 0x30000 [1, 0, 0, 0, 0x95, 0x84, 0x0E, 0x04]).updCore 0 fun c => { c with pages := [0], frames := [0] }).updStack 0
    fun t => { t with xl := [(0, [0, 1])], l2 := [lineOf 0x30000] })

/-- `selState` when the bundle is shown. -/
def selShown : State := (selState.updCore 0 fun c => { c with disp := true }).updCtx 0 0 fun x => { x with shown := x.shown + 1 }

/-- `selShown` with the refusals of the pc's page cleared that it meets. -/
def selMet : State := selShown.metRefusals 0 0 [(((selState.ctx 0 0).arch.pc).toNat / 2 ^ 16 % 2 ^ 41, ((selState.ctx 0 0).arch.pc).toNat / 2 ^ 60 % 2 ^ 4)]

/-- `selMet` with the translation of the pc in the caches. -/
def selPage : State := selMet.fetched 0 0 (selState.ctx 0 0).arch.pc

/-- The bundle shown. -/
def selBundle := (selPage.core 0).shown 0 0 1 (slotWords 1 [0x95, 0x84, 0x0E, 0x04])

theorem sel_header : selShown.fetch 0 0 0 4 = .ok [1, 0, 0, 0] none := by decide +kernel

theorem sel_passOver : selShown.passOver 0 0 spaceWords = (selShown, .ok [1, 0, 0, 0] none) := by
  have h : (selShown.ctx 0 0).arch.pc = 0 ∧ (selShown.ctx 0 0).arch.skip = 0 := by decide
  rw [show spaceWords = 2 ^ 62 - 1 + 1 by decide]
  rw [State.passOver]
  simp only [h.1, h.2, sel_header]
  rfl

theorem wit_DispatchOfABundle_fetch : (selState.ctx 0 0).arch.pc = 0 ∧ wordOf [1, 0, 0, 0] = 1 ∧
    selMet.fetch 0 0 4 (4 * popCount 8 (1 : Word).toNat) = .ok [0x95, 0x84, 0x0E, 0x04] none ∧ (1 : Word).getLsbD 10 = false := by decide +kernel

theorem wit_DispatchOfABundle_context : (selState.core 0).cur = some 0 ∧ (selState.ctx 0 0).replay = false ∧
    (selState.ctx 0 0).from_ ≤ (selState.core 0).cyc ∧ (selState.ctx 0 0).arch.csr.syncmode.getLsbD 1 = false ∧
    (selPage.blockOf 0 0 selBundle).isNone = true ∧ selPage.stalls 0 0 selBundle = false ∧
    (∀ q ∈ (selState.ctx 0 0).ckpts, q.wait = false ∧ q.seq < (selState.ctx 0 0).seq) := by decide +kernel

theorem wit_DispatchOfABundle_bundle : headerAlone 0 1 = false ∧ headerBad' 0 1 (slotWords 1 [0x95, 0x84, 0x0E, 0x04]) = false ∧
    (∀ w ∈ slotWords 1 [0x95, 0x84, 0x0E, 0x04], w.instr ≠ none) ∧
    (lowestFault (selBundle.faults (selPage.ctx 0 0) (selPage.namesBad 0 0))).isNone = true ∧ selBundle.whole = true ∧ selBundle.all ≠ [] ∧
    selBundle.reps = [] := by decide +kernel

/-- Flight 50 of context 0 of core 0. -/
def fl50 (k : FKind) : Flight :=
  { id := 50, ctx := 0, seq := 0, slot := 1, due := 0, quiet := false, instr := .addi 0 0 3 0 5, acq := none, kind := k }

/-- A core with that flight alone. -/
def flying (k : FKind) : State := (rows2 1 2).updCore 0 fun c => { c with flights := [fl50 k] }

theorem wit_ResultsDelivered : ([.push 1 7 0, .sreg 3 7, .mask 2 7 0, .krng 7, .gload 3 7 true, .ret 1 7 true, .land 1 7 true false,
    .scale 1 KEntry.reset true false] : List FKind).all (fun k => ((flying k).core 0).flight 50 == some (fl50 k)) = true ∧
    (fl50 (.krng 7)).acq = none ∧ ((flying (.krng 7)).ctx 0 0).st ≠ .saving := by decide

/-- `flying` with its core frozen on the flight. -/
def frozenOn (k : FKind) : State := (flying k).updCore 0 fun c => { c with clk := .frozen 50 0 .running }

theorem wit_LateData : ((flying (.land 1 7 false false)).core 0).flight 50 = some (fl50 (.land 1 7 false false)) ∧
    ((flying (.scale 1 KEntry.reset false false)).core 0).flight 50 = some (fl50 (.scale 1 KEntry.reset false false)) ∧
    ((frozenOn (.land 1 7 false true)).core 0).flight 50 = some (fl50 (.land 1 7 false true)) ∧
    ((frozenOn (.land 1 7 false true)).core 0).clk = .frozen 50 0 .running := by decide

/-- Bundle 4 of context 0 with a handler at 0x100. -/
def ckpt4 : Ckpt :=
  { seq := 4, pc := 0x40, hdr := 1, arch := { Arch.reset with csr := { Csrs.reset with trapvec := 0x100 } }, quiet := false, agent := false
    wait := false }

/-- Its fault and an asynchronous trap stand. -/
def trapped : State := one fun x =>
  { x with arch := ckpt4.arch, ckpts := [ckpt4], seq := 5, faults := [{ seq := 4, slot := 1, cause := 39, val := 7 }], asyncs := [] }

theorem wit_FaultEntry : (trapped.core 0).trapDue 0 = some { seq := 4, slot := 1, cause := 39, val := 7 } ∧ 39 ≠ stopCause ∧
    (trapped.ctx 0 0).ckptFrom 4 = some ckpt4 ∧ ckpt4.arch.csr.trapvec ≠ 0 ∧ ckpt4.arch.ih = false := by decide

theorem wit_AsyncTrapEntry : (let s := one fun x => { x with arch := ckpt4.arch, asyncs := [(66, 2), (65, 1)] }
    (s.core 0).asyncDue 0 = some (65, 1) ∧ (s.ctx 0 0).arch.csr.trapvec ≠ 0) := by decide

/-- A scratchpad store of bundle 4, held, its address 0x41. -/
def held4 : Held :=
  { id := 60, rows := [], need := 0, car := carryW 0, places := none, desc := 0, stage := 0
    entry := { State.reset.act.entry with seq := 4, slot := .t, instr := .sts 0 0 0 1 2 0 0 0
                                          ops := { x := 0xAB, y := 0, z := 0, addr := 0x41, tag := 0 } } }

theorem wit_RetirementAndWaitLimit : (trapped.ctx 0 0).ckpts = [ckpt4] ∧ (trapped.ctx 0 0).wq ++ (trapped.core 0).held = [] ∧
    (let s := trapped.updCore 0 fun c => { c with held := [held4] }
     (s.ctx 0 0).wq ++ (s.core 0).held.filter (fun h => h.entry.ctx == 0 && h.entry.seq == ckpt4.seq) = [held4] ∧
       held4.need ≤ held4.rows.length ∧ (s.core 0).flights = [] ∧ s.reqs = [] ∧ Memory.wf s.mem = true) ∧
    (let h := { held4 with need := 1 }; h.rows.length < h.need) ∧
    (State.reset.ctx 0 0).ckpts = [] ∧ (State.reset.core 0).firstOf 0 .a = none ∧
    (let e : Entry := { State.reset.act.entry with slot := .a }
     ((regs id).updCore 0 fun c => { c with queue := [e] }).core 0 |>.firstOf 0 .a) = some { State.reset.act.entry with slot := .a } := by
  decide

theorem wit_ContextChoice : (let s := (regs id).updCore 0 fun c => c.updCtx 2 fun x => { x with st := .ready, bnd := some placedBind }
    (s.core 0).choose = some 2 ∧ (s.core 0).cur = some 0 ∧ (s.ctx 0 0).st = .current ∧ 2 ≠ (s.core 0).last ∧
    ((s.updCore 0 fun c => { c with last := 2 }).core 0).last = 2) := by decide

/-- A core with a weight load under way and one row in its array. -/
def matrixState : State := (regs id).updCore 0 fun c =>
  { c with load := some { entry := State.reset.act.entry, exposed := false, started := false, start := 0, mask := 15, rows := [3], waited := 0
                          lost := none }
           rows := [{ ctx := 0, seq := 0, instr := .mma 0 0 1 5, iss := 0, out := 9, run := 0, act := true }] }

theorem wit_MatrixEvents : (matrixState.core 0).load.isSome = true ∧ (matrixState.core 0).rows.length = 1 ∧ (matrixState.ctx 0 0).st ≠ .saving := by
  decide

theorem wit_PlyEvents : (let s := State.reset; (s.core 0).oos = false ∧ 2 ≤ popCount 4 (0b0101 &&& ~~~(s.core 0).failed).toNat ∧
    popCount 4 (0b0001 &&& ~~~(s.core 0).failed).toNat < 2 ∧ (s.core 0).failed.getLsbD (2 : BitVec 2).toNat = false ∧
    (s.core 0).active.mask.getLsbD (2 : BitVec 2).toNat = true) ∧
    (let s := State.reset.updCore 0 fun c => { c with failed := 0b0011, active := { c.active with mask := 0b0011 } }
     (s.core 0).active.mask.getLsbD (2 : BitVec 2).toNat = false ∧ (s.core 0).failed.getLsbD 2 = false) := by decide

/-- The running context waits for the agent. -/
def asking (c : Cause) (a : AgentWait) : State := one fun x => { x with st := .blocked c, agent := some a }

theorem wit_PagingAndAgentEvents :
    (let s := asking .spill (.spill 7 9); (s.ctx 0 0).agent = some (.spill 7 9) ∧ (s.ctx 0 0).st = .blocked .spill) ∧
    (let s := asking .plane (.plane 0 5 1 0 0 4); (s.ctx 0 0).agent = some (.plane 0 5 1 0 0 4) ∧ (s.ctx 0 0).st = .blocked .plane ∧
      (s.space (s.ctx 0 0).asn).base = none) ∧
    (let s := asking .paging (.frame 9 1); (s.ctx 0 0).agent = some (.frame 9 1) ∧ (s.ctx 0 0).asn = 0 ∧ (s.ctx 0 0).st = .blocked .paging ∧
      s.cores.any (fun c => c.1 == 0) = true) ∧
    (let s := one fun x => { x with st := .saving, saveTo := some 0x40000000 }; Memory.wf s.mem = true ∧ (s.ctx 0 0).saveTo = some 0x40000000 ∧
      0x40000000 % 4096 = 0 ∧ 5 < 0x40000000) := by decide

/-- A held global store of context 0, its address `x`, and the flight of its check. -/
def held60 (x : Nat) : Held :=
  { id := 60, rows := [], need := 0, car := carryW 0, places := none, desc := 0, stage := 0
    entry := { State.reset.act.entry with slot := .t, instr := .stg 0 0 0 1 2 3 0 0
                                          ops := { x := BitVec.ofNat 64 x, y := 7, z := 0, addr := BitVec.ofNat 64 x, tag := 0 } } }

/-- A core that checks it, in the placed address space. -/
def checking (x : Nat) : State := State.reset.placeContext.updCore 0 fun c =>
  { c with held := [held60 x], flights := [fl50 (.check (held60 x).entry (carryW 0) [60] 0 Places.none_)] }

theorem wit_TranslatedStore : (let s := checking 0x80
    (s.core 0).flight 50 = some (fl50 (.check (held60 0x80).entry (carryW 0) [60] 0 Places.none_)) ∧ held60 0x80 ∈ (s.core 0).held ∧
      (held60 0x80).entry.slot = .t ∧ (s.core 0).flight 60 = none ∧ s.wordVerdict 0 0 (held60 0x80).entry (carryW 0) = .ok ∧
      csrStop (accessOf (held60 0x80).entry.instr).2 (s.resolve 0 0 (held60 0x80).entry (carryW 0)).spans = false) ∧
    ∃ v, (checking 0x10000).wordVerdict 0 0 (held60 0x10000).entry (carryW 0) = .fault 32 v :=
  ⟨⟨rfl, List.mem_singleton_self _, rfl, rfl, rfl, rfl⟩, _, rfl⟩

/-- Domain object 5 of stack 0 with one arrival of two. -/
def dom5 : Dom := { lvl := 1, ph := false, arr := 1, mbr := 2, waiters := [ctxRef 0 0], broken := none, launch := 0, fset := none }

/-- A package where context 0 of core 0 waits for it, the object having `f` made of it. -/
def domState (f : Dom → Dom) : State :=
  let s := one fun x => { x with st := .blocked .sync, sync := some { obj := { peer := 0, obj := 5 }, lv := 1, seq := 0, sent := true } }
  { s with stk := s.stk.set 0 { s.stk[0] with doms := [(5, f dom5)] } }

theorem wit_DomainEvents : (let s := domState id; s.domAt { peer := 0, obj := 5 } = some dom5 ∧ dom5.broken = none ∧
      dom5.arr + 1 = dom5.mbr ∧ ctxRef 0 0 ∈ dom5.waiters ++ [ctxRef 1 0] ∧
      (s.ctx 0 0).sync = some { obj := { peer := 0, obj := 5 }, lv := 1, seq := 0, sent := true } ∧ (s.ctx 0 0).st = .blocked .sync) ∧
    (domState fun d => { d with mbr := 3 }).domAt { peer := 0, obj := 5 } = some { dom5 with mbr := 3 } := by decide

theorem wit_ChannelEvents : (let s := bound7 id; (s.ctx 0 0).chan 7 = { Chan.reset with bound := some { who := { peer := 3, core := 5, ctx := 1 }, ep := 2 } } ∧
      s.alive 0 0 = true ∧ (s.ctx 0 0).arch.csr.syncmode.getLsbD 1 = false ∧ (s.ctx 0 0).st ≠ .blocked .channel ∧ s.gone.contains 3 = false) ∧
    (let s := one fun x => { x.setChan 7 { Chan.reset with bound := some { who := { peer := 3, core := 5, ctx := 1 }, ep := 2 } } with
        on := some (true, 7), arch := { x.arch with csr := { x.arch.csr with syncmode := 2 } } }
     (s.ctx 0 0).on = some (true, 7) ∧ s.alive 0 0 = true ∧ (s.ctx 0 0).arch.csr.syncmode.getLsbD 1 = true) := by decide
/-! ### Witnesses: engines, fabric and devices -/

theorem wit_EngineEvents : (let s : State := { State.reset with cmds := [cmdOf 0 none] }
      s.cmds.find? (fun c => c.stack == 0 && c.cls == 0 && c.eng == 0 && !c.finished) = some (cmdOf 0 none) ∧
        (cmdOf 0 none).started = false ∧ { cmdOf 0 none with started := true }.started = true) ∧
    (regs id).alive (refCore (ctxRef 0 0)) 0 = true ∧ State.reset.alive (refCore (ctxRef 0 0)) 0 = false ∧
    AtHome State.reset (cellAddr (cellTo 1 192 0x1000 9 [1, 2, 3])) 3 ∧ MemInv State.reset ∧
    (let s : State := { State.reset with mem := writeBytes (spAddr 0 0) (leBytes 4 5 ++ leBytes 8 0 ++ [0x85]) State.reset.mem }
     MemInv s ∧ memNat s (spAddr 0 0) 4 = 5 ∧ 128 ≤ (readByte (spAddr 0 0 + 12) s.mem).toNat ∧ 5 ≤ (memNat s (spAddr 0 0 + 4) 4 + 5) % 2 ^ 32 ∧
      (memNat s (spAddr 0 0 + 4) 4 + 4) % 2 ^ 32 < 5) :=
  ⟨by decide, by decide, by decide, atHome_of (by decide) (by decide) (by decide), by unfold MemInv; decide, by unfold MemInv; decide⟩

/-- Group 7 of peers 0 to 2. -/
def group7 (d : Option Nat) : CollGroup := { num := 7, members := [0, 1, 2], dropped := d, runs := [] }

theorem wit_CollectiveEvents_head : (let s := collState 0 0
      s.collCmd 0 = some (cmdOf 2 (some (jobOf 0 0))) ∧ (cmdOf 2 (some (jobOf 0 0))).stack = 0 ∧ s.group 7 = none ∧
      (∀ x ∈ s.cmds, x.id = (cmdOf 2 (some (jobOf 0 0))).id → x = cmdOf 2 (some (jobOf 0 0)))) ∧
    { State.reset with groups := [group7 (some 2)] }.group 7 = some (group7 (some 2)) ∧ (group7 none).members.contains (peerOf 0) = true ∧
    (group7 none).members.contains (peerOf 5) = false ∧ (collState 0 0).watches 0 5 = false := by decide

/-- The placed address space with its `READY` word at virtual address 0x80, and a command that has joined its group. -/
def watching : State := { State.reset.placeContext with cmds := [cmdOf 2 (some (jobOf 0 1))] }

theorem wit_CollectiveEvents_ready : engBytes ((List.range 8).map fun i => watching.engByte (cmdOf 2 (some (jobOf 0 1))) ((jobOf 0 1).ready + BitVec.ofNat 64 i)) =
    (List.replicate 8 0, none) := by decide

theorem wit_CollectiveEvents_cells : (let x : RingCell := { cellTo 14 192 0 0 [] with xt := BitVec.ofNat 96 (7 + 2 * 2 ^ 12) }
      x.dst.toNat % 8 = 0 ∧ fld x.xt 0 12 = (jobOf 0 3).grp ∧ (jobOf 0 3).ended = none ∧ 3 ≤ (jobOf 0 3).phase ∧ x.ty = 14 ∧
      x.xt.getLsbD 28 = false ∧ ((jobOf 0 3).rank + 1) % max 1 (jobOf 0 3).p ≠ fld x.xt 12 16) ∧
    (let x : RingCell := { cellTo 14 192 0 0 [] with xt := BitVec.ofNat 96 (7 + 2 ^ 28) }; x.xt.getLsbD 28 = true) ∧
    (let x : RingCell := { cellTo 10 192 0 0 (leBytes 4 5) with xt := BitVec.ofNat 96 (7 + 2 * 2 ^ 12 + 3 * 2 ^ 45) }
     x.ty = 10 ∧ disagrees (jobOf 0 3) x = false ∧ fld x.xt 28 13 + 2 < (jobOf 0 3).p ∧ (jobOf 3 3).op = 3) := by decide

theorem wit_NetworkEvents : (let c := token 1 3 0
      (netState id).net (tokenNet c) = some netA ∧ netA.failed = false ∧ (netA.hold && tokenLay c == 1) = false ∧ tokenLay c = 1 ∧ tokenLay c < netLayers netA.wc ∧
      netA.hostPeer (balancerHost (netWidth netA.wc) 2 3) / 8 = Config.pkg ∧ c.src.toNat / 8 = Config.pkg ∧ netA.inside = []) ∧
    (let c := token 6 3 197; (netState id).net (tokenNet c) = some netA ∧ c.du = 197 ∧ tokenWire c < netA.cnt.length) ∧
    netLayers netA.wc ≤ tokenLay (token 6 3 0) ∧
    (let s := netState fun x => { x with failed := true }; s.net (tokenNet (token 1 3 0)) = some { netA with failed := true }) ∧
    (let s := netState fun x => { x with hold := true }; s.net (tokenNet (token 1 3 0)) = some { netA with hold := true } ∧ s.fw.waiting = []) ∧
    (let s : State := { netState fun x => { x with inside := [token 1 3 0] } with reqs := [{ tag := 9, cell := token 1 3 0, kind := .take 0 0 50, again := false }] }
     (s.net (tokenNet (token 1 3 0))).any (fun x => !x.inside.isEmpty) = true ∧ (s.req 9).any (fun r => r.kind == .take 0 0 50) = true ∧
       (token 1 3 0).du ≠ 197 ∧ (token 1 3 0).xt.getLsbD 94 = false) := by decide

/-- A firmware that waits to configure network 2. -/
def draining : State :=
  { netState fun x => { x with hold := true } with fw := { Fw.reset with waiting := [.cnconfig hostA netA.ref 0 0 0 0] } }

theorem wit_NetworkEvents_waiting : draining.net netA.ref = some { netA with hold := true } ∧ draining.fw.waiting = [.cnconfig hostA netA.ref 0 0 0 0] ∧
    draining.gone = [] := by decide

theorem wit_HomeRequests : (let c := cellTo 0 192 0x1000 9 []
      Served c false 1 State.reset ∧ AtHome State.reset (cellAddr c / 128 * 128) 128 ∧ State.reset.badLine (cellAddr c / 128) = false ∧
        { State.reset with poison := [cellAddr c / 128] }.badLine (cellAddr c / 128) = true) ∧
    (let c := cellTo 3 192 0x1000 9 [1, 2]; Served c true 2 State.reset ∧ AtHome State.reset (cellAddr c) 2) ∧
    (let c := cellTo 4 192 0x1000 9 (leBytes 16 2 ++ [1, 2]); Served c true 2 State.reset ∧ c.payload.length - 16 = 2) ∧
    (let c := cellTo 5 192 0x1000 9 (leBytes 1 0 ++ leBytes 7 8 ++ leBytes 8 0 ++ leBytes 8 3 ++ leBytes 8 0)
     c.payload = leBytes 1 0 ++ leBytes 7 8 ++ leBytes 8 (0 : Dword).toNat ++ leBytes 8 (3 : Dword).toNat ++ leBytes 8 (0 : Dword).toNat) ∧
    localMapped (2 ^ 44 + 2 ^ 43) = false ∧
    (let c := { cellTo 0 192 0x1000 9 [] with vc := 2 }
     { State.reset with replies := [(c.src, c.tag, c)] }.replies.find? (fun r => r.1 == c.src && r.2.1 == c.tag) = some (c.src, c.tag, c)) := by
  refine ⟨⟨⟨by decide, by decide, by decide, by decide⟩, atHome_of (by decide) (by decide) (by decide), by decide, by decide⟩,
    ⟨⟨by decide, by decide, by decide, by decide⟩, atHome_of (by decide) (by decide) (by decide)⟩, ⟨⟨by decide, by decide, by decide, by decide⟩, by decide⟩, by decide, by decide, by decide⟩

theorem wit_ResponsesAndSignals : (let s := reqState (.fill 0 5 0 0); s.req 9 = some { tag := 9, cell := cellTo 2 192 0 9 [], kind := .fill 0 5 0 0, again := false } ∧
      s.req 8 = none ∧ s.copyOf 0 5 = none ∧ s.gone.contains 0 = false) ∧
    ([.copy 5 7, .engine 5, .store 0 0 7, .atomic 0 0 50 7] : List ReqKind).all (fun k => ((reqState k).req 9).any fun r => r.kind == k && !r.again) = true ∧
    (List.replicate 129 (1 : Byte)).length = 129 ∧ (191 : BitVec 8).toNat < 192 ∧ 192 ≤ (192 : BitVec 8).toNat := by decide

/-- A segment of the package ring. -/
def segA : SegRef := { lvl := 0, ring := 0, pos := 3 }

theorem wit_RingCells : (let c := { cellTo 9 192 0x1000 0 [1, 2] with bc := true }
      c.lvl = 0 ∧ AtHome State.reset (peerOf 0 * 2 ^ 45 + c.addr.toNat) 2) ∧
    (State.reset.seg segA).down = false ∧ (State.reset.seg segA).fails < 7 ∧
    (let s := State.reset.setSeg { ref := segA, fails := 7, down := false }
     (s.seg segA).down = false ∧ 7 ≤ (s.seg segA).fails ∧ (s.setSeg { s.seg segA with fails := (s.seg segA).fails + 1, down := true }).cutStacks = []) ∧
    (∃ p, p < ringSize 0 ∧ ringHas 0 0 1 p = true ∧ (cellTo 9 192 0 0 []).xt.getLsbD p = false) ∧ (cellTo 9 192 0 0 []).src.toNat / 8 = Config.pkg ∧
    ({ cellTo 9 192 0 0 [] with src := 4095 } : RingCell).src.toNat / 8 ≠ Config.pkg ∧
    (∀ p, p < ringSize 0 → ringHas 0 0 1 p = true → ({ cellTo 9 192 0 0 [] with xt := BitVec.allOnes 96 } : RingCell).xt.getLsbD p = true) := by
  refine ⟨⟨by decide, atHome_of (by decide) (by decide) (by decide)⟩, by decide, by decide, by decide, ⟨0, by decide⟩, by decide, by decide, ?_⟩
  intro p h _
  exact (by decide : ∀ p, p < 8 → (BitVec.allOnes 96).getLsbD p = true) p h

/-- Group 9 of stack 0 with a swap, running or not. -/
def swapState (r : Bool) : State := State.reset.updStack 0 fun t => { t with swaps := [{ group := 9, home := 4, running := r, ends := 0, held := [] }] }

theorem wit_MemoryDevices : (let s := one fun x => x; s.alive 0 0 = true ∧ (s.ctx 0 0).st ≠ .saving ∧ (s.ctx 0 0).st ≠ .saved ∧ (s.ctx 0 0).ckpts = []) ∧
    ownFpa (0x20 * 128) = true ∧ stackAt (0x20 * 128) = 0 ∧ State.reset.copyOf 0 0x20 = none ∧
    (let s := State.reset.updStack 0 fun t => { t with remote := [{ line := 0x20, data := 7, valid := BitVec.allOnes 32, dirty := 1 }] }
     (s.copyOf 0 0x20).isSome = true) ∧
    ((swapState false).stack 0).swaps.find? (fun w => w.group == 9 && !w.running) = some { group := 9, home := 4, running := false, ends := 0, held := [] } ∧
    ((swapState false).stack 0).running < 8 ∧ ((swapState false).stack 0).swaps.find? (fun w => w.group == 9 && w.running) = none ∧
    ((swapState true).stack 0).swaps.find? (fun w => w.group == 9 && w.running) = some { group := 9, home := 4, running := true, ends := 0, held := [] } ∧
    ((swapState true).stack 0).swaps.find? (fun w => w.group == 9 && !w.running) = none ∧
    8 ≤ ((State.reset.updStack 0 fun t => { t with swaps := (List.range 8).map fun i => { group := i, home := 4, running := true, ends := 0, held := [] } }).stack 0).running := by decide

/-! ### Witnesses: firmware -/

theorem wit_FirmwareTables : Accepts State.reset ∧ AtHome State.reset 0x1000 1224 ∧ ownFpa 0x1000 = true ∧
    (List.replicate 32 (0 : Byte)).length = 32 ∧ AtHome State.reset (0x1000 + 256 * 4) 256 ∧ 0x1000 % 256 = 0 ∧ 0x4000 % 16384 = 0 ∧
    descBad (BitVec.ofNat 512 (4 * 2 ^ 48 + 2 ^ 128)) = false ∧ descBad (BitVec.allOnes 512) = true ∧ mbxBad 0 = false ∧ mbxBad (BitVec.allOnes 64) = true ∧
    State.reset.alive 0 0 = false ∧ (regs id).alive 0 0 = true ∧ fld (0x010101 : Dword) 24 40 = 0 ∧
    State.reset.sourceBytes { fpa := 2 ^ 56, bytes := leBytes 2 5 ++ leBytes 2 4095 } (2 * 2) = [5, 4095].flatMap (leBytes 2) := by
  refine ⟨⟨by decide, by decide⟩, atHome_of (by decide) (by decide) (by decide), by decide, by decide, atHome_of (by decide) (by decide) (by decide), ?_⟩
  decide

/-- The frame entry that LOADIMG finds for page 0 of the placed address space. -/
theorem placed_page : State.reset.placeContext.loadPage 0 0 0 (0x100 + 16) = .ok (7 * 2 ^ 57 + 0x30000) := by decide +kernel

theorem wit_LoadImage : (let s := State.reset.placeContext; let fe := 7 * 2 ^ 57 + 0x30000
    s.loadPage 0 0 0 (0x100 + 16) = .ok fe ∧ nbits fe 57 1 = 1 ∧ ownFpa (nbits fe 0 57 + 0x100) = true ∧ AtHome s (nbits fe 0 57 + 0x100) 16) :=
  ⟨placed_page, by decide, by decide, atHome_of (by decide) (by decide) (by decide)⟩

/-- A sum of natural numbers is no less than what it starts from. -/
theorem le_sum (f : Nat → Nat) : ∀ (l : List Nat) (t : Nat), t ≤ l.foldl (fun t n => t + f n) t
  | [], t => Nat.le_refl t
  | n :: l, t => Nat.le_trans (Nat.le_add_right t (f n)) (le_sum f l (t + f n))

theorem wit_FirmwareContexts_launch : launchBad 0x1000 0 = true ∧ launchBad 0x10000 0 = false ∧ Accepts State.reset ∧
    (launchArgs 0 0x10000 0 0).icnt ≤ State.reset.roomAll (launchArgs 0 0x10000 0 0) State.reset.launchNumber ∧
    (launchArgs 0 0x10000 0 0).icnt = 1 := by
  refine ⟨by decide, by decide, ⟨by decide, by decide⟩, ?_, by decide⟩
  rw [State.roomAll, List.range_succ_eq_map, List.foldl_cons]
  exact Nat.le_trans (by decide : _ ≤ 0 + 4) (le_sum _ _ _)

theorem wit_FirmwareContexts : (let s := regs id
      killBad (2 ^ 14) = false ∧ killBad (2 ^ 63 + 2 ^ 11) = true ∧ s.killTargets (2 ^ 63) = [(0, 0)] ∧ State.reset.killTargets (2 ^ 63) = [] ∧
      s.alive 0 0 = true ∧ (s.ctx 0 0).st ≠ .saving ∧ (s.ctx 0 0).st ≠ .saved ∧ (s.ctx 0 0).trapping = false) ∧
    (trapped.ctx 0 0).trapping = true ∧
    (one fun x => { x with bnd := some { placedBind with pre := true } }).me.bnd = some { placedBind with pre := true } ∧
    { State.reset with fw := { Fw.reset with up := false } }.fw.up = false ∧
    firmwareCommand (.reset hostA) = some hostA ∧
    (let v : Saved := { fpa := 0x1000, pcn := 0, k := 0, entries := [], latches := [], multi := [], active := none, shadow := none, load := none, recs := [], evs := [] }
     let s : State := { one fun x => { x with st := .saved } with saved := [v] }
     s.saved.find? (fun v => v.pcn == 0 && v.k == 0 && v.fpa == 0x1000) = some v ∧ (s.ctx 0 0).st = .saved ∧
       s.saved.find? (fun v => v.pcn == 0 && v.k == 0 && v.fpa == 0x2000) = none) := by decide

theorem wit_NetworkCommandsAndReset : netOf 0 2 true = some netA.ref ∧ netOf (2 ^ 62) 2 true = none ∧ hostsBad 2 1 0 = true ∧ hostsBad 2 0 0 = false ∧
    netOf 0 2 false = some netA.ref ∧ (netState id).net netA.ref = some netA ∧ State.reset.net netA.ref = none ∧
    (∀ w ∈ State.reset.fw.waiting, ∀ r, w ≠ .reset r) ∧ (∀ x ∈ (netState id).nets, x.inside = []) ∧
    (∃ x ∈ (netState fun x => { x with inside := [token 1 3 0] }).nets, x.inside ≠ []) ∧ Accepts (netState id) := by
  refine ⟨by decide, by decide, by decide, by decide, by decide, by decide, by decide, fun w h => ?_, by decide, by decide, by decide, by decide⟩
  cases h

theorem wit_LifetimeAndPower : regionSize 5 = some 512 ∧ Accepts State.reset ∧ ownFpa 0x1000 = true ∧ AtHome State.reset 0x1000 512 ∧
    (let s : State := { State.reset with life := { State.reset.life with flashA := { LifeRec.reset with gen := 3 } } }
     s.life.flashB.gen < s.life.flashA.gen) ∧ State.reset.life.flashA.gen ≤ State.reset.life.flashB.gen ∧
    State.reset.image = true ∧ { State.reset with image := false }.image = false ∧ State.reset.fw.up = true ∧
    { State.reset with fw := { Fw.reset with up := false } }.fw.up = false ∧ (bootPeer = none → State.reset.bootHost = none) ∧
    ∃ p, { State.reset with fw := { Fw.reset with boot := some 4095 } }.bootHost = some p := by
  refine ⟨by decide, ⟨by decide, by decide⟩, by decide, atHome_of (by decide) (by decide) (by decide), by decide, by decide, rfl, rfl, rfl, rfl, fun h => ?_, ?_⟩
  · simp only [State.bootHost, h]; rfl
  · simp only [State.bootHost]; cases bootPeer with
    | none => exact ⟨4095, rfl⟩
    | some p => exact ⟨p, rfl⟩

/-! ### Witnesses: the clauses of events -/

/-- A command that is to be completed, its descriptor at virtual address 0x40 of the placed address space, whose page is walked. -/
def ending (ph : Nat) : Cmd := { cmdOf 2 (some (jobOf 0 ph)) with walked := [pageKey 0 0 * 16] }

/-- A package that completes it. -/
def completing : State := { State.reset.placeContext.updStack 0 (fun t => { t with l2 := [lineOf 0x30054] }) with cmds := [ending 5] }

/-- `completing` when its status word is written. -/
def completed : State :=
  ((completing.l2Touch 0 By.none_ (lineOf (0x30054 + 8)) true).homePut (0x30054 + 8) (leBytes 4 (jobOf 0 5).stat.toNat)).updJob 5 fun x => { x with phase := 7 }

theorem wit_CollectiveEvents_end : completing.cmdWaits (ending 5) = false ∧ (completing.engWalk (ending 5) ((jobOf 0 5).desc + 28)).isNone = true ∧
    (completing.engWalk (ending 5) ((jobOf 0 5).desc + 20)).isNone = true ∧ nearAt 0 0x30054 = true ∧ uncached 0x30054 = false ∧
    0x30054 % 128 ≤ 116 ∧ (completing.stack 0).l2.contains (lineOf 0x30054) = true ∧ completing.collCmd 0 = some (ending 5) := by decide

theorem wit_CollectiveEvents_home : AtHome completing 0x30054 12 := atHome_of (by decide) (by decide) (by decide)

theorem wit_CollectiveEvents_status : engBytes ((List.range 4).map fun i => completing.engByte (ending 5) ((jobOf 0 5).desc + BitVec.ofNat 64 (28 + i))) = (List.replicate 4 0, none) ∧
    (List.range 4).map (fun i => completing.engPlace (ending 5) ((jobOf 0 5).desc + BitVec.ofNat 64 (28 + i))) =
      (List.range 4).map (fun i => .place (0x30054 + 8 + i)) := by decide +kernel

theorem wit_CollectiveEvents_done : engBytes ((List.range 4).map fun i => completed.engByte (ending 7) ((jobOf 0 7).desc + BitVec.ofNat 64 (20 + i))) = (List.replicate 4 0, none) ∧
    (List.range 4).map (fun i => completed.engPlace (ending 7) ((jobOf 0 7).desc + BitVec.ofNat 64 (20 + i))) =
      (List.range 4).map (fun i => .place (0x30054 + i)) := by decide +kernel

/-- Bytes of a stack below the remap table, or in the capacity tier, are at home in a package that holds no line. -/
theorem atHome_plain {s : State} {c : Core} (h : Memory.wf s.mem = true) (hs : s.stk = Vector.replicate 8 Stack.reset)
    (hc : s.cores = [(0, c)]) (hl : c.l1 = []) (k x n : Nat) (hk : k < 8) (hx : x + n ≤ 2 ^ 36 ∨ (2 ^ 41 ≤ x ∧ x + n ≤ 2 ^ 42)) :
    AtHome s (2 ^ 45 * k + x) n := by
  have hst : ∀ i, s.stack i = Stack.reset := fun i => by simp [State.stack, hs]
  have up : ∀ b, s.portDown b = false := fun b => by
    have : ∀ i, (Stack.reset.ports).getLsbD (i % 2) = true := fun i => by
      rcases Nat.mod_two_eq_zero_or_one i with h | h <;> rw [h] <;> decide
    simp [State.portDown, hst, this]
  have parts (y : Nat) (hy : y < 2 ^ 45) : (2 ^ 45 * k + y) / 2 ^ 45 = k ∧ (2 ^ 45 * k + y) % 2 ^ 45 = y := by
    rw [Nat.mul_add_div (by decide), Nat.mul_add_mod, Nat.div_eq_of_lt hy, Nat.mod_eq_of_lt hy]; exact ⟨rfl, rfl⟩
  have hx0 : x < 2 ^ 45 := by omega
  refine ⟨h, ?_, up _, fun b h1 h2 => ?_⟩
  · rw [ownFpa, (parts x hx0).1, Config.pkg, beq_iff_eq]; omega
  · obtain ⟨y, rfl⟩ : ∃ y, b = 2 ^ 45 * k + y := ⟨b - 2 ^ 45 * k, by omega⟩
    have hy : y < 2 ^ 45 := by omega
    refine ⟨up _, ?_, ?_, ?_, by rw [stackAt, stackAt, (parts y hy).1, (parts x hx0).1]⟩
    · rw [mailboxAt, (parts y hy).2, if_neg (by omega)]
    · rw [inRemapTable, (parts y hy).2, Bool.and_eq_false_iff, decide_eq_false_iff_not, decide_eq_false_iff_not]
      simp only [remapBase, groupCount]; omega
    · simp [State.holdsLine, State.copyOf, hst, Stack.reset, hc, Core.hasLine, hl]

/-- The placed address space with the frame entry of page 0 absent, of TIER 2, to be filled with its primer; a context waits for it. -/
def missing : State :=
  { (asking .paging (.frame 0 0)) with
    mem := writeBytes 0x20000 (leBytes 16 (3 * 2 ^ 58 + 2 * 2 ^ 60 + 2 ^ 63)) (placedTables []), spaces := [(0, { root := some 0x10000, base := some 0x24000 })] }

theorem missing_entries : missing.pageEntries 0 0 0 = .ok (0x200 * 2 ^ 64 + 65536 * 2 ^ 13 + 1) (3 * 2 ^ 9 + 4 * 2 + 1) (3 * 2 ^ 58 + 2 * 2 ^ 60 + 2 ^ 63) := by
  decide +kernel

theorem missing_place : ∃ m, m < 8 * 65536 ∧ missing.freePlace 2 = some (peerOf (m % 8) * 2 ^ 45 + 0x20000000000 + m / 8 * 2 ^ 20) := by
  have h : framePlace 2 0 = some (peerOf ((Config.frameStart + 0) % (8 * 65536) % 8) * 2 ^ 45 + 0x20000000000 +
      (Config.frameStart + 0) % (8 * 65536) / 8 * 2 ^ 20) := by
    rw [framePlace, if_pos rfl, if_pos (by decide)]
  have hf : missing.fw.frames = [] := rfl
  refine ⟨(Config.frameStart + 0) % (8 * 65536), Nat.mod_lt _ (by decide), ?_⟩
  rw [State.freePlace, hf, show List.range (([] : List Frame).length + 1) = [0] from rfl, List.filterMap_cons, h]
  rfl

theorem wit_PagingAndAgentEvents_missing : (missing.ctx 0 0).agent = some (.frame 0 0) ∧ (missing.ctx 0 0).st = .blocked .paging ∧ missing.firmOut = false ∧
    nbits (3 * 2 ^ 9 + 4 * 2 + 1) 0 1 = 1 ∧ nbits (3 * 2 ^ 58 + 2 * 2 ^ 60 + 2 ^ 63) 57 1 = 0 ∧ nbits (3 * 2 ^ 58 + 2 * 2 ^ 60 + 2 ^ 63) 60 2 = 2 ∧
    missing.fw.frames = [] ∧ frameAddr (0x200 * 2 ^ 64 + 65536 * 2 ^ 13 + 1) 0 = 0x20000 ∧ frameSize (3 * 2 ^ 9 + 4 * 2 + 1) = 65536 := by decide +kernel

theorem leBytes_length : ∀ n x, (leBytes n x).length = n
  | 0, _ => rfl
  | n + 1, x => by rw [leBytes, List.length_cons, leBytes_length n]

theorem supply_length (r : PageSupply) (pe fe : Nat) (h : nbits fe 63 1 = 1) : (supplyBytes r pe fe).length = frameSize pe := by
  simp [supplyBytes, h, primerBytes, leBytes_length]

theorem wit_PagingAndAgentEvents_frame (r : PageSupply) : ∃ a, missing.freePlace 2 = some a ∧
    AtHome missing a (supplyBytes r (3 * 2 ^ 9 + 4 * 2 + 1) (3 * 2 ^ 58 + 2 * 2 ^ 60 + 2 ^ 63)).length ∧ AtHome missing 0x20000 16 ∧ 0x20000 + 16 ≤ a := by
  obtain ⟨m, hm, h⟩ := missing_place
  have hz : frameSize (3 * 2 ^ 9 + 4 * 2 + 1) ≤ 2 ^ 20 := by decide
  refine ⟨_, h, ?_, atHome_of (by decide) (by decide) (by decide), by omega⟩
  rw [supply_length _ _ _ (by decide)]
  have hp : peerOf (m % 8) * 2 ^ 45 + 0x20000000000 + m / 8 * 2 ^ 20 = 2 ^ 45 * (m % 8) + (0x20000000000 + m / 8 * 2 ^ 20) := by
    simp only [peerOf, Config.pkg]; omega
  rw [hp]
  exact atHome_plain (by decide) rfl rfl rfl _ _ _ (by omega) (by omega)

/-- A plane set table at 0x24000 with planes 8 and 9 of set 0 deleted and created; a context waits for the agent's answer to `op`. -/
def planning (op q : Nat) : State :=
  { (asking .plane (.plane op 0 q 0 0 4)) with
    mem := writeBytes 0x24000 (leBytes 16 (2 * 2 ^ 32) ++ List.replicate 112 0 ++ leBytes 16 0 ++ leBytes 16 (2 ^ 11 + 1)) []
    spaces := [(0, { root := none, base := some 0x24000 })] }

theorem wit_PagingAndAgentEvents_planes : ([(0, 8), (1, 9), (2, 9)] : List (Nat × Nat)).all (fun x =>
    let s := planning x.1 x.2
    (s.ctx 0 0).agent == some (.plane x.1 0 x.2 0 0 4) && (s.ctx 0 0).st == .blocked .plane && s.fw.planes.isEmpty && !s.firmOut &&
      s.setAddr 0 0 == some 0x24000 && s.tab 0 0x24000 16 == .ok (2 * 2 ^ 32) &&
      s.tab 0 (0x24000 + 16 * x.2) 16 == .ok (if x.2 = 8 then 0 else 2 ^ 11 + 1) &&
      !planeOpBad x.1 x.2 (2 * 2 ^ 32) (if x.2 = 8 then 0 else 2 ^ 11 + 1) && s.planeFrames 0 0 x.2 == { got := [], need := [] }) = true := by decide +kernel

theorem wit_PagingAndAgentEvents_home : AtHome (planning 0 8) 0x24000 256 := atHome_of (by decide) (by decide) (by decide)

theorem wit_PagingAndAgentEvents_present : (asking .paging (.frame 9 1)).pageEntries 0 9 1 = .bad ∧
    (let s : State := { (asking .paging (.frame 0 0)) with mem := placedTables [], spaces := [(0, { root := some 0x10000, base := some 0x24000 })] }
     s.pageEntries 0 0 0 = .ok (0x200 * 2 ^ 64 + 65536 * 2 ^ 13 + 1) (3 * 2 ^ 9 + 4 * 2 + 1) (7 * 2 ^ 57 + 0x30000)) ∧
    nbits (7 * 2 ^ 57 + 0x30000) 57 1 = 1 := by decide +kernel

/-- A context that waits for a word of its endpoint 7's partner. -/
def waiting7 : State := one fun x => { x.setChan 7 { Chan.reset with bound := some { who := { peer := 3, core := 5, ctx := 1 }, ep := 2 } } with
  st := .blocked .channel, on := some (false, 7), shown := 4 }

theorem wit_ChannelEvents_probe : (let s := waiting7
      (s.ctx 0 0).st = .blocked .channel ∧ (s.ctx 0 0).on = some (false, 7) ∧ (s.ctx 0 0).shown = 4 ∧ s.gone.contains 3 = false ∧
      ((s.ctx 0 0).chan 7).bound = some { who := { peer := 3, core := 5, ctx := 1 }, ep := 2 } ∧ ((s.ctx 0 0).chan 7).early = []) ∧
    (let p : Probe := { orig := { peer := 3, core := 5, ctx := 1 }, reader := true, ep := 7, hops := 255, stamp := 0 }
     p.orig ≠ ctxRef 0 0 ∧ p.hops < 256 ∧ ((waiting7.ctx 0 0).chan p.ep).sent = 0 ∧ ((waiting7.ctx 0 0).chan p.ep).spill = []) ∧
    (let p : Probe := { orig := ctxRef 0 0, reader := false, ep := 7, hops := 2, stamp := 4 }; p.orig = ctxRef 0 0 ∧ (waiting7.ctx 0 0).shown = p.stamp) ∧
    ({ who := { peer := 4, core := 5, ctx := 1 }, ep := 2 } : EndRef) ≠ { who := { peer := 3, core := 5, ctx := 1 }, ep := 2 } := by decide

/-- A package whose L2 holds the line of 0x1000. -/
def sliced : State := State.reset.updStack 0 fun t => { t with l2 := [lineOf 0x1000] }

theorem wit_InSlice : InSlice sliced 0x1000 ∧ AtHome sliced 0x1000 128 ∧ Served (cellTo 1 192 0x1000 9 [1, 2, 3]) true 3 sliced ∧
    Served (cellTo 0 192 0x1000 9 []) false 1 sliced ∧ InSlice State.reset (spAddr 0 0) := by
  refine ⟨Or.inr (by decide), atHome_of (by decide) (by decide) (by decide), ⟨by decide, by decide, by decide, by decide⟩,
    ⟨by decide, by decide, by decide, by decide⟩, Or.inl (by decide)⟩

/-- A command of the placed address space whose `READY` word's page is walked, or not. -/
def headOf (l : List Nat) : State :=
  { State.reset.placeContext with cmds := [{ cmdOf 2 (some (jobOf 0 0)) with walked := l }], groups := [group7 none] }

theorem wit_CollectiveEvents_walk : (let s := headOf [pageKey 0 0 * 16]
      (s.engWalk { cmdOf 2 (some (jobOf 0 0)) with walked := [pageKey 0 0 * 16] } (jobOf 0 0).ready).isNone = true ∧ s.group 7 = some (group7 none) ∧
      (group7 none).members.contains (peerOf 0) = true ∧ (group7 none).dropped = none ∧ s.collEarly = []) ∧
    ((headOf []).engWalk (cmdOf 2 (some (jobOf 0 0))) (jobOf 0 0).ready).isSome = true := by decide

/-- A cell of group 7's first collective from the member at peer 2. -/
def chunk7 (ty : Nat) (v : Nat) (l : List Byte) : RingCell := { cellTo ty 193 0 0 l with xt := BitVec.ofNat 96 (7 + v) }

theorem wit_CollectiveEvents_cell : (let s : State := { collState 0 3 with groups := [group7 none] }
      s.group (jobOf 0 3).grp = some (group7 none) ∧ (group7 none).members.contains (peerOf 0) = true ∧ (jobOf 0 3).ended = none ∧
      (jobOf 0 3).phase ≠ 8 ∧ s.collCmd 0 = some (cmdOf 2 (some (jobOf 0 3)))) ∧
    (let x := chunk7 14 (2 * 2 ^ 12) []; collGroup x = (jobOf 0 3).grp ∧ x.tag.toNat = (jobOf 0 3).ord % 2 ^ 16 ∧ x.xt.getLsbD 28 = false ∧
      ((jobOf 0 3).rank + 1) % max 1 (jobOf 0 3).p ≠ fld x.xt 12 16) ∧
    (let x := chunk7 14 (2 ^ 28) []; collGroup x = (jobOf 0 3).grp ∧ x.xt.getLsbD 28 = true) ∧
    (let x := chunk7 10 (2 * 2 ^ 12 + 3 * 2 ^ 45) (leBytes 4 5); collGroup x = (jobOf 0 3).grp ∧ disagrees (jobOf 0 3) x = false ∧ fld x.xt 28 13 + 2 < (jobOf 0 3).p) ∧
    (let x := chunk7 10 (1 * 2 ^ 41) (leBytes 4 5); disagrees (jobOf 0 3) x = true) ∧
    (let x : RingCell := { cellTo 11 193 7 0 (leBytes 4 5) with bc := true }
     collGroup x = (jobOf 3 3).grp ∧ x.lvl = 0 ∧ x.xt.getLsbD 0 = false ∧ ({ jobOf 3 3 with rank := 1 } : CollJob).rank ≠ 0) := by decide

/-- A network where another token stands at wire `b` of layer 1. -/
def beside (b : Nat) : State := { netState id with sched := [(0, .takeToken ⟨(token 1 b 0), true⟩)] }

theorem wit_NetworkEvents_lower : (netState id).lowerFirst (token 1 3 0) = none ∧ pairWire 1 3 = 2 ∧
    (beside 3).lowerFirst (token 1 2 0) = none ∧ (beside 2).lowerFirst (token 1 3 0) = some (0, .takeToken ⟨(token 1 2 0), true⟩) := by decide

theorem wit_Responses_waiting : ((sliced.stack 0).l2.contains 32 = true) ∧
    (((flying (.gload 3 7 false)).core 0).flight 50).isSome = true ∧
    ([.fill 0 32 0 0, .read 0 0 50 32, .table 0 32, .firm, .data 5 0, .back 0 none 7] : List ReqKind).all (fun k =>
      ((reqState k).req 9).any fun r => r.kind == k) = true ∧ (leBytes 9 1).getLast? ≠ some 1 ∧ (leBytes 1 1).getLast? = some 1 := by decide

theorem wit_RingCells_levels : (let c := { cellTo 9 192 0x1000 0 [1, 2] with bc := true }
      c.lvl = 0 ∧ c.du ≠ 193 ∧ c.xt.getLsbD 0 = false ∧ ({ c with xt := 1 } : RingCell).xt.getLsbD 0 = true) ∧
    ({ cellTo 9 192 0x1000 0 [] with lvl := 1 } : RingCell).lvl = 1 ∧ 2 ≤ ({ cellTo 9 192 0x1000 0 [] with lvl := 3 } : RingCell).lvl.toNat ∧
    (cellTo 9 192 0x1000 0 []).bc = false ∧ ((reqState (.fill 0 5 0 0)).req 9).isSome = true ∧
    (State.reset.seg segA).down = false ∧ (State.reset.setSeg { ref := segA, fails := 7, down := true }).seg segA = { ref := segA, fails := 7, down := true } := by decide

theorem wit_MemoryDevices_swaps : (let s := State.reset.updStack 0 fun t => { t with swaps := [{ group := 9, home := 0, running := true, ends := 5, held := [] }], pins := [(9, 1)] }
      (s.stack 0).swaps.find? (fun w => w.group == 9 && w.running) = some { group := 9, home := 0, running := true, ends := 5, held := [] } ∧
      decide (0 < assocGet 9 0 (s.stack 0).pins) = true) ∧
    ((swapState true).stack 0).remapOf 9 = Remap.reset 9 ∧ (Remap.reset 9).pin = false ∧ (swapState true).fw.frames = [] ∧
    (List.replicate 128 (0 : Byte)).length = 128 ∧ Memory.wf State.reset.mem = true ∧ ¬ (ownFpa (0x20 * 128) = true ∧ stackAt (0x20 * 128) = 1 % 8) := by decide

/-- A saved context with its area at `a`. -/
def savedAt (a : Nat) : Saved :=
  { fpa := a, pcn := 0, k := 0, entries := [], latches := [], multi := [], active := none, shadow := none, load := none, recs := [], evs := [] }

theorem wit_FirmwareContexts_resume : (let s : State := { one fun x => { x with st := .saved } with saved := [savedAt 0x1000, savedAt (2 ^ 56)] }
      s.saved.find? (fun v => v.pcn == 0 && v.k == 0 && v.fpa == 2 ^ 56) = some (savedAt (2 ^ 56)) ∧ (s.ctx 0 0).st = .saved ∧
      s.areaLacks (2 ^ 56) 300 ≠ [] ∧ s.areaLacks 0x1000 (s.ctx 0 0).saveBytes = [] ∧ inCsr 0x1000 = false ∧
      (s.ctx 0 0).gone = false ∧ (s.ctx 0 0).saveBytes = 4 * 262144 + 59392) ∧
    (∀ n, (State.reset.core n).l1 = []) ∧
    AtHome (one fun x => { x with st := .saved }) 0x1000 (4 * 262144 + 59392) :=
  ⟨by decide, fun n => rfl, atHome_plain (by decide) rfl rfl rfl 0 0x1000 _ (by decide) (by decide)⟩

/-! ### Witnesses: the premises of the wider clauses -/

/-- A value of a list, or the one given. -/
theorem assocGet_cases {α : Type} (k : Nat) (d : α) : ∀ l : List (Nat × α), assocGet k d l = d ∨ ∃ y ∈ l, assocGet k d l = y.2
  | [] => Or.inl rfl
  | y :: r => by
    rw [assocGet]
    split
    · exact Or.inr ⟨y, List.mem_cons_self, rfl⟩
    · exact (assocGet_cases k d r).imp id fun ⟨z, hz, e⟩ => ⟨z, List.mem_cons_of_mem _ hz, e⟩

/-- A package whose caches hold no words. -/
theorem quiet_of {s : State} (h : s.cores.all (fun c => c.2.l1.isEmpty) = true) (hs : s.stk.toList.all (fun t => t.remote.isEmpty) = true)
    (car : Carry) : WalksQuietly s car := by
  refine Or.inl ⟨fun m => ?_, fun u => ?_⟩
  · rw [State.core]
    rcases assocGet_cases m (Core.reset m) s.cores with e | ⟨y, hy, e⟩ <;> rw [e]
    · rfl
    · exact List.isEmpty_iff.1 (List.all_eq_true.1 h y hy)
  · exact List.isEmpty_iff.1 (List.all_eq_true.1 hs _ (by simp [State.stack]))

theorem wit_GlobalLoads_walks (car : Carry) : WalksQuietly (rows2 1 2) car := quiet_of (by decide) (by decide) car

theorem wit_EngineLimits_matrix : (let s := running (rows2 1 2) .m 9 0
      limitBad s.arch (.mlw 0 0 30 5) = true ∧ chainBad (s.act.core % 8) (running (rows2 1 2) .m 0xFF 0).act.entry.ops.x = true ∧
      limitBad s.arch (.mlw 0 0 9 5) = false ∧ (depthZero s.arch (info (.mlw 0 0 9 5)) || tooMany s.arch (info (.mlw 0 0 9 5)) 0) = true) ∧
    (let s := (rows2 1 2).updCore 0 fun c => { c with oos := true }; s.myCore.oos = true) ∧
    (let s := (rows2 1 2).updCore 0 fun c => { c with shadow := { c.shadow with lost := some 5 }, active := { c.active with lost := some 6 } }
     s.myCore.oos = false ∧ s.myCore.shadow.lost = some 5 ∧ s.myCore.active.lost = some 6) := by decide

/-- A global store whose check has passed, its place 8 bytes of the scratchpad. -/
def heldAt (i : Instr) (a : Nat) : Held :=
  { held4 with entry := { held4.entry with instr := i }
               places := some { rows := [(8, (List.range 8).map fun j => .loc (a + j) 0 8)], off := 0, w := 8 } }

/-- The bundle of a held word is the oldest of its context. -/
def retiring (h : Held) : State := trapped.updCore 0 fun c => { c with held := [h] }

theorem wit_Retirement_store : (let h := heldAt (.stg 0 0 0 1 2 3 0 0) (spAddr 0 0); let s := retiring h
      (s.ctx 0 0).wq ++ (s.core 0).held.filter (fun h => h.entry.ctx == 0 && h.entry.seq == ckpt4.seq) = [h] ∧ isWait h.entry.instr = false ∧
      h.stage = 0 ∧ h.checked = true ∧ h.need ≤ h.rows.length ∧ (s.core 0).queue = [] ∧ (s.core 0).flights = [] ∧
      (s.core 0).held.filter (fun x => !(x.entry.ctx == 0 && x.entry.seq == ckpt4.seq)) = [] ∧ s.reqs = [] ∧
      (s.stack (stackOf 0)).remote = [] ∧ (∀ c ∈ s.cores, c.2.l1 = []) ∧ s.poison = [] ∧
      s.heldSpans 0 0 h = ((List.range 8).map fun j => (spAddr 0 0 + j, 1)) ∧ uncached (spAddr 0 0) = true ∧ Memory.wf s.mem = true ∧
      (h.places.getD Places.none_).spans = ((List.range 8).map fun j => (spAddr 0 0 + j, 1)) ∧ (h.places.getD Places.none_).start = some (spAddr 0 0)) ∧
    (∀ u, ((retiring (heldAt (.stg 0 0 0 1 2 3 0 0) (spAddr 0 0))).stack u).swaps = []) ∧
    (List.range 8).all (fun j => nearAt (stackOf 0) (spAddr 0 0 + j)) = true :=
  ⟨by decide, fun u => by
    rw [State.stack, show (retiring (heldAt (.stg 0 0 0 1 2 3 0 0) (spAddr 0 0))).stk = Vector.replicate 8 Stack.reset from rfl, Vector.getElem_replicate]
    rfl, by decide⟩

theorem wit_Retirement_home : AtHome (retiring (heldAt (.stg 0 0 0 1 2 3 0 0) (spAddr 0 0))) (spAddr 0 0) 8 :=
  atHome_of (by decide) (by decide) (by decide)

theorem wit_Retirement_atomic : (let h := heldAt (.atom 0 0 0 1 2 3 4) 0x1000
      thruHome h.entry.instr = true ∧ (h.places.getD Places.none_).spans = ((List.range 8).map fun j => (0x1000 + j, 1)) ∧ (h.places.getD Places.none_).start = some 0x1000 ∧
      (h.places.getD Places.none_).rows.map (fun r => r.1 * r.2.length) = [64]) ∧
    AtHome (retiring (heldAt (.atom 0 0 0 1 2 3 4) 0x1000)) 0x1000 8 ∧ (List.range 8).all (fun j => nearAt (stackOf 0) (0x1000 + j)) = true :=
  ⟨by decide, atHome_of (by decide) (by decide) (by decide), by decide⟩

theorem wit_ContextChoice_counts : (let c := ((regs id).updCore 0 fun c => (c.updCtx 2 fun x => { x with st := .ready, waitCnt := 4096 }).updCtx 3
      fun x => { x with st := .ready }).core 0
    (c.ctx 2).st = .ready ∧ 4096 ≤ (c.ctx 2).waitCnt ∧ c.choose = some 2) ∧ (State.reset.core 0).choose = none := by decide

theorem wit_MatrixEvents_load : ((matrixState.core 0).load.any fun l => { l with entry := { l.entry with instr := .mlw 0 0 1 5 } }.entry.instr == .mlw 0 0 1 5) = true ∧
    ((regs id).updCore 0 fun c => { c with tandem := [{ ctx := 0, seq := 0, due := 0, row := 7 }] }).now = 0 := by decide

theorem wit_PlyEvents_shadow : (let s := State.reset; (s.core 0).shadow.mask.getLsbD (2 : BitVec 2).toNat = true) ∧
    (let s := State.reset.updCore 0 fun c => { c with failed := 0b0011, shadow := { c.shadow with mask := 0b0011 } }
     (s.core 0).shadow.mask.getLsbD (2 : BitVec 2).toNat = false ∧ popCount 4 (~~~((s.core 0).failed ||| 4)).toNat < 2) := by decide

/-- The running context waits for spill space of its endpoint 7, `f` made of it. -/
def spilling (f : Chan → Chan) : State :=
  one fun x => { x.setChan 7 (f { Chan.reset with bound := some { who := { peer := 3, core := 5, ctx := 1 }, ep := 2 } }) with
    st := .blocked .spill, agent := some (.spill 7 9) }

theorem wit_PagingAndAgentEvents_spill : ([id, fun c => { c with sent := 1 }, fun c => { c with spill := [4] },
      fun c => { c with broken := some { kind := 4, party := { peer := 3, core := 5, ctx := 1 } } }] : List (Chan → Chan)).all (fun f =>
        ((spilling f).ctx 0 0).agent == some (.spill 7 9) && ((spilling f).ctx 0 0).st == .blocked .spill) = true ∧
    (let c := ((spilling id).ctx 0 0).chan 7; c.broken = none ∧ c.sent = 0 ∧ c.spill = [] ∧
      c.bound = some { who := { peer := 3, core := 5, ctx := 1 }, ep := 2 } ∧ (spilling id).gone.contains 3 = false) := by decide

theorem wit_PagingAndAgentEvents_applied : (let s := asking .plane (.applied 3 4)
    (s.ctx 0 0).agent = some (.applied 3 4) ∧ (s.ctx 0 0).st = .blocked .plane ∧ s.firmOut = false) ∧
    Settled (planning 0 8) 0x24000 256 ∧ Settled missing 0x20000 16 ∧ Settled missing 0x20000000000 65536 :=
  ⟨by decide, Or.inl rfl, Or.inl rfl, Or.inl rfl⟩

/-- A missing page's frame in the capacity tier, as the agent allocates it. -/
theorem wit_PagingAndAgentEvents_allocates : ∃ fr s1, missing.allocate 0x20000 65536 2 = some (fr, s1) ∧ fr.tier ≠ 1 := by
  obtain ⟨m, _, h⟩ := missing_place
  have hf : missing.fw.frames.find? (fun f => f.entry == 0x20000) = none := rfl
  simp only [State.allocate, hf, h, Option.map_some]
  exact ⟨_, _, rfl, show 2 ≠ 1 by decide⟩

/-- A load of context 0 whose check is due, in the placed address space; it feeds flight 60. -/
def loading (i : Instr) (x : Nat) : State := State.reset.placeContext.updCore 0 fun c =>
  { c with flights := [{ fl50 (.gload 3 0 false) with id := 60 },
      fl50 (.check { State.reset.act.entry with slot := .l, instr := i, ops := { x := 0, y := 0, z := 0, addr := BitVec.ofNat 64 x, tag := 0 } } (carryW 0) [60] 0 Places.none_)] }

theorem wit_TranslatedLoad : (let s := loading (.ldg 0 0 0 3 5 3 0 0) 0x80; let f := ((s.core 0).flight 50).getD (fl50 (.gload 0 0 true))
    match f.kind with
    | .check e car fs 0 _ => s.wordVerdict 0 0 e car = .ok ∧ csrStop (accessOf e.instr).2 (s.resolve 0 0 e car).spans = false ∧ fs.Nodup ∧
        50 ∉ fs ∧ e.slot ≠ .t ∧ s.reqs = [] ∧ s.poison = [] ∧ (s.core 0).queue = [] ∧ (s.core 0).held = [] ∧ (s.ctx 0 0).wq = [] ∧
        (s.stack (stackOf 0)).stale = [] ∧ (s.resolve 0 0 e car).spans = ((List.range 8).map fun j => (0x30080 + j, 1)) ∧ nearAt (stackOf 0) 0x30080 = true
    | _ => False) ∧
    AtHome (loading (.ldg 0 0 0 3 5 3 0 0) 0x80) 0x30080 8 :=
  ⟨⟨rfl, rfl, by decide, by decide, by decide, rfl, rfl, rfl, rfl, rfl, rfl, by decide +kernel, by decide⟩,
    atHome_of (by decide +kernel) (by decide) (by decide)⟩

theorem wit_DomainEvents_broken : (let y : BreakWhy := { kind := 4, party := ctxRef 0 0 }
      (domState fun d => { d with broken := some y }).domAt { peer := 0, obj := 5 } = some { dom5 with broken := some y } ∧ refOwn (ctxRef 0 0) = true) ∧
    (let s := domState fun d => { d with mbr := 2 }; s.domAt { peer := 0, obj := 5 } = some dom5 ∧ dom5.arr = dom5.mbr - 1 ∧ dom5.arr ≠ 0) ∧
    (let y : BreakWhy := { kind := 1, party := { peer := 9, core := 0, ctx := 0 } }
     refOwn y.party = false ∧ (domState id).gone.contains y.party.peer = false ∧ (domState id).killedMembers { peer := 0, obj := 5 } < dom5.mbr) := by decide

theorem wit_ChannelEvents_acknowledged : (let a : Arrival := ⟨{ cellTo 8 0 28 0 [] with dst := 0 }, true⟩
      a.room = true ∧ cellEnd a.cell = { who := ctxRef 0 0, ep := 7 }) ∧
    (let s := bound7 fun c => { c with sent := 16, spill := [3] }; (s.me.chan 7).spill = 3 :: [] ∧ s.gone.contains 3 = false) ∧
    (let y : BreakWhy := { kind := 2, party := { peer := 3, core := 5, ctx := 1 } }
     y.party = { peer := 3, core := 5, ctx := 1 } ∧ refOwn { peer := 3, core := 5, ctx := 1 } = true ∧ refOwn { peer := 9, core := 5, ctx := 1 } = false) ∧
    (regs id).arch.csr.syncmode.getLsbD 1 = false ∧ ((7 : Dword) <<< 60).toNat / 2 ^ 60 ≠ 3 ∧ ((7 : Dword) <<< 60).toNat / 2 ^ 60 ≠ 5 := by decide

/-- A `CPY` or `GATH` of the placed address space under way, its pages walked. -/
def moving (cls : BitVec 3) (n : Nat) : Cmd :=
  { cmdOf cls none with started := true, src := 0x100, dst := 0x200, cnt := BitVec.ofNat 64 n, walked := [pageKey 0 0 * 16] }

/-- A package with that command. -/
def moves (cls : BitVec 3) (n : Nat) : State := { State.reset.placeContext with cmds := [moving cls n] }

theorem wit_EngineEvents_moves : (let s := moves 1 16; let c := moving 1 16
      s.cmds = [c] ∧ c.finished = false ∧ c.stopped = none ∧ c.coll = none ∧ c.since ≤ s.now ∧ (s.stack c.stack).remote = [] ∧ s.reqs = [] ∧
      c.moved < fld c.cnt 0 40 ∧ chunkLen (fld c.cnt 0 40 - c.moved) (c.src + BitVec.ofNat 64 c.moved) (c.dst + BitVec.ofNat 64 c.moved) = 16 ∧
      (s.engWalk c c.src).isNone = true ∧ (s.engWalk c c.dst).isNone = true ∧ nearAt c.stack 0x30200 = true ∧
      (∀ j, j < fld c.cnt 0 40 → fld c.cnt 0 40 ≤ (c.src + BitVec.ofNat 64 j - c.dst).toNat)) ∧
    fld (moving 1 0).cnt 0 40 ≤ (moving 1 0).moved ∧ fld (moving 0 0).cnt 0 20 ≤ (moving 0 0).entry ∧
    (moving 0 2).entry < fld (moving 0 2).cnt 0 20 := by decide

theorem wit_EngineEvents_places : (List.range 16).all (fun i => (moves 1 16).engByte (moving 1 16) (0x100 + BitVec.ofNat 64 i) == .byte 0 &&
    (moves 1 16).engPlace (moving 1 16) (0x200 + BitVec.ofNat 64 i) == .place (0x30200 + i)) = true := by decide +kernel

theorem wit_EngineEvents_lands : AtHome (moves 1 16) 0x30200 16 ∧ (∀ y ∈ linesOf 0x30200 16, (moves 1 16).copyOf 0 y = none) ∧
    Served (cellTo 9 194 0x1000 9 [1, 2, 3]) true 3 sliced ∧ InSlice sliced (cellAddr (cellTo 9 194 0x1000 9 [1, 2, 3])) :=
  ⟨atHome_of (by decide +kernel) (by decide) (by decide), by decide, ⟨by decide, by decide, by decide, by decide, by decide⟩, Or.inr (by decide)⟩

/-- A gather whose list entry at 0x100 names 4 bytes at 0x180. -/
def gathering : State := { moves 0 2 with mem := writeBytes 0x30100 (leBytes 8 0x180 ++ leBytes 8 4) (moves 0 2).mem }

theorem wit_EngineEvents_entry : (List.range 16).all (fun i => gathering.engByte (moving 0 2) (0x100 + BitVec.ofNat 64 i) ==
      .byte ((leBytes 8 0x180 ++ leBytes 8 4).getD i 0)) = true ∧ leNat (((leBytes 8 0x180 ++ leBytes 8 4).drop 8).take 4) = 4 ∧
    (gathering.engWalk (moving 0 2) 0x100).isNone = true := by decide +kernel

/-- A package whose collective head reads its `READY` word at a line that its slice holds. -/
def reading (ph : Nat) : State :=
  { State.reset.placeContext.updStack 0 (fun t => { t with l2 := [lineOf 0x30080] }) with cmds := [ending ph], groups := [group7 none] }

theorem wit_CollectiveEvents_reads : ((reading 0).engWalk (ending 0) (jobOf 0 0).ready).isNone = true ∧
    (reading 0).engAt (ending 0) (jobOf 0 0).ready true = .place 0x30080 ∧ InSlice (reading 0) 0x30080 ∧
    (reading 1).watches 0 0x30080 = true ∧ (jobOf 0 1).phase = 1 ∧
    engBytes ((List.range 8).map fun i => (reading 0).engByte (ending 0) ((jobOf 0 0).ready + BitVec.ofNat 64 i)) = (List.replicate 8 0, none) :=
  ⟨by decide, by decide +kernel, Or.inr (by decide), by decide +kernel, rfl, by decide +kernel⟩

theorem wit_CollectiveEvents_elements : (let j : CollJob := { jobOf 3 3 with rank := 1 }
      let x : RingCell := { cellTo 11 193 (2 * 2 ^ 12) 0 (leBytes 4 5) with bc := true }
      j.elems x.payload.length x.payload ≠ [] ∧ j.op = 3 ∧ x.bc = true ∧ x.du = 193 ∧ x.lvl = 0) ∧
    (let x := chunk7 14 (2 ^ 28 + 2 ^ 29) []; x.xt.getLsbD 28 = true ∧ x.xt.getLsbD 29 = true ∧ (group7 none).members.findIdx (fun p => p == peerOf 0) = (jobOf 0 3).rank ∧
      (group7 none).members.length = (jobOf 0 3).p ∧ 2 ≤ (jobOf 0 3).p) := by decide

theorem wit_NetworkEvents_drains : (∃ q nw b h0 h1, WaitCmd.cnconfig q netA.ref nw b h0 h1 ∈ draining.fw.waiting) ∧ (draining.takesAway netA = false) ∧
    (∀ w ∈ (netState fun x => { x with hold := true }).fw.waiting, (∀ q nw b h0 h1, w ≠ .cnconfig q netA.ref nw b h0 h1) ∧ ∀ q, w ≠ .reset q) ∧
    (let x : Net := { netA with span := true, hold := true }
     let s : State := { netState fun _ => x with reqs := [{ tag := 9, cell := token 1 3 0, kind := .take 0 0 50, again := false }] }
     s.takesAway x = true ∧ (s.req 9).any (fun r => r.kind == .take 0 0 50) = true ∧ tokenNet (token 1 3 0) = x.ref ∧ x.held.any (sameToken (token 1 3 0)) = false) :=
  ⟨⟨hostA, 0, 0, 0, 0, by decide⟩, by decide, fun w h => absurd h (by simp [netState, State.reset, Fw.reset]), by decide⟩

/-- A swap of group 0 whose home page the line of 0x1000 is in. -/
def swapping : State := State.reset.updStack 0 fun t => { t with swaps := [{ group := 0, home := 0, running := true, ends := 5, held := [] }] }

theorem wit_HomeRequests_held : (let c := cellTo 0 192 0x1000 9 []
    swapping.slotHeld (lineOf (cellAddr c)) = true ∧ (swapping.swapOver (lineOf (cellAddr c))).isSome = true ∧ (arrivalOf c).isSome = true ∧
    localMapped c.addr.toNat = true ∧ inCsr (cellAddr c) = false ∧ swapping.replies = []) ∧
    inCsr (cellAddr (cellTo 1 192 0x1F8000000000 9 [])) = true ∧ localMapped 0x1F8000000000 = true := by decide

theorem wit_Responses_stale : (let s := (reqState (.fill 0 32 0 0)).updStack 0 fun t => { t with l2 := [32], stale := [32] }
      (s.stack 0).stale.contains 32 = true ∧ (s.req 9).any (fun r => r.kind == .fill 0 32 0 0) = true) ∧
    (let s := (reqState (.fill 0 32 0 0)).updStack 0 fun t => { t with l2 := [32] }
     (s.stack 0).l2.contains 32 = true ∧ (s.stack 0).stale.contains 32 = false) ∧
    (reqState (.take 0 0 50)).req 9 = some { tag := 9, cell := cellTo 2 192 0 9 [], kind := .take 0 0 50, again := false } := by decide

theorem wit_RingCells_below : (let c := { cellTo 11 193 7 0 [1, 2] with bc := true, lvl := 1 }
      let s : State := { State.reset with groups := [group7 none] }
      collGroup c = 7 ∧ s.group 7 = some (group7 none) ∧ (∃ p ∈ (group7 none).members, p / 8 = Config.pkg) ∧ State.reset.group 7 = none) ∧
    ({ cellTo 11 193 0x1000 0 [] with lvl := 1 } : RingCell).bc = false ∧
    (let c := cellTo 0 192 0x1000 9 []
     (({ reqState (.fill 0 32 0 0) with reqs := [{ tag := 9, cell := c, kind := .fill 0 32 0 0, again := false }] } : State).carries c = true) ∧
     (reqState (.fill 0 32 0 0)).carries c = false) ∧
    (State.reset.setSeg { ref := segA, fails := 8, down := true }).cutSlots = [] := by decide

theorem wit_MemoryDevices_landing : ((flying (.land 1 7 true false)).core 0).flight 50 = some (fl50 (.land 1 7 true false)) ∧
    ownFpa 0x1000 = true ∧ ownFpa (2 ^ 56) = false ∧
    (let s := (State.reset.updStack 0 fun t => { t with remote := [{ line := 2 ^ 49, data := 7, valid := BitVec.allOnes 32, dirty := 1 }] })
     (s.copyOf 0 (2 ^ 56 / 128)).isSome = true) ∧
    (let w : SwapRec := { group := 9, home := 4, running := true, ends := 0, held := [] }
     w.held = [] ∧ ((swapState true).stack 0).swaps.find? (fun w => w.group == 9 && w.running) = some w ∧
     ((swapState true).stack 0).remapOf 9 = Remap.reset 9 ∧ decide (0 < assocGet 9 0 ((swapState true).stack 0).pins) = false ∧ ¬ remapBase ≤ 9 * 65536) := by
  decide

theorem wit_FirmwareTables_settled : Settled State.reset 0x1000 1224 ∧ Settled State.reset (0x1000 + 256 * 4) 256 ∧
    Settled State.reset.placeContext 0x30100 16 ∧ Settled State.reset 0x1000 512 ∧
    State.reset.handleOf 0 0 = none ∧ (∀ g, ((State.reset.stack 0).remapOf g).res = 0) :=
  ⟨Or.inl rfl, Or.inl rfl, Or.inl rfl, Or.inl rfl, by decide, fun _ => rfl⟩

theorem wit_NetworkCommands_quiet : (netState id).isQuiet netA.ref = true ∧ (netState fun x => { x with inside := [token 1 3 0] }).isQuiet netA.ref = false := by decide

/-! ### Witnesses: the codec and the step -/

theorem wit_CodecAgrees : (let i := Instr.sel 0 0 7 8 9; i.wf = true ∧ i.slotMap = some .s ∧ decodeWord .s 0x040E8495 = .ok i ∧ 0x040E8495 < 2 ^ 32) := by decide

theorem wit_StepRuns_sched : (let s : State := { State.reset with sched := [(0, .snapshotCommit)] }
    nextMove s = .sched 0 .snapshotCommit ∧ nextMove (s.take 0 .snapshotCommit) = .tick) := by decide

theorem wit_StepRuns_event : nextMove selState = .event (.bundleDispatch 0) := by decide

/-- A running core whose L queue holds an `LDS`. -/
def issuing : State := (regs id).updCore 0 fun c =>
  { c with cyc := 5, disp := true, queue := [{ State.reset.act.entry with slot := .l, instr := .lds 0 0 0 3 5 3 0 0 }] }

/-- The MBXWRITE cell of R312's example: header, target word, value. -/
def mbxCell : RingCell := { ringCell (peerOf 0) 256 196 13 0 0
  (leBytes 8 0x0000100B00000007 ++ leBytes 8 0x0000000001030000 ++ leBytes 8 0x48) with src := 256, dir := 0, ring := 0, lvl := 1, vc := 0 }

/-- A package at whose command port a cell stands. -/
def porting : State := { State.reset with fw := { Fw.reset with port := [(0, mbxCell)] } }

theorem wit_StepRuns_command : nextMove porting = .command 0 mbxCell ∧ CellHolds mbxCell (.mbxwrite ⟨256, 7⟩ 0x1030000 0x48) := by
  refine ⟨by decide, by decide, ?_⟩
  have h : nbits (commandHeader mbxCell) 32 8 = 11 := by decide
  have hq : commandFrom mbxCell = ⟨256, 7⟩ := by decide
  have h0 : paramAt mbxCell 0 = 0x1030000 := by decide
  have h1 : paramAt mbxCell 1 = 0x48 := by decide
  simp [h, hq, h0, h1]

/-- R312: the completion header's low doubleword of that command. -/
theorem test_mbxwrite_cell : (match runCommand mbxCell (porting.updCore 0 fun c => c.updCtx 0 fun x => { x with st := .ready }) with
    | .next t => t.outbox.map (fun o => match o with | .cell c => leNat (c.payload.take 8) | _ => 0) | _ => []) = [0x0000000B00000007] := by
  decide

theorem wit_StepRuns_issue : (match nextMove issuing with | .issue 0 _ => true | _ => false) = true := by decide

theorem wit_MemoryInvariant : MemInv State.reset ∧ step State.reset = .next State.reset.tick := ⟨by unfold MemInv; decide, rfl⟩
/-! ### Single steps: values by hand from the spec's rules -/

/-- The kinds of the results that a word leaves due. -/
def dueOf (i : Instr) (s : State) : Option (List FKind) := got i s fun t => t.myCore.flights.map Flight.kind

/-- The registers named `a`, `b` hold these values. -/
def two (x y : Nat) : State := regs fun a => (a.setS 4 (BitVec.ofNat 64 x)).setS 5 (BitVec.ofNat 64 y)

/-- R140: modulo 2^64, two's complement, shift counts modulo 64. -/
theorem test_scalar_wraps : got (.addi 0 0 3 0 0xFFF) State.reset (fun t => t.getS 3) = some (BitVec.allOnes 64) ∧
    got (.sub 0 0 3 4 5) (two 1 2) (fun t => t.getS 3) = some (BitVec.allOnes 64) ∧
    got (.sar 0 0 3 4 5) (two (2 ^ 63) 65) (fun t => t.getS 3) = some (BitVec.ofNat 64 (3 * 2 ^ 62)) ∧
    got (.min 0 0 3 4 5) (two (2 ^ 63) 1) (fun t => t.getS 3) = some (BitVec.ofNat 64 (2 ^ 63)) ∧
    got (.minu 0 0 3 4 5) (two (2 ^ 63) 1) (fun t => t.getS 3) = some 1 := by decide

/-- R140: counts; R138: `s0` stays 0. -/
theorem test_scalar_counts : got (.clz 0 0 3 4) (two 1 0) (fun t => t.getS 3) = some 63 ∧
    got (.clz 0 0 3 5) (two 1 0) (fun t => t.getS 3) = some 64 ∧ got (.popc 0 0 3 4) (two 0xF0F 0) (fun t => t.getS 3) = some 8 ∧
    got (.addi 0 0 0 0 5) State.reset (fun t => t.getS 0) = some 0 := by decide

/-- R140: division truncates, by zero gives all ones, the remainder the dividend. -/
theorem test_divide : dueOf (.div 0 0 3 4 5) (two (2 ^ 64 - 7) 2) = some [.sreg 3 (BitVec.ofNat 64 (2 ^ 64 - 3))] ∧
    dueOf (.rem 0 0 3 4 5) (two (2 ^ 64 - 7) 2) = some [.sreg 3 (BitVec.ofNat 64 (2 ^ 64 - 1))] ∧
    dueOf (.divu 0 0 3 4 5) (two 9 0) = some [.sreg 3 (BitVec.allOnes 64)] ∧ dueOf (.rem 0 0 3 4 5) (two 9 0) = some [.sreg 3 9] := by decide

/-- R140: the high halves of products. -/
theorem test_multiply_high : dueOf (.mulh 0 0 3 4 5) (two (2 ^ 64 - 1) (2 ^ 64 - 1)) = some [.sreg 3 0] ∧
    dueOf (.mulhu 0 0 3 4 5) (two (2 ^ 64 - 1) (2 ^ 64 - 1)) = some [.sreg 3 (BitVec.ofNat 64 (2 ^ 64 - 2))] := by decide

/-- R141, R142: immediates and bit fields; the source of `BFI` is also its destination. -/
theorem test_fields : got (.lims 0 0 4 5) (two 1 0) (fun t => t.getS 4) = some (BitVec.ofNat 64 (2 ^ 17 + 5)) ∧
    got (.lim 0 0 3 0x1FFFF) State.reset (fun t => t.getS 3) = some (BitVec.allOnes 64) ∧
    got (.bfx 0 0 3 4 4 7) (two 0xABC 0) (fun t => t.getS 3) = some 0xAB ∧
    got (.bfi 0 0 4 4 8 7) (two 0x12 0) (fun t => t.getS 4) = some 0x1212 := by decide

/-- R144: signed against unsigned order; R138: `p0` stays true. -/
theorem test_compare : got (.cmp 0 0 5 2 4 5) (two (2 ^ 63) 1) (fun t => t.getP 5) = some true ∧
    got (.cmp 0 0 5 4 4 5) (two (2 ^ 63) 1) (fun t => t.getP 5) = some false ∧
    got (.cmpi 0 0 5 0 4 0xFFF) (two (2 ^ 64 - 1) 0) (fun t => t.getP 5) = some true ∧
    got (.pnot 0 0 0 0) State.reset (fun t => t.getP 0) = some true := by decide

/-- R68: a word whose predicate reads false does nothing. -/
theorem test_predicate_false : got (.addi 0 5 3 0 5) State.reset (fun t => t.getS 3) = some 0 := by decide

/-- R146, R147: offsets count words from the header; `CALL` leaves the address after its bundle. -/
theorem test_transfer : (let s := one fun x => { x with arch := { x.arch with pc := 0x108 } }
    let s : State := { s with act := { s.act with entry := { s.act.entry with pc := 0x100, hdr := 1 } } }
    got (.br 0 0 0x3FFFFE) s (fun t => t.arch.pc) = some 0xF8 ∧
    got (.call 0 0 4) s (fun t => (t.arch.pc, t.getS 31)) = some (0x110, 0x108)) := by decide

/-- R148: a trap requested by software. -/
theorem test_trap : got (.trap 0 0 0x1FFFF) (regs fun a => { a with csr := { a.csr with trapvec := 0x400 } })
    (fun t => (t.arch.pc, t.arch.csr.trapcause, t.arch.csr.trapval)) = some (0x400, 1, 0x1FFFF) := by decide

/-- R149: a loop of trip count 0 passes its body over. -/
theorem test_loop : got (.loop 0 0 2 4 2) (two 0 0) (fun t => (t.arch.skip, t.arch.loops.length)) = some (3, 0) ∧
    got (.loop 0 0 2 4 2) (two 7 0) (fun t => (t.arch.skip, t.arch.loops.map LoopRec.trip)) = some (0, [7]) ∧
    got (.loop 0 0 2 4 2) (regs fun a => { a with loops := [{ open5 with lv := 2 }] }) (fun t => t.me.faults.map Pending.cause) = some [22] := by
  decide

/-- R157, R158: a read-only number keeps its value, a writable one its reserved bits. -/
theorem test_csr : got (.csrw 0 0 4 0x100) (two (2 ^ 64 - 1) 0) (fun t => t.csrRead 0x100 == (two 0 0).csrRead 0x100) = some true := by decide

/-- R341: an over-committed pool; a queue of depth 1 in place of one with rows. -/
theorem test_queues : got (.qcfg 0 0 1 1 0) (rows2 1 2) (fun t => ((t.arch.queue 1).rows.length, (t.arch.queue 1).depth)) = some (0, 1) ∧
    got (.qcfg 0 0 1 255 2) (one fun x => { x with bnd := some { placedBind with pool := 1 } }) (fun t => t.me.faults.map Pending.cause) = some [] ∧
    got (.qrel 0 0 30) State.reset (fun t => t.me.faults.map Pending.cause) = some [17] := by decide

/-- R169: a bound of 0 and one of 2^32 + 1. -/
theorem test_stream : got (.adim 0 0 1 5 4 0 6) (two 8 0) (fun t => t.me.faults.map Pending.cause) = some [17] ∧
    got (.adim 0 0 1 5 4 5 2) (two 8 (2 ^ 32)) (fun t => ((streamOf t 1).dims[5].stride, (streamOf t 1).dims[5].bind)) = some (8, 2) := by decide

/-- R170: a mailbox written and read. -/
theorem test_mailbox : got (.mbxw 0 0 4 7) (two 9 0) (fun t => t.arch.mb[7]) = some 9 := by decide

/-- R172: a word received leaves the queue. -/
theorem test_channel : got (.chrd 0 0 3 7) (bound7 fun c => { c with recv := [4, 5] }) (fun t => (t.getS 3, (t.me.chan 7).recv)) = some (4, [5]) := by
  decide

/-- R233: a lane of 32 bits wraps and carries nothing into the next. -/
theorem test_lanes : dueOf (.viadd 0 0 0 0 3 0 1 0 2) (rows2 0x1FFFFFFFF 1) = some [.push 3 0x100000000 0] := by decide

/-- R182: a scratchpad load of one byte. -/
theorem test_scratchpad_load : (let s : State := { running State.reset .l 0x10 0 with mem := writeBytes (spAddr 0 0x13) [0xAB] [] }
    dueOf (.lds 0 0 0 3 6 0 0 3) s) = some [.sreg 3 0xAB] := by decide

/-- R205: `MZER` leaves code 0 of E4M3; R219: a chain of one array is none. -/
theorem test_array : got (.mzer 0 0) (running (rows2 1 2) .m 0 0) (fun t => (t.myCore.active.ty, t.myCore.shadow.w == List.replicate 64 0)) = some (5, true) ∧
    got (.mchn 0 0 9) (running (rows2 1 2) .m 1 0) (fun t => t.myCore.chainN) = some 0 := by decide

/-- R240: `KSET` fills its entries with one value. -/
theorem test_scale : (got (.kset 0 0 2 5 1) (running State.reset .k 7 0) fun t => t.myCore.flights.map fun f =>
    match f.kind with | .scale k e _ _ => (k, e.count, lane 32 0 e.data, lane 32 1 e.data, lane 32 2 e.data) | _ => (0, 0, 0, 0, 0)) =
    some [(2, 2, 7, 7, 0)] := by decide

/-- R209: a mask of one ply is no mask. -/
theorem test_ply : got (.plyUpdate 0 1 .droop) State.reset (fun t => (t.core 0).ply) = some 15 ∧
    got (.plyUpdate 0 3 .droop) State.reset (fun t => (t.core 0).ply) = some 3 ∧
    got (.plyFailure 0 2) State.reset (fun t => ((t.core 0).ply, (t.core 0).failed)) = some (0b1011, 0b0100) := by decide

/-- R293: the first token of a counter takes base + wire, and the count rises. -/
theorem test_counter : got (.takeReturn ⟨(token 6 3 197), true⟩) (netState id) (fun t => (t.nets.map fun x => x.cnt.getD 3 0)) = some [1] := by decide

/-- R193: an addition at home that wraps, the old value in the answer. -/
theorem test_atomic : (let c := cellTo 5 192 0x1000 9 (leBytes 1 0 ++ leBytes 7 8 ++ leBytes 8 0 ++ leBytes 8 3 ++ leBytes 8 0)
    got (.atomicRequest c true) { State.reset with mem := writeBytes 0x1000 (leBytes 8 (2 ^ 64 - 1)) [] } fun t => memNat t 0x1000 8) = some 2 := by decide

/-- R311, R312: what IDENT, POWERCAP and ARBSET leave. -/
theorem test_firmware : got (.powercap hostA 1199 0 0) State.reset (fun t => t.fw.limit) = some 3600 ∧
    got (.powercap hostA 1200 1 2) State.reset (fun t => (t.fw.limit, t.fw.wt, t.fw.wd)) = some (1200, 1, 2) ∧
    got (.flagset hostA 3 0x11) State.reset (fun t => (t.core 3).flgNew) = some 0x11 := by decide

/-- R395: each sample is a second. -/
theorem test_lifetime : got (.lifetimeSample [] []) State.reset (fun t => t.life.sram.secs) = some 1 := by decide

end Sys2Proof.Tests
end

section
/-!
PROOF. What leaves memory alone: of each operation of the model that does not write memory, that memory is the same after
it. The laws stand in the order of the model.
-/

namespace Sys2Proof.Machine

/-- A choice of states holds the memory chosen. -/
@[simp] theorem mem_ite (c : Prop) [Decidable c] (s t : State) : (if c then s else t).mem = if c then s.mem else t.mem :=
  apply_ite State.mem c s t

/-- A fold of changes that each leave memory alone leaves memory alone. -/
theorem foldl_mem {α : Type} {f : State → α → State} (hf : ∀ s x, (f s x).mem = s.mem) (l : List α) (s : State) :
    (l.foldl f s).mem = s.mem := by
  induction l generalizing s with
  | nil => rfl
  | cons x r ih => rw [List.foldl_cons, ih, hf]

/-! ### State and effects -/

@[simp] theorem State.onArchAt_mem (s : State) (n k seq f) : (s.onArchAt n k seq f).mem = s.mem := rfl
@[simp] theorem State.setS_mem (s : State) (r v) : (s.setS r v).mem = s.mem := rfl
@[simp] theorem State.setP_mem (s : State) (r v) : (s.setP r v).mem = s.mem := rfl
@[simp] theorem State.block_mem (s : State) (c) : (s.block c).mem = s.mem := rfl
@[simp] theorem State.raiseAt_mem (s : State) (n k seq slot cause val) : (s.raiseAt n k seq slot cause val).mem = s.mem := rfl
@[simp] theorem State.raise_mem (s : State) (cause val) : (s.raise cause val).mem = s.mem := rfl
@[simp] theorem State.raiseWord_mem (s : State) (cause) : (s.raiseWord cause).mem = s.mem := rfl
@[simp] theorem State.raiseAsync_mem (s : State) (n k cause val) : (s.raiseAsync n k cause val).mem = s.mem := rfl
@[simp] theorem State.transfer_mem (s : State) (target) : (s.transfer target).mem = s.mem := rfl
@[simp] theorem State.undo_mem (s : State) (n k b) : (s.undo n k b).mem = s.mem := rfl
@[simp] theorem State.laterAcq_mem (s : State) (lat acq kd) : (s.laterAcq lat acq kd).mem = s.mem := rfl
@[simp] theorem State.later_mem (s : State) (lat kd) : (s.later lat kd).mem = s.mem := rfl
@[simp] theorem State.sendFor_mem (s : State) (o t cls weight dst m) : (s.sendFor o t cls weight dst m).mem = s.mem := by
  unfold State.sendFor; split <;> rfl
@[simp] theorem State.send_mem (s : State) (t cls weight dst m) : (s.send t cls weight dst m).mem = s.mem := by simp [State.send]
@[simp] theorem State.sendFrom_mem (s : State) (n k dst m) : (s.sendFrom n k dst m).mem = s.mem := by simp [State.sendFrom]
@[simp] theorem State.sendMine_mem (s : State) (dst m) : (s.sendMine dst m).mem = s.mem := by simp [State.sendMine]
@[simp] theorem State.arriveCell_mem (s : State) (d c) : (s.arriveCell d c).mem = s.mem := by
  unfold State.arriveCell; split <;> simp
@[simp] theorem State.crossed_mem (s : State) (t c) : (s.crossed t c).mem = s.mem := rfl
@[simp] theorem State.complete_mem (s : State) (q cmd st res data) : (s.complete q cmd st res data).mem = s.mem := rfl
@[simp] theorem State.notice_mem (s : State) (cmd res) : (s.notice cmd res).mem = s.mem := by unfold State.notice; split <;> rfl
@[simp] theorem State.freeVal_mem (s : State) : s.freeVal.2.mem = s.mem := rfl
@[simp] theorem State.lifeCount_mem (s : State) (region entry) : (s.lifeCount region entry).mem = s.mem := rfl
@[simp] theorem State.lifeLog_mem (s : State) (val code ply pcn peer) : (s.lifeLog val code ply pcn peer).mem = s.mem := by
  simp [State.lifeLog]

@[simp] theorem State.fabricNotice_mem (s : State) (event dir lvl by_ at_) :
    (s.fabricNotice event dir lvl by_ at_).mem = s.mem := by
  simp [State.fabricNotice]

@[simp] theorem State.removedHere_mem (s : State) (c) : (s.removedHere c).mem = s.mem := by simp [State.removedHere]
@[simp] theorem State.refuse_mem (s : State) (c) : (s.refuse c).mem = s.mem := by simp [State.refuse]

/-! ### Operands -/

@[simp] theorem State.src_mem (s : State) (pk q w) : (s.src pk q w).2.mem = s.mem := by
  unfold State.src
  dsimp only
  repeat' split
  all_goals simp

/-- The checks of an issuing word leave memory alone where the word does. -/
theorem State.issueChecked_mem {f : State → State} (hf : ∀ s, (f s).mem = s.mem) (s : State) (bad i rows) :
    (s.issueChecked bad i rows f).mem = s.mem := by simp [State.issueChecked, hf]

@[simp] theorem State.popK_mem (s : State) (k) : (s.popK k).2.mem = s.mem := rfl
@[simp] theorem State.standK_mem (s : State) (k) : (s.standK k).2.mem = s.mem := rfl

/-! ### Control -/

@[simp] theorem State.delay3_mem (s : State) : s.delay3.mem = s.mem := rfl

@[simp] theorem State.sendMbr_mem (s : State) (n k inc l) : (s.sendMbr n k inc l).mem = s.mem := by
  induction l generalizing s with
  | nil => rfl
  | cons x r ih => simp [State.sendMbr, ih]

/-! ### Vector words -/

@[simp] theorem State.pushLater_mem (s : State) (lat d x) : (s.pushLater lat d x).mem = s.mem := rfl
@[simp] theorem vec1_mem (s : State) (w lb lat d j a g) : (vec1 w lb lat d j a g s).mem = s.mem := by simp [vec1]
@[simp] theorem vec2_mem (s : State) (w lb lat d j a k b g) : (vec2 w lb lat d j a k b g s).mem = s.mem := by simp [vec2]
@[simp] theorem vec3_mem (s : State) (w lb lat d j a k b g) : (vec3 w lb lat d j a k b g s).mem = s.mem := by simp [vec3]
@[simp] theorem vecMask_mem (s : State) (w lb m j a k b g) : (vecMask w lb m j a k b g s).mem = s.mem := by simp [vecMask]
@[simp] theorem convert_mem (s : State) (w lat t d j a st x y) : (convert w lat t d j a st x y s).mem = s.mem := by simp [convert]
@[simp] theorem moveLanes_mem (s : State) (w t d j a g) : (moveLanes w t d j a g s).mem = s.mem := by simp [moveLanes]
@[simp] theorem twoRows_mem (s : State) (w t d j a k b g) : (twoRows w t d j a k b g s).mem = s.mem := by simp [twoRows]

/-! ### Special functions -/

@[simp] theorem xfun_mem (s : State) (w t d j a g) : (xfun w t d j a g s).mem = s.mem := by simp [xfun]

/-! ### Matrix engine -/

@[simp] theorem State.activation_mem (s : State) (q bits) : (s.activation q bits).2.mem = s.mem := by
  unfold State.activation
  repeat' split
  all_goals simp

@[simp] theorem State.forward_mem (s : State) (row) : (s.forward row).mem = s.mem := rfl

@[simp] theorem State.enterRow_mem (s : State) (opc q t acc) : (s.enterRow opc q t acc).mem = s.mem := by
  unfold State.enterRow
  repeat' split
  all_goals simp

@[simp] theorem State.countSkip_mem (s : State) (n q c) : (s.countSkip n q c).mem = s.mem := rfl
@[simp] theorem State.govChange_mem (s : State) (n old) : (s.govChange n old).mem = s.mem := by
  unfold State.govChange; split <;> rfl

@[simp] theorem State.lose_mem (s : State) (n v active shadow) : (s.lose n v active shadow).mem = s.mem := by
  unfold State.lose
  refine (foldl_mem (fun s k => ?_) _ _).trans (State.setCore_mem ..)
  split <;> simp

/-! ### Caches and home -/

@[simp] theorem State.changeL1_mem (s : State) (t line but f) : (s.changeL1 t line but f).mem = s.mem := rfl
@[simp] theorem State.dropWords_mem (s : State) (t line m) : (s.dropWords t line m).mem = s.mem := by
  unfold State.dropWords; split <;> rfl
@[simp] theorem State.setCopy_mem (s : State) (t c) : (s.setCopy t c).mem = s.mem := rfl
@[simp] theorem State.scheduleSwap_mem (s : State) (t g k) : (s.scheduleSwap t g k).mem = s.mem := by
  unfold State.scheduleSwap; split <;> rfl

@[simp] theorem State.noteFill_mem (s : State) (line) : (s.noteFill line).mem = s.mem := by
  unfold State.noteFill
  dsimp only
  repeat' split
  all_goals simp

@[simp] theorem State.slotMade_mem (s : State) (line wr) : (s.slotMade line wr).mem = s.mem := by simp [State.slotMade]
@[simp] theorem State.askRemap_mem (s : State) (line) : (s.askRemap line).mem = s.mem := by unfold State.askRemap; split <;> simp

@[simp] theorem State.slotAccess_mem (s : State) (line wr) : (s.slotAccess line wr).mem = s.mem := by
  unfold State.slotAccess
  dsimp only
  split <;> simp

@[simp] theorem State.request_mem (s : State) (o t cls weight dst kd mk) : (s.request o t cls weight dst kd mk).mem = s.mem := by
  simp [State.request]
@[simp] theorem State.ask_mem (s : State) (t b a ty kd l) : (s.ask t b a ty kd l).mem = s.mem := by simp [State.ask]
@[simp] theorem State.farWrite_mem (s : State) (n k b a l) : (s.farWrite n k b a l).mem = s.mem := by simp [State.farWrite]
@[simp] theorem State.farWords_mem (s : State) (t b l m) : (s.farWords t b l m).mem = s.mem := by simp [State.farWords]
@[simp] theorem State.farNarrow_mem (s : State) (n k b a l) : (s.farNarrow n k b a l).mem = s.mem := by simp [State.farNarrow]
@[simp] theorem State.farFill_mem (s : State) (n k b line) : (s.farFill n k b line).mem = s.mem := by simp [State.farFill]
@[simp] theorem State.farRead_mem (s : State) (n k b id line) : (s.farRead n k b id line).mem = s.mem := by simp [State.farRead]
@[simp] theorem State.farTable_mem (s : State) (t asn line) : (s.farTable t asn line).mem = s.mem := by simp [State.farTable]
@[simp] theorem State.cleanL1_mem (s : State) (t line m) : (s.cleanL1 t line m).mem = s.mem := rfl
@[simp] theorem State.acquire_mem (s : State) (t scope) : (s.acquire t scope).mem = s.mem := by
  unfold State.acquire; split <;> rfl
@[simp] theorem State.fillLine_mem (s : State) (t line l) : (s.fillLine t line l).mem = s.mem := rfl
@[simp] theorem State.settlePin_mem (s : State) (t g) : (s.settlePin t g).mem = s.mem := by simp [State.settlePin]
@[simp] theorem State.pinExtent_mem (s : State) (t up l n) : (s.pinExtent t up l n).mem = s.mem := by
  simp [State.pinExtent, foldl_mem]

/-! ### Loads -/

@[simp] theorem State.cachePage_mem (s : State) (n asn p) : (s.cachePage n asn p).mem = s.mem := by
  unfold State.cachePage; split <;> rfl
@[simp] theorem State.cacheLeaf_mem (s : State) (n asn page) : (s.cacheLeaf n asn page).mem = s.mem := by simp [State.cacheLeaf]
@[simp] theorem State.startHandle_mem (s : State) (car fs acq) : (s.startHandle car fs acq).mem = s.mem := rfl
@[simp] theorem State.spPoison_mem (s : State) (a n) : (s.spPoison a n).mem = s.mem := by unfold State.spPoison; split <;> rfl

@[simp] theorem State.landAll_mem (s : State) (lat l) : (s.landAll lat l).mem = s.mem := by
  induction l generalizing s with
  | nil => rfl
  | cons x r ih => simp [State.landAll, ih]

@[simp] theorem State.retAll_mem (s : State) (d acq l) : (s.retAll d acq l).mem = s.mem := by
  induction l generalizing s with
  | zero => rfl
  | succ x ih => simp [State.retAll, ih]

/-! ### Stores -/

@[simp] theorem State.hold_mem (s : State) (rows need car places) : (s.hold rows need car places).mem = s.mem := rfl
@[simp] theorem State.returnTo_mem (s : State) (n k e d reg v acq) : (s.returnTo n k e d reg v acq).mem = s.mem := rfl
@[simp] theorem State.askTo_mem (s : State) (n k e a reg acq l) : (s.askTo n k e a reg acq l).mem = s.mem := by simp [State.askTo]
@[simp] theorem State.handCommand_mem (s : State) (n k h cls) : (s.handCommand n k h cls).mem = s.mem := rfl
@[simp] theorem State.sendToken_mem (s : State) (o t w dst c i) : (s.sendToken o t w dst c i).mem = s.mem := by
  simp [State.sendToken]

@[simp] theorem State.performTake_mem (s : State) (n k e reg net) : (s.performTake n k e reg net).mem = s.mem := by
  unfold State.performTake
  dsimp only
  split <;> simp

@[simp] theorem State.notify_mem (s : State) (n b a) : (s.notify n b a).mem = s.mem := by
  rw [State.notify, State.sendFor_mem, foldl_mem]
  simp

/-! ### System words -/

@[simp] theorem State.csrWrite_mem (s : State) (n v) : (s.csrWrite n v).mem = s.mem := by simp [State.csrWrite]
@[simp] theorem State.askAgent_mem (s : State) (op psi q spec primer) : (s.askAgent op psi q spec primer).mem = s.mem := rfl
@[simp] theorem State.blockOn_mem (s : State) (rd e) : (s.blockOn rd e).mem = s.mem := rfl
@[simp] theorem State.ackTo_mem (s : State) (e b) : (s.ackTo e b).mem = s.mem := by simp [State.ackTo]

@[simp] theorem State.sendWord_mem (s : State) (n k e v) : (s.sendWord n k e v).mem = s.mem := by
  unfold State.sendWord
  dsimp only
  split <;> simp

@[simp] theorem State.enter_mem (s : State) (i instr raw cap ports orig held run) :
    (s.enter i instr raw cap ports orig held run).mem = s.mem :=
  rfl

@[simp] theorem State.repeats_mem (s : State) (l) : (s.repeats l).mem = s.mem := by
  induction l generalizing s with
  | nil => rfl
  | cons x r ih => unfold State.repeats; split <;> simp [ih]

/-! ### Traps -/

@[simp] theorem State.undoAll_mem (s : State) (n k b) : (s.undoAll n k b).mem = s.mem := rfl
@[simp] theorem State.escalate_mem (s : State) (n k why pw) : (s.escalate n k why pw).mem = s.mem := rfl

@[simp] theorem State.takeTrap_mem (s : State) (n k tpc slot cause val fault) :
    (s.takeTrap n k tpc slot cause val fault).mem = s.mem := by
  simp [State.takeTrap]

@[simp] theorem State.askFrame_mem (s : State) (asn page plane) : (s.askFrame asn page plane).mem = s.mem := by
  unfold State.askFrame; split <;> rfl
@[simp] theorem State.pagingStop_mem (s : State) (n k seq page plane) : (s.pagingStop n k seq page plane).mem = s.mem := rfl

/-! ### Results -/

@[simp] theorem State.setVstat_mem (s : State) (n f fl) : (s.setVstat n f fl).mem = s.mem := by simp [State.setVstat]
@[simp] theorem State.pushRow_mem (s : State) (n f q x wait) : (s.pushRow n f q x wait).mem = s.mem := rfl
@[simp] theorem State.pushScale_mem (s : State) (n f q e) : (s.pushScale n f q e).mem = s.mem := rfl
@[simp] theorem State.acquired_mem (s : State) (n f) : (s.acquired n f).mem = s.mem := by unfold State.acquired; split <;> simp
@[simp] theorem State.deliver_mem (s : State) (n f) : (s.deliver n f).mem = s.mem := by unfold State.deliver; split <;> simp
@[simp] theorem State.pushAbsent_mem (s : State) (n f) : (s.pushAbsent n f).mem = s.mem := by
  unfold State.pushAbsent; split <;> rfl
@[simp] theorem State.fillAbsent_mem (s : State) (n f) : (s.fillAbsent n f).mem = s.mem := rfl
@[simp] theorem State.arrive_mem (s : State) (n f) : (s.arrive n f).mem = s.mem := by unfold State.arrive; split <;> simp

@[simp] theorem State.supply_mem (s : State) (n i p lat id row) : (s.supply n i p lat id row).mem = s.mem := by
  unfold State.supply
  repeat' split
  all_goals simp

@[simp] theorem State.supplyAll_mem (s : State) (n i p ids rows lat) : (s.supplyAll n i p ids rows lat).mem = s.mem := by
  induction ids generalizing s rows lat with
  | nil => cases rows <;> rfl
  | cons id r ih =>
    cases rows with
    | nil => rfl
    | cons x xs => unfold State.supplyAll; rw [ih, State.supply_mem]

@[simp] theorem State.askLine_mem (s : State) (n k b id past line) : (s.askLine n k b id past line).mem = s.mem := by
  simp [State.askLine]
@[simp] theorem State.passedBy_mem (s : State) (n f sp) : (s.passedBy n f sp).mem = s.mem := by
  simp [State.passedBy, foldl_mem]
@[simp] theorem State.passT_mem (s : State) (n f fs p) : (s.passT n f fs p).mem = s.mem := rfl

@[simp] theorem State.voidFlights_mem (s : State) (n fs) : (s.voidFlights n fs).mem = s.mem := by
  refine foldl_mem (fun s id => ?_) fs s
  split <;> simp

@[simp] theorem State.metRefusals_mem (s : State) (n k l) : (s.metRefusals n k l).mem = s.mem := by simp [State.metRefusals]
@[simp] theorem State.pinFrame_mem (s : State) (up f) : (s.pinFrame up f).mem = s.mem := by simp [State.pinFrame]
@[simp] theorem State.dropFrame_mem (s : State) (f) : (s.dropFrame f).mem = s.mem := by simp [State.dropFrame]
@[simp] theorem State.keepFrame_mem (s : State) (f) : (s.keepFrame f).mem = s.mem := by simp [State.keepFrame]

@[simp] theorem State.meetFrame_mem (s : State) (asn p) : (s.meetFrame asn p).mem = s.mem := by
  unfold State.meetFrame
  dsimp only
  repeat' split
  all_goals simp

@[simp] theorem State.translated_mem (s : State) (n asn l) : (s.translated n asn l).mem = s.mem := by
  simp [State.translated, foldl_mem]
@[simp] theorem State.dropTabs_mem (s : State) (asn) : (s.dropTabs asn).mem = s.mem := rfl
@[simp] theorem State.dropKeys_mem (s : State) (is) : (s.dropKeys is).mem = s.mem := rfl
@[simp] theorem State.dropEntry_mem (s : State) (asn page plane) : (s.dropEntry asn page plane).mem = s.mem := rfl
@[simp] theorem State.wakeStops_mem (s : State) (asn page plane refused) : (s.wakeStops asn page plane refused).mem = s.mem := rfl

/-- A frame allocated is only noted: no byte of memory changes. -/
theorem State.allocate_mem {s : State} {entry size tier r} (e : s.allocate entry size tier = some r) : r.2.mem = s.mem := by
  unfold State.allocate at e
  extract_lets new at e
  have hnew {s : State} (e : new s = some r) : r.2.mem = s.mem := by
    obtain ⟨a, -, rfl⟩ := Option.map_eq_some_iff.1 e
    exact State.keepFrame_mem ..
  split at e
  · split at e
    · cases e; rfl
    · exact (hnew e).trans (State.dropFrame_mem ..)
  · exact hnew e

@[simp] theorem State.forget_mem (s : State) (a n) : (s.forget a n).mem = s.mem := rfl
@[simp] theorem State.endStops_mem (s : State) (asn i q) : (s.endStops asn i q).mem = s.mem :=
  foldl_mem (fun s _ => State.wakeStops_mem s ..) _ s
@[simp] theorem State.dropPlane_mem (s : State) (asn q) : (s.dropPlane asn q).mem = s.mem := rfl
@[simp] theorem State.answered_mem (s : State) (n k) : (s.answered n k).mem = s.mem := rfl
@[simp] theorem State.planeAgain_mem (s : State) (n k) : (s.planeAgain n k).mem = s.mem := rfl

/-! ### Front end -/

@[simp] theorem State.passOver_mem (s : State) (n k fuel) : (s.passOver n k fuel).1.mem = s.mem := by
  induction fuel generalizing s with
  | zero => rfl
  | succ fuel ih =>
    unfold State.passOver
    dsimp only
    split
    · split_ifs <;> simp [ih]
    · rfl

@[simp] theorem State.trapBundle_mem (s : State) (n k pc hdr) : (s.trapBundle n k pc hdr).1.mem = s.mem := by
  unfold State.trapBundle
  dsimp only
  split <;> simp

@[simp] theorem State.dispatchFault_mem (s : State) (n k pc hdr slot cause val) :
    (s.dispatchFault n k pc hdr slot cause val).mem = s.mem := by
  simp [State.dispatchFault]

@[simp] theorem State.endMRun_mem (s : State) (n k) : (s.endMRun n k).mem = s.mem := rfl
@[simp] theorem State.dispatchWord_mem (s : State) (b w i) : (s.dispatchWord b w i).mem = s.mem := by simp [State.dispatchWord]

@[simp] theorem State.dispatchWords_mem (s : State) (b l) : (s.dispatchWords b l).mem = s.mem := by
  induction l generalizing s with
  | nil => rfl
  | cons x r ih => simp [State.dispatchWords, ih]

@[simp] theorem State.settleFront_mem (s : State) : s.settleFront.mem = s.mem := rfl
@[simp] theorem State.dispatch_mem (s : State) (n k b) : (s.dispatch n k b).mem = s.mem := by simp [State.dispatch]

@[simp] theorem State.faultyDispatch_mem (s : State) (n k b slot l) : (s.faultyDispatch n k b slot l).mem = s.mem := by
  unfold State.faultyDispatch
  dsimp only
  split <;> simp [foldl_mem fun s _ => State.raiseAt_mem s ..]

@[simp] theorem State.presentBundle_mem (s : State) (n k pc hdr ws) : (s.presentBundle n k pc hdr ws).mem = s.mem := by
  unfold State.presentBundle
  dsimp only
  repeat' split
  all_goals simp

/-! ### Save and restore -/

@[simp] theorem State.finishDrop_mem (s : State) (q cmd st res data drop) :
    (s.finishDrop q cmd st res data drop).mem = s.mem := by
  unfold State.finishDrop; split <;> rfl

@[simp] theorem State.finish_mem (s : State) (q cmd st res data) : (s.finish q cmd st res data).mem = s.mem := by
  simp [State.finish]
@[simp] theorem State.waitAgain_mem (s : State) (i) : (s.waitAgain i).mem = s.mem := rfl
@[simp] theorem State.endLaunches_mem (s : State) : s.endLaunches.mem = s.mem := rfl

@[simp] theorem State.endContext_mem (s : State) (n k) : (s.endContext n k).mem = s.mem := by
  unfold State.endContext
  dsimp only
  split <;> simp

@[simp] theorem State.sendSpill_mem (s : State) (n k e) : (s.sendSpill n k e).mem = s.mem := by simp [State.sendSpill, foldl_mem]
@[simp] theorem State.tell_mem (s : State) (n k peer) : (s.tell n k peer).mem = s.mem := by unfold State.tell; split <;> rfl

@[simp] theorem State.breakChannels_mem (s : State) (n k) : (s.breakChannels n k).mem = s.mem := by
  unfold State.breakChannels
  dsimp only
  rw [foldl_mem (fun s b => by simp), foldl_mem (fun s e => by simp)]

@[simp] theorem State.breakDomains_mem (s : State) (n k l) : (s.breakDomains n k l).mem = s.mem := by
  induction l generalizing s with
  | nil => rfl
  | cons x r ih => simp [State.breakDomains, ih]

@[simp] theorem State.passDrop_mem (s : State) (t w g x) : (s.passDrop t w g x).mem = s.mem := by
  unfold State.passDrop; split <;> simp
@[simp] theorem State.sendDrops_mem (s : State) (c) : (s.sendDrops c).mem = s.mem := by unfold State.sendDrops; split <;> simp

@[simp] theorem State.dropCommands_mem (s : State) (n k) : (s.dropCommands n k).mem = s.mem := by
  unfold State.dropCommands
  dsimp only
  rw [State.updCtx_mem, foldl_mem State.sendDrops_mem, foldl_mem fun s _ => State.handCommand_mem s ..]

@[simp] theorem State.killCtx_mem (s : State) (n k) : (s.killCtx n k).mem = s.mem := by
  unfold State.killCtx
  dsimp only
  split <;> simp

@[simp] theorem State.notifyFault_mem (s : State) (n k area e) : (s.notifyFault n k area e).mem = s.mem := by
  unfold State.notifyFault; split <;> rfl

@[simp] theorem State.savedDone_mem (s : State) (n k late) : (s.savedDone n k late).mem = s.mem := by
  refine foldl_mem (fun s w => ?_) _ _
  split <;> simp

/-! ### Domains -/

@[simp] theorem State.updDom_mem (s : State) (o f) : (s.updDom o f).mem = s.mem := rfl
@[simp] theorem State.fromDom_mem (s : State) (o peer i) : (s.fromDom o peer i).mem = s.mem := by simp [State.fromDom]
@[simp] theorem State.releaseOwn_mem (s : State) (o ph n k) : (s.releaseOwn o ph n k).mem = s.mem := by
  unfold State.releaseOwn; split <;> simp

@[simp] theorem State.releaseAll_mem (s : State) (o ph l) : (s.releaseAll o ph l).mem = s.mem := by
  induction l generalizing s with
  | nil => rfl
  | cons x r ih => simp [State.releaseAll, ih]

@[simp] theorem State.settleDom_mem (s : State) (o) : (s.settleDom o).mem = s.mem := by unfold State.settleDom; split <;> simp
@[simp] theorem State.tellBroken_mem (s : State) (o why lvl w) : (s.tellBroken o why lvl w).mem = s.mem := by
  simp [State.tellBroken]
@[simp] theorem State.incDone_mem (s : State) (n k) : (s.incDone n k).mem = s.mem := rfl
@[simp] theorem State.breakDom_mem (s : State) (o why) : (s.breakDom o why).mem = s.mem := by
  unfold State.breakDom; split <;> simp [foldl_mem]
@[simp] theorem State.noticeDone_mem (s : State) (why p) : (s.noticeDone why p).mem = s.mem := rfl
@[simp] theorem State.updChan_mem (s : State) (e f) : (s.updChan e f).mem = s.mem := rfl
@[simp] theorem State.chanWake_mem (s : State) (e) : (s.chanWake e).mem = s.mem := rfl
@[simp] theorem State.breakEnd_mem (s : State) (e why) : (s.breakEnd e why).mem = s.mem := by
  unfold State.breakEnd; split <;> simp

@[simp] theorem State.sendProbe_mem (s : State) (n k p hops stamp) : (s.sendProbe n k p hops stamp).mem = s.mem := by
  unfold State.sendProbe
  repeat' split
  all_goals simp

/-! ### Counting networks -/

@[simp] theorem State.dropReq_mem (s : State) (tag) : (s.dropReq tag).mem = s.mem := rfl
@[simp] theorem State.scalarCame_mem (s : State) (n id v) : (s.scalarCame n id v).mem = s.mem := rfl
@[simp] theorem State.updNet_mem (s : State) (d f) : (s.updNet d f).mem = s.mem := rfl
@[simp] theorem State.sendReturn_mem (s : State) (c num failed) : (s.sendReturn c num failed).mem = s.mem := by
  simp [State.sendReturn]

@[simp] theorem State.failTokens_mem (s : State) (d l) : (s.failTokens d l).mem = s.mem := by
  induction l generalizing s with
  | nil => rfl
  | cons x r ih => simp [State.failTokens, ih]

@[simp] theorem State.flushNet_mem (s : State) (d) : (s.flushNet d).mem = s.mem := by unfold State.flushNet; split <;> simp
@[simp] theorem State.failNet_mem (s : State) (d) : (s.failNet d).mem = s.mem := by unfold State.failNet; split <;> simp
@[simp] theorem State.quietIf_mem (s : State) (d) : (s.quietIf d).mem = s.mem := by unfold State.quietIf; split <;> simp

@[simp] theorem State.numberCame_mem (s : State) (c) : (s.numberCame c).mem = s.mem := by
  unfold State.numberCame
  repeat' split
  all_goals simp

@[simp] theorem State.enterInside_mem (s : State) (l) : (s.enterInside l).mem = s.mem := by
  induction l generalizing s with
  | nil => rfl
  | cons x r ih => simp [State.enterInside, ih]

@[simp] theorem State.ready_mem (s : State) : s.ready.mem = s.mem := by unfold State.ready; split <;> rfl
@[simp] theorem State.boot_mem (s : State) : s.boot.mem = s.mem := by simp [State.boot]
@[simp] theorem State.failAway_mem (s : State) (d) : (s.failAway d).mem = s.mem := by
  unfold State.failAway; split <;> simp [foldl_mem]
@[simp] theorem State.waitNet_mem (s : State) (d w) : (s.waitNet d w).mem = s.mem := by unfold State.waitNet; split <;> rfl

/-! ### Copy, gather and collectives -/

@[simp] theorem State.updCmd_mem (s : State) (id f) : (s.updCmd id f).mem = s.mem := rfl

@[simp] theorem State.arrivals_mem (s : State) (a n) : (s.arrivals a n).mem = s.mem := by
  unfold State.arrivals
  split
  · rfl
  · exact foldl_mem (fun s w => by simp) _ s

@[simp] theorem State.engAsk_mem (s : State) (c a ty du kd l) : (s.engAsk c a ty du kd l).mem = s.mem := by simp [State.engAsk]
@[simp] theorem State.engineFail_mem (s : State) (c kind side low) : (s.engineFail c kind side low).mem = s.mem := rfl
@[simp] theorem State.engFetch_mem (s : State) (c line) : (s.engFetch c line).mem = s.mem := by simp [State.engFetch]
@[simp] theorem State.engineStop_mem (s : State) (c page plane) : (s.engineStop c page plane).mem = s.mem := by
  simp [State.engineStop]
@[simp] theorem State.engineMeets_mem (s : State) (c side e) : (s.engineMeets c side e).mem = s.mem := by
  unfold State.engineMeets; split <;> simp
@[simp] theorem State.updJob_mem (s : State) (id f) : (s.updJob id f).mem = s.mem := rfl

@[simp] theorem State.sendChunk_mem (s : State) (c j dst chunk step idx l) :
    (s.sendChunk c j dst chunk step idx l).mem = s.mem := by
  simp [State.sendChunk]

@[simp] theorem State.sendCells_mem (s : State) (c j dst chunk step l) : (s.sendCells c j dst chunk step l).mem = s.mem := by
  simp [State.sendCells, foldl_mem]
@[simp] theorem State.sendBroadcast_mem (s : State) (c j k i l) : (s.sendBroadcast c j k i l).mem = s.mem := by
  simp [State.sendBroadcast]
@[simp] theorem State.sendStatus_mem (s : State) (c j dst rank stat) : (s.sendStatus c j dst rank stat).mem = s.mem := by
  simp [State.sendStatus]
@[simp] theorem State.dropOthers_mem (s : State) (c j rank mark) : (s.dropOthers c j rank mark).mem = s.mem := by
  simp [State.dropOthers]
@[simp] theorem State.endColl_mem (s : State) (c kind rank) : (s.endColl c kind rank).mem = s.mem := rfl
@[simp] theorem State.breakGroup_mem (s : State) (g rank) : (s.breakGroup g rank).mem = s.mem := rfl
@[simp] theorem State.failColl_mem (s : State) (c j kind) : (s.failColl c j kind).mem = s.mem := by simp [State.failColl]
@[simp] theorem State.collMeets_mem (s : State) (c j e) : (s.collMeets c j e).mem = s.mem := by
  unfold State.collMeets; split <;> simp
@[simp] theorem State.quitColl_mem (s : State) (c j kind rank) : (s.quitColl c j kind rank).mem = s.mem := by
  unfold State.quitColl; split <;> rfl
@[simp] theorem State.takeChunk_mem (s : State) (c j x) : (s.takeChunk c j x).mem = s.mem := by simp [State.takeChunk]
@[simp] theorem State.takeBroadcast_mem (s : State) (c j x) : (s.takeBroadcast c j x).mem = s.mem := by
  unfold State.takeBroadcast; split <;> rfl
@[simp] theorem State.takeStatus_mem (s : State) (c j x) : (s.takeStatus c j x).mem = s.mem := by simp [State.takeStatus]
@[simp] theorem State.takeColl_mem (s : State) (c j0 x) : (s.takeColl c j0 x).mem = s.mem := by simp [State.takeColl]

@[simp] theorem State.collCell_mem (s : State) (t x) : (s.collCell t x).mem = s.mem := by
  unfold State.collCell
  dsimp only
  repeat' split
  all_goals simp

@[simp] theorem State.collAt_mem (s : State) (x room) : (s.collAt x room).mem = s.mem := by simp [State.collAt]

@[simp] theorem State.takeEarly_mem (s : State) (id l) : (s.takeEarly id l).mem = s.mem := by
  induction l generalizing s with
  | nil => rfl
  | cons x r ih =>
    unfold State.takeEarly
    repeat' split
    all_goals simp [ih]

@[simp] theorem State.readAfresh_mem (s : State) (id) : (s.readAfresh id).mem = s.mem := rfl
@[simp] theorem State.firstCells_mem (s : State) (c j) : (s.firstCells c j).mem = s.mem := by
  unfold State.firstCells; split <;> simp [foldl_mem]

/-! ### Fabric -/

@[simp] theorem State.reinsert_mem (s : State) (t c) : (s.reinsert t c).mem = s.mem := by simp [State.reinsert]
@[simp] theorem State.reply_mem (s : State) (c ty l) : (s.reply c ty l).mem = s.mem := by simp [State.reply]
@[simp] theorem State.handLine_mem (s : State) (t n line bad l) : (s.handLine t n line bad l).mem = s.mem := rfl
@[simp] theorem State.cameBy_mem (s : State) (n id line bad l) : (s.cameBy n id line bad l).mem = s.mem := by
  unfold State.cameBy; split <;> rfl
@[simp] theorem State.tabCame_mem (s : State) (asn line bad l) : (s.tabCame asn line bad l).mem = s.mem := rfl
@[simp] theorem State.goOn_mem (s : State) (c pos) : (s.goOn c pos).mem = s.mem := by unfold State.goOn; split <;> rfl
@[simp] theorem State.spread_mem (s : State) (c) : (s.spread c).mem = s.mem := rfl
@[simp] theorem State.again_mem (s : State) (c) : (s.again c).mem = s.mem := by unfold State.again; split <;> rfl
@[simp] theorem State.dataLost_mem (s : State) (id off) : (s.dataLost id off).mem = s.mem := by
  unfold State.dataLost; split <;> rfl
@[simp] theorem State.breakPeerChannels_mem (s : State) (p) : (s.breakPeerChannels p).mem = s.mem := rfl

@[simp] theorem State.breakPeerWaits_mem (s : State) (p) : (s.breakPeerWaits p).mem = s.mem := by
  refine foldl_mem (fun s c => ?_) _ s
  split <;> simp

@[simp] theorem State.breakPeerDoms_mem (s : State) (p) : (s.breakPeerDoms p).mem = s.mem := by
  simp [State.breakPeerDoms, foldl_mem]

@[simp] theorem State.dropMember_mem (s : State) (p) : (s.dropMember p).mem = s.mem := by
  refine foldl_mem (fun s g => ?_) _ s
  refine (foldl_mem (fun s t => ?_) _ _).trans (State.breakGroup_mem ..)
  split
  · split <;> simp
  · rfl

@[simp] theorem State.setSeg_mem (s : State) (x) : (s.setSeg x).mem = s.mem := rfl

/-! ### Errors -/

@[simp] theorem State.countError_mem (s : State) (stack t u) : (s.countError stack t u).mem = s.mem := rfl

@[simp] theorem State.damaged_mem (s : State) (n k) : (s.damaged n k).mem = s.mem := by
  unfold State.damaged
  dsimp only
  repeat' split
  all_goals simp

@[simp] theorem State.loseCopies_mem (s : State) (line) : (s.loseCopies line).mem = s.mem :=
  foldl_mem (fun s t => by simp) _ s
@[simp] theorem State.nextSwap_mem (s : State) (t) : (s.nextSwap t).mem = s.mem := by unfold State.nextSwap; split <;> rfl
@[simp] theorem State.swapEnds_mem (s : State) (t g held) : (s.swapEnds t g held).mem = s.mem := by
  simp [State.swapEnds, foldl_mem]

/-! ### Lifetime record -/

@[simp] theorem State.sampleAll_mem (s : State) (region bin i l) : (s.sampleAll region bin i l).mem = s.mem := by
  induction l generalizing s i with
  | nil => rfl
  | cons v r ih => rw [State.sampleAll, ih, State.lifeCount_mem]

@[simp] theorem State.lifeSample_mem (s : State) (temps volts) : (s.lifeSample temps volts).mem = s.mem := by
  simp [State.lifeSample]
@[simp] theorem State.sampleNow_mem (s : State) : s.sampleNow.mem = s.mem := by
  rw [State.sampleNow, State.lifeSample_mem]

/-! ### Firmware -/

@[simp] theorem State.dropSpace_mem (s : State) (asn) : (s.dropSpace asn).mem = s.mem := rfl
@[simp] theorem State.updSpace_mem (s : State) (asn f) : (s.updSpace asn f).mem = s.mem := rfl

@[simp] theorem State.joinUnit_mem (s : State) (l lv n u) : (s.joinUnit l lv n u).1.mem = s.mem := by
  unfold State.joinUnit
  repeat' split
  all_goals simp

@[simp] theorem State.joinUnits_mem (s : State) (a l n u lvs) : (s.joinUnits a l n u lvs).1.mem = s.mem := by
  induction lvs generalizing s u with
  | nil => rfl
  | cons lv r ih => unfold State.joinUnits; split <;> simp [ih]

@[simp] theorem State.fabricDom_mem (s : State) (a l) : (s.fabricDom a l).mem = s.mem := by
  unfold State.fabricDom
  dsimp only
  repeat' split
  all_goals simp

@[simp] theorem State.holdNets_mem (s : State) : s.holdNets.mem = s.mem := rfl

/-! ### Issue -/

@[simp] theorem State.freeze_mem (s : State) (n id) : (s.freeze n id).mem = s.mem := rfl
@[simp] theorem State.issueStart_mem (s : State) (n e) : (s.issueStart n e).mem = s.mem := rfl
@[simp] theorem State.rest_mem (s : State) : s.rest.mem = s.mem := rfl
@[simp] theorem State.keepFaults_mem (s : State) (t) : (s.keepFaults t).mem = s.mem := rfl

/-- After an S word of a bundle, memory is that of the word, or that before it where the word only ran for its faults. -/
theorem State.afterSword_mem (s t : State) : (s.afterSword t).mem = if s.act.dry then s.mem else t.mem := by
  simp [State.afterSword]

/-! ### The end of a cycle -/

@[simp] theorem State.take_mem (s : State) (t i) : (s.take t i).mem = s.mem := rfl
@[simp] theorem State.takeCell_mem (s : State) (t c) : (s.takeCell t c).mem = s.mem := rfl
@[simp] theorem State.popFor_mem (s : State) (n e q w) : (s.popFor n e q w).2.mem = s.mem := by simp [State.popFor]

@[simp] theorem State.popT_mem (s : State) (n) : (s.popT n).mem = s.mem := by
  unfold State.popT
  dsimp only
  split <;> simp

@[simp] theorem State.popX_mem (s : State) (n) : (s.popX n).mem = s.mem := by
  unfold State.popX
  dsimp only
  split <;> simp

@[simp] theorem State.popW_mem (s : State) (n) : (s.popW n).mem = s.mem := by
  unfold State.popW
  dsimp only
  split <;> simp

@[simp] theorem State.wakeBlocked_mem (s : State) (n k) : (s.wakeBlocked n k).mem = s.mem := by
  unfold State.wakeBlocked; split <;> simp

@[simp] theorem State.tickCore_mem (s : State) (n) : (s.tickCore n).mem = s.mem := by
  unfold State.tickCore
  repeat' split
  all_goals simp

@[simp] theorem State.finishKills_mem (s : State) : s.finishKills.mem = s.mem := by
  refine foldl_mem (fun s w => ?_) _ _
  split <;> simp

@[simp] theorem State.countRefused_mem (s : State) : s.countRefused.mem = s.mem := by simp [State.countRefused]

@[simp] theorem State.actLate_mem (s : State) (n k) : (s.actLate n k).mem = s.mem := by
  unfold State.actLate
  dsimp only
  repeat' split
  all_goals simp

@[simp] theorem State.giveUp_mem (s : State) (n k) : (s.giveUp n k).mem = s.mem := by simp [State.giveUp]

@[simp] theorem State.deliverCell_mem (s : State) (t i) : (s.deliverCell t i).mem = s.mem := by
  unfold State.deliverCell
  repeat' split
  all_goals simp

@[simp] theorem State.injectAt_mem (s : State) (t) : (s.injectAt t).mem = s.mem := by
  unfold State.injectAt
  dsimp only
  repeat' split
  all_goals simp

@[simp] theorem State.periodic_mem (s : State) : s.periodic.mem = s.mem := by simp [State.periodic]
@[simp] theorem State.countBase_mem (s : State) : s.countBase.mem = s.mem := by unfold State.countBase; split <;> rfl

/-! ### Placed words -/

@[simp] theorem State.noSword_mem (s : State) : s.noSword.mem = s.mem := rfl

end Sys2Proof.Machine
end

section
/-!
PROOF. What writes memory keeps its canonical form (R3, R40, R195): each operation that comes to `State.store`, or that
empties memory, leaves it in that form where it was so before. The laws stand in the order of the model.
-/

namespace Sys2Proof.Machine

/-- A choice between memories of canonical form has it. -/
@[simp] theorem wf_ite (c : Prop) [Decidable c] (l m : List Host.Cell) :
    Memory.wf (if c then l else m) = if c then Memory.wf l else Memory.wf m := apply_ite Memory.wf c l m

/-- A fold of changes that each keep the canonical form of memory keeps it. -/
theorem foldl_wf {α : Type} {f : State → α → State} (hf : ∀ s x, Memory.wf s.mem = true → Memory.wf (f s x).mem = true)
    (l : List α) {s : State} (h : Memory.wf s.mem = true) : Memory.wf (l.foldl f s).mem = true := by
  induction l generalizing s with
  | nil => exact h
  | cons x r ih => exact ih (hf s x h)

/-- The state that a supply leaves. -/
def Supplied.state : Supplied → State
  | .done _ s => s
  | .again s => s

@[simp] theorem State.cleared_wf (s : State) : Memory.wf s.cleared.mem = true := rfl

@[simp] theorem State.finishReset_wf (s : State) (q) : Memory.wf (s.finishReset q).mem = true := by simp [State.finishReset]

set_option maxRecDepth 2000 in
/-- One placement: the core that the window gives takes it, or none does. -/
theorem State.placeAll_succ (s : State) (a q l k i u) : s.placeAll a q l (k + 1) i u =
    (let x := s.advance a l 3072 s.fw.cursor s.fw.taken
    let win := s.window a l x.1 x.2
    match s.pick win s.fw.skips with
    | none => (s, u)
    | some p =>
      let skips := win.foldl (fun t n => assocSet n (if n = p then 0 else assocGet n 0 t + 1) t) s.fw.skips
      let s1 : State := { s with fw := { s.fw with
        skips := skips, cursor := if p = x.1 then (x.1 + 1) % 1536 else x.1, taken := if p = x.1 then x.2 else x.2 ++ [p] } }
      let y := s1.place a q l i p u
      y.1.placeAll a q l k (i + 1) y.2) := rfl

section

variable {s : State} (h : Memory.wf s.mem = true)
include h

/-! ### Caches and home -/

@[simp] theorem State.storeWords_wf (l m) : Memory.wf (s.storeWords l m).mem = true := by
  have hs := foldl_wf (fun s w hs => store_wf s (l.line * 128 + 4 * w) ((List.range 4).map fun i => l.byte (4 * w + i)) hs)
    (maskWords m) h
  unfold State.storeWords
  dsimp only
  split
  · exact h
  · split <;> exact hs

@[simp] theorem State.flushOwn_wf (a n) : Memory.wf (s.flushOwn a n).mem = true := by
  refine foldl_wf (fun s line hs => ?_) _ h
  rw [State.dropWords_mem]
  split <;> simp [hs]

@[simp] theorem State.homePut_wf (a l) : Memory.wf (s.homePut a l).mem = true := by
  unfold State.homePut
  dsimp only
  split
  · simp [h]
  · exact store_wf _ a l (by simp [h])

@[simp] theorem State.writeBack_wf (t b l m) : Memory.wf (s.writeBack t b l m).mem = true := by simp [State.writeBack, h]

@[simp] theorem State.recall_wf (t b a n) : Memory.wf (s.recall t b a n).mem = true := by
  unfold State.recall
  split
  · exact h
  · refine foldl_wf (fun s line hs => ?_) _ h
    rw [State.dropWords_mem]
    split <;> simp [hs]

@[simp] theorem State.writeBackOf_wf (t b a n) : Memory.wf (s.writeBackOf t b a n).mem = true := by
  refine foldl_wf (fun s line hs => ?_) _ h
  split <;> simp [hs]

@[simp] theorem State.release_wf (t b scope) : Memory.wf (s.release t b scope).mem = true :=
  foldl_wf (fun s l hs => by simp [hs]) _ h

@[simp] theorem State.writeBackAll_wf (t b) : Memory.wf (s.writeBackAll t b).mem = true :=
  foldl_wf (fun _ l hs => State.writeBack_wf hs t b l _) _ h

@[simp] theorem State.l2Evict_wf (t b line) : Memory.wf (s.l2Evict t b line).mem = true := by
  unfold State.l2Evict; split <;> simp [h]

@[simp] theorem State.l2Touch_wf (t b line wr) : Memory.wf (s.l2Touch t b line wr).mem = true := by
  unfold State.l2Touch
  dsimp only
  repeat' split
  all_goals simp [h]

@[simp] theorem State.homeAccess_wf (line wr) : Memory.wf (s.homeAccess line wr).mem = true := by simp [State.homeAccess, h]

@[simp] theorem State.l1Evict_wf (c line b) : Memory.wf (s.l1Evict c line b).mem = true := by
  unfold State.l1Evict
  dsimp only
  split <;> simp [h]

@[simp] theorem State.l1Take_wf (n b line valid dirty) : Memory.wf (s.l1Take n b line valid dirty).mem = true := by
  unfold State.l1Take
  dsimp only
  repeat' split
  all_goals simp [h]

@[simp] theorem State.setFused_wf (n fused) : Memory.wf (s.setFused n fused).mem = true := by
  unfold State.setFused
  split
  · exact h
  · exact foldl_wf (fun s l hs => State.l1Evict_wf hs ..) _ h

@[simp] theorem State.putChunk_wf (n k b a l) : Memory.wf (s.putChunk n k b a l).mem = true := by
  unfold State.putChunk
  dsimp only
  split
  · refine State.l1Take_wf ?_ ..
    rw [State.changeL1_mem, State.setCopy_mem]
    exact h
  · split
    · exact State.homePut_wf h a l
    · split <;> simp [h]

@[simp] theorem State.putChunks_wf (n k b fuel a l) : Memory.wf (s.putChunks n k b fuel a l).mem = true := by
  induction fuel generalizing s a l with
  | zero => exact h
  | succ fuel ih =>
    unfold State.putChunks
    split
    · exact h
    · exact ih (State.putChunk_wf h ..) ..

@[simp] theorem State.putHome_wf (n k b a l) : Memory.wf (s.putHome n k b a l).mem = true := by
  unfold State.putHome
  split
  · exact State.homePut_wf h a l
  · exact foldl_wf (fun s line hs => by simp [hs]) _ h

@[simp] theorem State.putPlain_wf (n k b a l) : Memory.wf (s.putPlain n k b a l).mem = true := by simp [State.putPlain, h]

/-! ### Loads -/

@[simp] theorem State.walkPage_wf (t asn page qs) : Memory.wf (s.walkPage t asn page qs).2.mem = true := by
  unfold State.walkPage
  dsimp only
  split
  · exact h
  · split
    · exact h
    · exact foldl_wf (fun s l hs => State.homeAccess_wf hs l false) _ h

@[simp] theorem State.walkPages_wf (t asn l) : Memory.wf (s.walkPages t asn l).2.mem = true := by
  induction l generalizing s with
  | nil => exact h
  | cons k r ih => exact ih (State.walkPage_wf h ..)

@[simp] theorem State.translateTime_wf (n asn l) : Memory.wf (s.translateTime n asn l).2.mem = true := by
  unfold State.translateTime
  dsimp only
  split
  · exact h
  · split
    · exact h
    · exact foldl_wf (fun s p hs => foldl_wf (fun s l hs => State.homeAccess_wf hs l false) _ hs) _ (State.walkPages_wf h ..)

@[simp] theorem State.startCheck_wf (car fs acq) : Memory.wf (s.startCheck car fs acq).mem = true := by
  simp [State.startCheck, h]

/-! ### Stores -/

@[simp] theorem State.holdChecked_wf (rows need car) : Memory.wf (s.holdChecked rows need car).mem = true := by
  simp [State.holdChecked, h]

@[simp] theorem State.putBits_wf (n k b a m v) : Memory.wf (s.putBits n k b a m v).mem = true := by simp [State.putBits, h]

@[simp] theorem State.putElems_wf (n k b thru l) : Memory.wf (s.putElems n k b thru l).mem = true := by
  unfold State.putElems
  refine foldl_wf (fun s x hs => State.putBits_wf hs ..) _ (foldl_wf (fun s r hs => ?_) _ h)
  split <;> simp [hs]

@[simp] theorem State.performAtom_wf (n k e op reg o a) : Memory.wf (s.performAtom n k e op reg o a).mem = true := by
  simp [State.performAtom, h]

@[simp] theorem State.performRedv_wf (n k e op r x) : Memory.wf (s.performRedv n k e op r x).mem = true := by
  unfold State.performRedv
  dsimp only
  split
  · split <;> simp [h]
  · exact foldl_wf (fun s p hs => foldl_wf (fun s c hs => by simp [hs]) _ hs) _ h

@[simp] theorem State.armWord_wf (n a tgt flag) : Memory.wf (s.armWord n a tgt flag).mem = true := by
  unfold State.armWord
  rw [State.updCore_mem]
  exact State.homePut_wf h _ _

@[simp] theorem State.performStore_wf (n k w) : Memory.wf (s.performStore n k w).mem = true := by
  have rows (b thru p) : Memory.wf ((w.values p).foldl (fun s l => s.putElems n k b thru l) s).mem = true :=
    foldl_wf (fun s l hs => State.putElems_wf hs ..) _ h
  unfold State.performStore
  dsimp only
  split
  case h_1 | h_2 => exact foldl_wf (fun s r hs => State.homePut_wf hs ..) _ h
  case h_3 | h_4 =>
    split
    · exact rows ..
    · split
      · split <;> simp [h]
      · exact h
  case h_5 => split <;> simp [h]
  case h_6 => exact foldl_wf (fun s m hs => State.performRedv_wf hs ..) _ h
  case h_12 => exact rows ..
  all_goals simp [h]

@[simp] theorem State.storeTouch_wf (n b l) : Memory.wf (s.storeTouch n b l).mem = true :=
  foldl_wf (fun s x hs => by simp [hs]) _ h

theorem State.performHead_wf {t : State} {n k w} (e : s.performHead n k w = some t) : Memory.wf t.mem = true := by
  have hr (l : List (Nat × Nat)) (b : By) : Memory.wf (l.foldl (fun s r => s.recall (stackOf n) b r.1 r.2) s).mem = true :=
    foldl_wf (fun s r hs => State.recall_wf hs ..) l h
  unfold State.performHead at e
  dsimp only at e
  repeat' split at e
  all_goals cases e
  all_goals simp [h, hr, foldl_mem]

@[simp] theorem State.pump_wf (n k fuel) : Memory.wf (s.pump n k fuel).mem = true := by
  induction fuel generalizing s with
  | zero => exact h
  | succ fuel ih =>
    unfold State.pump
    split
    · exact h
    · split
      · exact h
      · next s1 e => exact ih (State.performHead_wf h e)

/-! ### Scale words -/

@[simp] theorem State.kRead_wf (q n tag) : Memory.wf (s.kRead q n tag).mem = true := by simp [State.kRead, h]

/-! ### Results -/

@[simp] theorem State.touchLine_wf (n k f b came sp line) : Memory.wf (s.touchLine n k f b came sp line).mem = true := by
  simp [State.touchLine, h]

@[simp] theorem State.finishRead_wf (n k f e fs came p) : Memory.wf (s.finishRead n k f e fs came p).mem = true := by
  unfold State.finishRead
  dsimp only
  split
  · have hs := foldl_wf (fun s l hs => State.touchLine_wf hs n k f (e.by_ n) came p.spans l) (linesIn p.spans) h
    split <;> simp [hs]
  · rw [foldl_mem fun s x => State.askLine_mem s ..]
    exact h

theorem State.finishColl_wf (n k f e fs came p) {st : State → Nat → State}
    (hst : ∀ s i, (st s i).mem = s.mem) : Memory.wf (s.finishColl n k f e fs came p st).mem = true := by
  unfold State.finishColl
  dsimp only
  split
  · have hs (p : Places) := foldl_wf (fun s l hs => State.touchLine_wf hs n k f (e.by_ n) came p.spans l) (linesIn p.spans) h
    split <;> simp [hst, hs]
  · rw [foldl_mem fun s x => State.askLine_mem s .., hst]
    exact h

@[simp] theorem State.passCheck_wf (n k f e car fs stage p) : Memory.wf (s.passCheck n k f e car fs stage p).mem = true := by
  unfold State.passCheck
  extract_lets setStage sp
  have hset (s : State) (i : Nat) : (setStage s i).mem = s.mem := State.updCore_mem ..
  split
  · split
    · split
      · simp [h]
      · split
        · simp [hset, h]
        · exact State.finishColl_wf h n k f e fs (stage == 4) p hset
    · simp [h]
  · split
    · simp [hset, h]
    · next s1 _ _ =>
      have h1 : Memory.wf s1.mem = true := by
        unfold s1
        split
        · exact foldl_wf (fun s r hs => by simp [hs]) sp (by simp [hset, h])
        · exact h
      split
      · simp [hset, h1]
      · beta_reduce
        split <;> simp [hset, h1]

@[simp] theorem State.checkFlight_wf (n f e car fs) : Memory.wf (s.checkFlight n f e car fs).mem = true := by
  unfold State.checkFlight
  dsimp only
  split <;> simp [h]

@[simp] theorem State.fwPut_wf (a l) : Memory.wf (s.fwPut a l).mem = true := by
  unfold State.fwPut
  split
  · exact State.homePut_wf (foldl_wf (fun s x hs => State.homeAccess_wf hs x true) _ h) a l
  · exact foldl_wf (fun s line hs => by simp [hs]) _ h

@[simp] theorem State.supplyStep_wf (r) : Memory.wf (s.supplyStep r).state.mem = true := by
  unfold State.supplyStep
  split
  · exact h
  · split
    · simpa [Supplied.state] using h
    · exact h
    · split
      · exact h
      · split
        · exact h
        · split
          · exact h
          · next f s1 e =>
            have h1 : Memory.wf s1.mem = true := by rw [show s1.mem = s.mem from State.allocate_mem e]; exact h
            split
            · exact h1
            · extract_lets s2
              have h2 : Memory.wf s2.mem = true := by
                unfold s2
                rw [State.dropEntry_mem]
                exact State.fwPut_wf (State.fwPut_wf (by simp [h1]) _ _) _ _
              split <;> exact h2

@[simp] theorem State.supplyPage_wf (r) : Memory.wf (s.supplyPage r).mem = true := by
  have hs := State.supplyStep_wf h r
  unfold State.supplyPage
  split
  · next e => rw [e] at hs; exact hs
  · next e => rw [e] at hs; exact hs

@[simp] theorem State.reclaim_wf (l) : Memory.wf (s.reclaim l).mem = true := by
  unfold State.reclaim
  extract_lets s1 is
  have h1 : Memory.wf s1.mem = true := foldl_wf (fun s x hs => by
    rw [foldl_mem fun s f => State.dropFrame_mem s f]
    exact State.fwPut_wf hs _ _) l h
  split
  · exact h1
  · rw [State.dropKeys_mem, foldl_mem fun s a => State.dropTabs_mem s _]
    exact h1

@[simp] theorem State.applyPlane_wf (asn a op i q e0 eq spec primer l) :
    Memory.wf (s.applyPlane asn a op i q e0 eq spec primer l).mem = true := by
  unfold State.applyPlane
  extract_lets s1 cnt
  have h1 : Memory.wf s1.mem = true := State.fwPut_wf h _ _
  split <;> simp [h1]

@[simp] theorem State.planeStep_wf (n k op i q spec primer seq) :
    Memory.wf (s.planeStep n k op i q spec primer seq).mem = true := by
  unfold State.planeStep
  dsimp only
  split
  · simp [h]
  · split
    · simp [h]
    · simp [h]
    · split
      · simp [h]
      · split
        · split <;> simp [h]
        · rw [State.planeAgain_mem, foldl_mem fun s x => State.farTable_mem s ..]
          exact h
    · simp [h]

/-! ### Front end -/

@[simp] theorem State.fetched_wf (n k pc) : Memory.wf (s.fetched n k pc).mem = true := by
  unfold State.fetched
  dsimp only
  split <;> simp [h]

@[simp] theorem State.presentNext_wf (n k) : Memory.wf (s.presentNext n k).mem = true := by
  unfold State.presentNext
  dsimp only
  repeat' split
  all_goals simp [h]

@[simp] theorem State.present_wf (n) : Memory.wf (s.present n).mem = true := by
  unfold State.present; split <;> simp [h]

/-! ### Save and restore -/

@[simp] theorem State.writeArea_wf (area x v) : Memory.wf (s.writeArea area x v).mem = true := by simp [State.writeArea, h]

@[simp] theorem State.resume_wf (n k v) : Memory.wf (s.resume n k v).mem = true := by simp [State.resume, h]

@[simp] theorem State.resumeCmd_wf (q n k fpa) : Memory.wf (s.resumeCmd q n k fpa).mem = true := by
  unfold State.resumeCmd
  split
  · split
    · simp [h]
    · split
      · simp [h]
      · dsimp only
        rw [foldl_mem fun s x => State.farTable_mem s ..]
        exact h
  · simp [h]

/-! ### Counting networks -/

@[simp] theorem State.netCommand_wf (w) : Memory.wf (s.netCommand w).mem = true := by
  unfold State.netCommand
  dsimp only
  repeat' split
  all_goals simp [h]

@[simp] theorem State.settleReset_wf : Memory.wf s.settleReset.mem = true := by
  unfold State.settleReset
  split <;> simp [h]

/-! ### Copy, gather and collectives -/

@[simp] theorem State.engClear_wf (c a n) : Memory.wf (s.engClear c a n).2.mem = true := by simp [State.engClear, h]

@[simp] theorem State.sendBytes_wf (c a l) : Memory.wf (s.sendBytes c a l).mem = true := by simp [State.sendBytes, h]

theorem State.engWalk_wf {t : State} {c va} (e : s.engWalk c va = some t) : Memory.wf t.mem = true := by
  unfold State.engWalk at e
  dsimp only at e
  split at e
  · cases e
  · cases e
    simp [h]

@[simp] theorem State.engineTouch_wf (c a wr) : Memory.wf (s.engineTouch c a wr).mem = true := by simp [State.engineTouch, h]

@[simp] theorem State.engineReads_wf (c va) : Memory.wf (s.engineReads c va).mem = true := by
  unfold State.engineReads; split <;> simp [h]

@[simp] theorem State.moveChunk_wf (c sa sv dv g) : Memory.wf (s.moveChunk c sa sv dv g).mem = true := by
  unfold State.moveChunk
  dsimp only
  split
  · repeat' split
    all_goals simp [h]
  · have hx := State.engClear_wf h c (firstPlace dv) (min (engBytes sv).1.length (engPlaces dv none).1)
    split
    · rw [State.updCmd_mem]
      exact State.sendBytes_wf (State.engineTouch_wf (State.engineReads_wf hx ..) ..) ..
    · exact hx

/-- A walk of the first address or of the second, or else a chunk moved. -/
theorem State.walksOrMoves_wf {t : State} (ht : Memory.wf t.mem = true) (c sa da) :
    Memory.wf (((s.engWalk c sa).orElse fun _ => s.engWalk c da).getD t).mem = true := by
  cases e : s.engWalk c sa with
  | some s1 => exact State.engWalk_wf h e
  | none =>
    cases e : s.engWalk c da with
    | some s1 => simpa using State.engWalk_wf h e
    | none => simpa using ht

@[simp] theorem State.copyStep_wf (c) : Memory.wf (s.copyStep c).mem = true := by
  unfold State.copyStep
  dsimp only
  split
  · simp [h]
  · exact State.walksOrMoves_wf h (State.moveChunk_wf h ..) c _ _

@[simp] theorem State.gatherStep_wf (c) : Memory.wf (s.gatherStep c).mem = true := by
  have moved (sa da sv dv g) := State.walksOrMoves_wf h (State.moveChunk_wf h c sa sv dv g) c sa da
  unfold State.gatherStep
  dsimp only
  split
  · simp [h]
  · split
    · next e => exact State.engWalk_wf h e
    · split
      · simp [h]
      · split
        · simp [h]
        · split
          · exact State.engineReads_wf (moved ..) ..
          · exact moved ..

@[simp] theorem State.evalReady_wf (c j) : Memory.wf (s.evalReady c j).mem = true := by
  unfold State.evalReady
  split
  · next e => exact State.engWalk_wf h e
  · split
    · dsimp only
      split <;> simp [h]
    · simp [h]

@[simp] theorem State.collStart_wf (c j) : Memory.wf (s.collStart c j).mem = true := by
  unfold State.collStart
  dsimp only
  repeat' split
  all_goals simp [h]

@[simp] theorem State.notifyAt_wf (stack addr) : Memory.wf (s.notifyAt stack addr).mem = true := by
  unfold State.notifyAt
  repeat' split
  all_goals simp [h]

@[simp] theorem State.collLoad_wf (c j) : Memory.wf (s.collLoad c j).mem = true := by
  have touched (l : List Nat) : Memory.wf (l.foldl (fun s x => s.l2Touch c.stack By.none_ x false) s).mem = true :=
    foldl_wf (fun s x hs => State.l2Touch_wf hs ..) l h
  unfold State.collLoad
  dsimp only
  split
  · next e =>
    obtain ⟨a, -, ha⟩ := List.exists_of_findSome?_eq_some e
    exact State.engWalk_wf h ha
  · split
    · split <;> simp [touched]
    · simp [h]

@[simp] theorem State.collPut_wf (c a l) : Memory.wf (s.collPut c a l).2.mem = true := by
  unfold State.collPut
  extract_lets x
  have hx : Memory.wf x.2.mem = true := State.engClear_wf h ..
  split
  · exact hx
  · split
    · exact State.homePut_wf (by simp [hx]) a l
    · simp [hx]

@[simp] theorem State.collWrite_wf (c j va l) : Memory.wf (s.collWrite c j va l).mem = true := by
  unfold State.collWrite
  dsimp only
  split
  · next e => exact State.engWalk_wf h e
  · split
    · split <;> simp [h]
    · split <;> simp [h]

@[simp] theorem State.collStep_wf (c j) : Memory.wf (s.collStep c j).mem = true := by
  unfold State.collStep
  dsimp only
  repeat' split
  all_goals simp [h]

@[simp] theorem State.collWord_wf (c j o f phase) : Memory.wf (s.collWord c j o f phase).mem = true := by
  unfold State.collWord
  extract_lets va dv
  split
  · exact State.engWalk_wf h ‹_›
  · dsimp only
    split <;> simp [h]
  all_goals simp [h]

@[simp] theorem State.collEnd_wf (id) : Memory.wf (s.collEnd id).mem = true := by
  unfold State.collEnd
  dsimp only
  repeat' split
  all_goals simp [h]

@[simp] theorem State.runEngines_wf : Memory.wf s.runEngines.mem = true := by
  refine foldl_wf (fun s c0 hs => ?_) _ h
  split
  · exact hs
  · split
    · exact hs
    · split <;> simp [hs]

/-! ### Fabric -/

@[simp] theorem State.maskedPut_wf (a mask l) : Memory.wf (s.maskedPut a mask l).mem = true := by
  induction l generalizing s a mask with
  | nil => exact h
  | cons v r ih => exact ih (by simp [h]) ..

@[simp] theorem State.serveAtomic_wf (c) : Memory.wf (s.serveAtomic c).2.mem = true := by
  unfold State.serveAtomic
  dsimp only
  repeat' split
  all_goals simp [h]

@[simp] theorem State.lineCame_wf (t n b line bad l) : Memory.wf (s.lineCame t n b line bad l).mem = true := by
  simp [State.lineCame, h]

@[simp] theorem State.readCame_wf (kd bad l) : Memory.wf (s.readCame kd bad l).mem = true := by
  unfold State.readCame; split <;> simp [h]

@[simp] theorem State.copyCell_wf (c pos) : Memory.wf (s.copyCell c pos).mem = true := by simp [State.copyCell, h]

@[simp] theorem State.unreachable_wf (tag) : Memory.wf (s.unreachable tag).mem = true := by
  unfold State.unreachable
  dsimp only
  repeat' split
  all_goals simp [h]

@[simp] theorem State.losePeer_wf (p) : Memory.wf (s.losePeer p).mem = true := by
  unfold State.losePeer
  dsimp only
  split
  · exact h
  · simp only [State.fabricNotice_mem, State.dropMember_mem]
    refine foldl_wf (fun s d hs => by simp [hs]) _ ?_
    simp only [State.breakPeerDoms_mem, State.breakPeerWaits_mem, State.breakPeerChannels_mem]
    exact foldl_wf (fun s t hs => State.unreachable_wf hs t) _ h

/-! ### Errors -/

@[simp] theorem State.putCmp_wf (a b) : Memory.wf (s.putCmp a b).mem = true := by simp [State.putCmp, h]

@[simp] theorem State.syncCmp_wf (t g) : Memory.wf (s.syncCmp t g).mem = true :=
  foldl_wf (fun _ _ hs => State.putCmp_wf hs ..) _ h

/-! ### Firmware -/

theorem State.supplyAllPages_wf (frames asn plane pages) :
    Memory.wf (s.supplyAllPages frames asn plane pages).state.mem = true := by
  induction pages generalizing s with
  | nil => exact h
  | cons p r ih =>
    unfold State.supplyAllPages
    split
    · exact (congrArg Memory.wf (State.farTable_mem ..)).trans h
    · exact h
    · split
      · exact ih h
      · have hs := State.supplyStep_wf h (supplyFor frames asn p.1 plane)
        split
        · next e => rw [e] at hs; exact hs
        · next e => rw [e] at hs; exact hs
        · next e =>
          rw [e] at hs
          exact ih (by simpa [Supplied.state] using hs)

@[simp] theorem State.writeImage_wf (asn plane pages l) : Memory.wf (s.writeImage asn plane pages l).mem = true := by
  induction pages generalizing s l with
  | nil => exact h
  | cons p r ih =>
    unfold State.writeImage
    split
    · exact ih (State.fwPut_wf h ..) _
    · exact h

@[simp] theorem State.place_wf (a q l i n u) : Memory.wf (s.place a q l i n u).1.mem = true := by
  unfold State.place
  dsimp only
  rw [State.updCore_mem]
  exact foldl_wf (fun s j hs => State.setFused_wf hs ..) _ (by simp [h])

@[simp] theorem State.placeAll_wf (a q l k i u) : Memory.wf (s.placeAll a q l k i u).1.mem = true := by
  induction k generalizing s i u with
  | zero => exact h
  | succ k ih =>
    rw [State.placeAll_succ]
    extract_lets x win
    split
    · exact h
    · extract_lets skips s1 y
      have hy : Memory.wf y.1.mem = true := State.place_wf (show Memory.wf s1.mem = true from h) ..
      exact ih hy _ _

@[simp] theorem State.launchCmd_wf (q d0 d1 d2 d3) : Memory.wf (s.launchCmd q d0 d1 d2 d3).mem = true := by
  simp [State.launchCmd, h]

/-! ### The end of a cycle -/

@[simp] theorem State.sendArrival_wf (n k) : Memory.wf (s.sendArrival n k).mem = true := by
  unfold State.sendArrival; split <;> simp [h]

@[simp] theorem State.flushKilled_wf (n k) : Memory.wf (s.flushKilled n k).mem = true := by simp [State.flushKilled, h]

@[simp] theorem State.finishWaits_wf : Memory.wf s.finishWaits.mem = true := by
  refine foldl_wf (fun s w hs => ?_) _ h
  split
  · rw [State.complete_mem]
    split <;> simp [hs]
  all_goals simp [hs]

@[simp] theorem State.tickCtx_wf (n k) : Memory.wf (s.tickCtx n k).mem = true := by
  unfold State.tickCtx
  extract_lets s0 s1 s2
  have h0 : Memory.wf s0.mem = true := by simp [s0, h]
  have h1 : Memory.wf s1.mem = true := by unfold s1; split <;> simp [h0]
  have h2 : Memory.wf s2.mem = true := by simp [s2, h1]
  split
  · simp [h2]
  · split <;> simp [h2]

@[simp] theorem State.baseCycle_wf : Memory.wf s.baseCycle.mem = true :=
  foldl_wf (fun s t hs => by simp [hs]) _ (State.runEngines_wf h)

@[simp] theorem State.tick_wf : Memory.wf s.tick.mem = true := by
  unfold State.tick
  extract_lets ns s1 s2 s3 s4 t
  have h1 : Memory.wf s1.mem = true := foldl_wf (fun s n hs => by rw [State.tickCore_mem]; exact hs) ns h
  have h2 : Memory.wf s2.mem = true := foldl_wf (fun s n hs => foldl_wf (fun s k hs => State.tickCtx_wf hs n k) _ hs) ns h1
  have h3 : Memory.wf s3.mem = true := by simp [s3, h2]
  have h4 : Memory.wf s4.mem = true := by unfold s4; split <;> simp [h3]
  rw [State.periodic_mem]
  exact (congrArg Memory.wf (State.countBase_mem s4)).trans h4

end

end Sys2Proof.Machine
end

section
/-!
PROOF. Every instruction keeps the canonical form of memory: the words of a family by what the family shares, the others
each by the operations that it comes to.
-/

namespace Sys2Proof.Machine

/-- Where an instruction goes on, memory has the canonical form. -/
def NextWf : Host.Outcome State Fault Refusal → Prop
  | .next t => Memory.wf t.mem = true
  | _ => True

@[simp] theorem nextWf_next (t : State) : NextWf (.next t) ↔ Memory.wf t.mem = true := Iff.rfl

/-- A write taken at home, with its answer. -/
theorem State.writeAnswer_memInv {s : State} (h : MemInv s) (c : RingCell) :
    MemInv (((s.homeAccess (lineOf (cellAddr c)) true).homePut (cellAddr c) c.payload).reply c 5 []) := by
  rw [MemInv, State.reply_mem]
  exact State.homePut_wf (State.homeAccess_wf h (lineOf (cellAddr c)) true) (cellAddr c) c.payload

/-- The data of a copy or a gather taken at home, which counts as an arrival. -/
theorem State.dataAnswer_memInv {s : State} (h : MemInv s) (c : RingCell) :
    MemInv ((((s.homeAccess (lineOf (cellAddr c)) true).homePut (cellAddr c) c.payload).arrivals (cellAddr c)
      c.payload.length).reply c 5 []) := by
  rw [MemInv, State.reply_mem, State.arrivals_mem]
  exact State.homePut_wf (State.homeAccess_wf h (lineOf (cellAddr c)) true) (cellAddr c) c.payload

theorem execPowerOn_nextWf (s : State) : NextWf (execPowerOn s) := by simp [execPowerOn]

theorem execPowerLoss_nextWf (s : State) : NextWf (execPowerLoss s) := by simp [execPowerLoss]

section

variable {s : State} (h : Memory.wf s.mem = true)
include h

/-! ### Words of a family -/

/-- A scalar word that leaves memory alone keeps its form. -/
theorem sWord_nextWf {p} {f : State → State} (hf : ∀ s, (f s).mem = s.mem) : NextWf (sWord p f s) := by simp [sWord, hf, h]

theorem sSet_nextWf {p d f} : NextWf (sSet p d f s) :=
  sWord_nextWf h fun _ => State.setS_mem ..

theorem sPred_nextWf {p d f} : NextWf (sPred p d f s) :=
  sWord_nextWf h fun _ => State.setP_mem ..

theorem sSlow_nextWf {lat p d f} : NextWf (sSlow lat p d f s) :=
  sWord_nextWf h fun _ => by simp

/-- The checks of an issuing word keep the form of memory where the word does. -/
theorem State.issueChecked_wf {bad i rows} {f : State → State}
    (hf : ∀ s, Memory.wf s.mem = true → Memory.wf (f s).mem = true) : Memory.wf (s.issueChecked bad i rows f).mem = true := by
  simp [State.issueChecked, h, hf s h]

theorem tSimple_nextWf : NextWf (tSimple s) := h

theorem mPlain_nextWf {f : State → State} (hf : ∀ s, (f s).mem = s.mem) : NextWf (mPlain f s) := by simp [mPlain, hf, h]

theorem mWord_nextWf {bad i} {f : State → State} (hf : ∀ s, (f s).mem = s.mem) : NextWf (mWord bad i f s) := by
  rw [mWord, nextWf_next, State.issueChecked_mem fun s => by simp [hf]]
  simp [h]

theorem vWord_nextWf {i} {f : State → State} (hf : ∀ s, (f s).mem = s.mem) : NextWf (vWord i f s) := by
  rw [vWord, nextWf_next, State.issueChecked_mem fun s => by simp [hf]]
  exact h

theorem command_nextWf {q} {f : State → State}
    (hf : ∀ s, Memory.wf s.mem = true → Memory.wf (f s).mem = true) : NextWf (command q f s) := by
  simp [command, h, hf s h]

/-- A request taken at home keeps the form of memory where what it does there keeps it. -/
theorem takeRequest_nextWf {c room wr n} {f : State → State}
    (hf : ∀ s, MemInv s → MemInv (f s)) : NextWf (takeRequest c room wr n f s) := by
  have hs : Memory.wf (f s).mem = true := hf s h
  unfold takeRequest
  repeat' split
  all_goals simp [h, hs, NextWf]

/-! ### Scalar words -/

theorem execNopS_nextWf (hb p) : NextWf (execNopS hb p s) := by simp [execNopS, h]

/-! ### Control -/

theorem execWsel_nextWf (hb p x a b c d) : NextWf (execWsel hb p x a b c d s) := by simp [execWsel, h]

theorem execFork_nextWf (hb p a b c) : NextWf (execFork hb p a b c s) := by
  refine sWord_nextWf h fun s => ?_
  dsimp only
  repeat' split
  all_goals simp

/-! ### Matrix engine -/

theorem execMswp_nextWf (hb p) : NextWf (execMswp hb p s) := by
  refine mWord_nextWf h fun s => ?_
  split <;> simp

theorem execMchn_nextWf (hb p r) : NextWf (execMchn hb p r s) :=
  mWord_nextWf h fun s => by simp
theorem execMlwLoadStart_nextWf (n) : NextWf (execMlwLoadStart n s) := by simp [execMlwLoadStart, h]
theorem execMlwComplete_nextWf (n) : NextWf (execMlwComplete n s) := by simp [execMlwComplete, h]

theorem execMlwStarved_nextWf (n) : NextWf (execMlwStarved n s) := by
  unfold execMlwStarved
  split <;> simp [h, NextWf]

theorem execMatrixRowPush_nextWf (n) : NextWf (execMatrixRowPush n s) := by
  unfold execMatrixRowPush
  dsimp only
  split <;> simp [h, NextWf]

theorem execTandemRowArrival_nextWf (n row) : NextWf (execTandemRowArrival n row s) := by simp [execTandemRowArrival, h]

theorem execPlyUpdate_nextWf (n mask why) : NextWf (execPlyUpdate n mask why s) := by
  unfold execPlyUpdate
  dsimp only
  split
  · exact h
  · rw [nextWf_next, foldl_mem fun s q => State.countSkip_mem s ..]
    simp [h]

theorem execPlyFailure_nextWf (n ply) : NextWf (execPlyFailure n ply s) := by simp [execPlyFailure, h]
theorem execWeightParityError_nextWf (n active) : NextWf (execWeightParityError n active s) := by
  simp [execWeightParityError, h]

/-! ### Loads -/

theorem execNopL_nextWf (hb p) : NextWf (execNopL hb p s) := by simp [execNopL, h]

theorem execLdvt_nextWf (hb p m d b e) : NextWf (execLdvt hb p m d b e s) := by
  refine State.issueChecked_wf h fun s hs => ?_
  dsimp only
  split
  · simp [hs]
  · rw [foldl_mem fun s r => State.spPoison_mem s ..]
    simp [hs]

/-! ### Stores -/

theorem execNopT_nextWf (hb p) : NextWf (execNopT hb p s) := by simp [execNopT, h]
theorem execStg_nextWf (hb p m d b z o f) : NextWf (execStg hb p m d b z o f s) := by simp [execStg, h]
theorem execSigst_nextWf (hb p m d b o f) : NextWf (execSigst hb p m d b o f s) := by simp [execSigst, h]
theorem execAtom_nextWf (hb p a d b s0 o) : NextWf (execAtom hb p a d b s0 o s) := by simp [execAtom, h]
theorem execColl_nextWf (hb p a b c y x) : NextWf (execColl hb p a b c y x s) := by simp [execColl, h]
theorem execTake_nextWf (hb p a n) : NextWf (execTake hb p a n s) := by simp [execTake, h]
theorem execArrw_nextWf (hb p a b f) : NextWf (execArrw hb p a b f s) := by simp [execArrw, h]

/-! ### Scale words -/

theorem execNopK_nextWf (hb p) : NextWf (execNopK hb p s) := by simp [execNopK, h]
theorem execKld_nextWf (hb p q m b n) : NextWf (execKld hb p q m b n s) := by simp [execKld, h]
theorem execKtab_nextWf (hb p q m b) : NextWf (execKtab hb p q m b s) := by simp [execKtab, h]
theorem execKset_nextWf (hb p q b n) : NextWf (execKset hb p q b n s) := by simp [execKset, h]
theorem execKout_nextWf (hb p q m b n) : NextWf (execKout hb p q m b n s) := by simp [execKout, h]
theorem execKskp_nextWf (hb p q b n) : NextWf (execKskp hb p q b n s) := by simp [execKskp, h]
theorem execKrng_nextWf (hb p b) : NextWf (execKrng hb p b s) := by simp [execKrng, h]

/-! ### System words -/

theorem execChrd_nextWf (hb p d e) : NextWf (execChrd hb p d e s) := by
  refine sWord_nextWf h fun s => ?_
  dsimp only
  split <;> simp

theorem execIdle_nextWf (a b c d e f s0 t) : NextWf (execIdle a b c d e f s0 t s) := by simp [execIdle, h]

/-! ### Traps -/

theorem execBundleRetire_nextWf (n k) : NextWf (execBundleRetire n k s) := by
  unfold execBundleRetire
  dsimp only
  split <;> simp [h, NextWf]

theorem execFaultTaken_nextWf (n k) : NextWf (execFaultTaken n k s) := by
  unfold execFaultTaken
  dsimp only
  split <;> simp [h, NextWf]

theorem execAsyncTrapTaken_nextWf (n k) : NextWf (execAsyncTrapTaken n k s) := by
  unfold execAsyncTrapTaken
  dsimp only
  split <;> simp [h, NextWf]

theorem execQueueWaitLimit_nextWf (n k e) : NextWf (execQueueWaitLimit n k e s) := by
  unfold execQueueWaitLimit
  split <;> simp [h, NextWf]

/-! ### Results -/

theorem execPipelineResult_nextWf (n id) : NextWf (execPipelineResult n id s) := by
  unfold execPipelineResult
  split <;> simp [h, NextWf]

theorem execGlobalLoadReturn_nextWf (n id) : NextWf (execGlobalLoadReturn n id s) := by
  unfold execGlobalLoadReturn
  dsimp only
  split <;> simp [h, NextWf]

theorem execLandingPush_nextWf (n id) : NextWf (execLandingPush n id s) := by
  unfold execLandingPush
  dsimp only
  repeat' split
  all_goals simp [h, NextWf]

theorem execScalePush_nextWf (n id) : NextWf (execScalePush n id s) := by
  unfold execScalePush
  repeat' split
  all_goals simp [h, NextWf]

theorem execLandingLateArrival_nextWf (n id) : NextWf (execLandingLateArrival n id s) := by
  unfold execLandingLateArrival
  split <;> simp [h, NextWf]

theorem execFreezeTimeout_nextWf (n) : NextWf (execFreezeTimeout n s) := by
  unfold execFreezeTimeout
  dsimp only
  repeat' split
  all_goals simp [h, NextWf]

theorem execTranslationComplete_nextWf (n id) : NextWf (execTranslationComplete n id s) := by
  unfold execTranslationComplete
  split
  · exact h
  · split
    · split
      · trivial
      · simp [h]
    · simp [h]
    · simp [h]
    · exact h

theorem execPagingComplete_nextWf (r) : NextWf (execPagingComplete r s) := by simp [execPagingComplete, h]

theorem execPlaneAgentAnswer_nextWf (n k) : NextWf (execPlaneAgentAnswer n k s) := by
  unfold execPlaneAgentAnswer
  dsimp only
  split <;> simp [h, NextWf]

theorem execRqRefill_nextWf (n k) : NextWf (execRqRefill n k s) := by simp [execRqRefill, h]

theorem execSpillSpaceAllocated_nextWf (n k ep) : NextWf (execSpillSpaceAllocated n k ep s) := by
  unfold execSpillSpaceAllocated
  dsimp only
  split <;> simp [h, NextWf]

/-! ### Front end -/

theorem execBundleDispatch_nextWf (n) : NextWf (execBundleDispatch n s) := by simp [execBundleDispatch, h]
theorem execWaitBundlePresent_nextWf (n) : NextWf (execWaitBundlePresent n s) := by simp [execWaitBundlePresent, h]
theorem execContextSwitch_nextWf (n) : NextWf (execContextSwitch n s) := by simp [execContextSwitch, h]
theorem execWaitCounterRaise_nextWf (n) : NextWf (execWaitCounterRaise n s) := by simp [execWaitCounterRaise, h]
theorem execFreewheelWake_nextWf (n) : NextWf (execFreewheelWake n s) := by simp [execFreewheelWake, h]

/-! ### Save and restore -/

theorem execKill_nextWf (q target) : NextWf (execKill q target s) := by
  refine command_nextWf h fun s hs => ?_
  split
  · simp [hs]
  · split
    · simp [hs]
    · dsimp only
      rw [foldl_mem fun s c => by simp]
      exact hs

theorem execSaveComplete_nextWf (n k) : NextWf (execSaveComplete n k s) := by
  unfold execSaveComplete
  dsimp only
  repeat' split
  all_goals simp [h, NextWf]

/-! ### Domains -/

theorem execDomainArrival_nextWf (o who) : NextWf (execDomainArrival o who s) := by
  unfold execDomainArrival
  dsimp only
  repeat' split
  all_goals simp [h, NextWf]

theorem execMbrChange_nextWf (o inc who) : NextWf (execMbrChange o inc who s) := by simp [execMbrChange, h]

theorem execDomainBreakNotice_nextWf (o why) : NextWf (execDomainBreakNotice o why s) := by
  unfold execDomainBreakNotice
  dsimp only
  split
  · split <;> simp [h]
  · rw [nextWf_next, foldl_mem fun s w => State.tellBroken_mem s ..]
    simp [h]

theorem execBrokenWait_nextWf (n k status) : NextWf (execBrokenWait n k status s) := by simp [execBrokenWait, h]
theorem execChannelWord_nextWf (e num word) : NextWf (execChannelWord e num word s) := by simp [execChannelWord, h]

theorem execChannelAcknowledgement_nextWf (a) : NextWf (execChannelAcknowledgement a s) := by
  unfold execChannelAcknowledgement
  dsimp only
  repeat' split
  all_goals simp [h, NextWf]

theorem execChannelBreakNotice_nextWf (e why) : NextWf (execChannelBreakNotice e why s) := by
  simp [execChannelBreakNotice, h]
theorem execProbeSend_nextWf (n k) : NextWf (execProbeSend n k s) := by simp [execProbeSend, h]

theorem execProbeReceive_nextWf (dest pr) : NextWf (execProbeReceive dest pr s) := by
  unfold execProbeReceive
  dsimp only
  repeat' split
  all_goals simp [h, NextWf]

/-! ### Counting networks -/

theorem execTakeToken_nextWf (a) : NextWf (execTakeToken a s) := by
  unfold execTakeToken
  dsimp only
  repeat' split
  all_goals simp [h, NextWf]

theorem execTakeReturn_nextWf (a) : NextWf (execTakeReturn a s) := by
  unfold execTakeReturn
  dsimp only
  repeat' split
  all_goals simp [h, NextWf]

theorem execNetworkQuiet_nextWf (d) : NextWf (execNetworkQuiet d s) := by
  have hc (ws : List WaitCmd) (s : State) (hs : Memory.wf s.mem = true) :
      Memory.wf (ws.foldl (fun s w => s.netCommand w) s).mem = true :=
    foldl_wf (fun s w hs => State.netCommand_wf hs w) ws hs
  unfold execNetworkQuiet
  dsimp only
  rw [nextWf_next]
  split
  · exact h
  · refine State.settleReset_wf ?_
    split
    · exact hc _ _ h
    · simp only [State.enterInside_mem, State.updNet_mem]
      exact hc _ _ h

theorem execNetworkDrainTimeout_nextWf (d) : NextWf (execNetworkDrainTimeout d s) := by
  unfold execNetworkDrainTimeout
  split <;> simp [h, NextWf]

theorem execHostStationLost_nextWf (d) : NextWf (execHostStationLost d s) := by simp [execHostStationLost, h]

theorem execCnconfig_nextWf (q dom net base h0 h1) : NextWf (execCnconfig q dom net base h0 h1 s) := by
  refine command_nextWf h fun s hs => ?_
  split
  · simp [hs]
  · split <;> simp [hs]

theorem execCnsave_nextWf (q dom net fpa) : NextWf (execCnsave q dom net fpa s) := by
  refine command_nextWf h fun s hs => ?_
  split
  · simp [hs]
  · repeat' split
    all_goals simp [hs]

theorem execCnrestore_nextWf (q dom net src) : NextWf (execCnrestore q dom net src s) := by
  refine command_nextWf h fun s hs => ?_
  split
  · simp [hs]
  · split <;> simp [hs]

/-! ### Copy, gather and collectives -/

theorem execArrivalUpdate_nextWf (n addr bytes) : NextWf (execArrivalUpdate n addr bytes s) := by
  unfold execArrivalUpdate
  dsimp only
  rw [nextWf_next]
  split
  · exact h
  · split
    · rw [State.updCore_mem]
      exact State.homePut_wf h ..
    · exact State.homePut_wf h ..

theorem execCopyCommandStart_nextWf (stack cls eng) : NextWf (execCopyCommandStart stack cls eng s) := by
  unfold execCopyCommandStart
  split <;> simp [h, NextWf]

theorem execEngineCommandFail_nextWf (who value) : NextWf (execEngineCommandFail who value s) := by
  simp [execEngineCommandFail, h]
theorem execCollectiveChunk_nextWf (a) : NextWf (execCollectiveChunk a s) := by simp [execCollectiveChunk, h]
theorem execCollectiveStatus_nextWf (a) : NextWf (execCollectiveStatus a s) := by simp [execCollectiveStatus, h]
theorem execCollectiveDrop_nextWf (a) : NextWf (execCollectiveDrop a s) := by simp [execCollectiveDrop, h]

theorem execCollHead_nextWf (stack) : NextWf (execCollHead stack s) := by
  unfold execCollHead
  repeat' split
  all_goals simp [h, NextWf]

theorem execSigstNotify_nextWf (stack addr) : NextWf (execSigstNotify stack addr s) := by
  exact foldl_wf (fun s t hs => State.notifyAt_wf hs ..) _ h

theorem execCollComplete_nextWf (stack) : NextWf (execCollComplete stack s) := by
  unfold execCollComplete
  rw [nextWf_next]
  split
  · exact h
  · exact State.collEnd_wf (State.collEnd_wf (State.collEnd_wf h _) _) _

/-! ### Fabric -/

theorem execReadRequest_nextWf (c room) : NextWf (execReadRequest c room s) := by
  refine takeRequest_nextWf h fun s hs => ?_
  rw [MemInv] at hs ⊢
  simp [hs]

theorem execWrite_nextWf (c room) : NextWf (execWrite c room s) :=
  takeRequest_nextWf h fun _ hs => State.writeAnswer_memInv hs c
theorem execCopyOrGatherData_nextWf (a) : NextWf (execCopyOrGatherData a s) :=
  takeRequest_nextWf h fun _ hs => State.dataAnswer_memInv hs a.cell

theorem execByteMaskedWrite_nextWf (c room) : NextWf (execByteMaskedWrite c room s) := by
  refine takeRequest_nextWf h fun s hs => ?_
  rw [MemInv] at hs ⊢
  simp [hs]

theorem execAtomicRequest_nextWf (c room) : NextWf (execAtomicRequest c room s) := by
  refine takeRequest_nextWf h fun s hs => ?_
  rw [MemInv] at hs ⊢
  simp [hs]

theorem execReadResponse_nextWf (a) : NextWf (execReadResponse a s) := by
  unfold execReadResponse
  dsimp only
  repeat' split
  all_goals simp [h, NextWf]

theorem execWriteResponse_nextWf (a) : NextWf (execWriteResponse a s) := by
  unfold execWriteResponse
  dsimp only
  repeat' split
  all_goals simp [h, NextWf]

theorem execSignal_nextWf (a) : NextWf (execSignal a s) := by simp [execSignal, h]
theorem execBroadcastData_nextWf (c pos room) : NextWf (execBroadcastData c pos room s) := by simp [execBroadcastData, h]

theorem execBroadcastReturn_nextWf (c second) : NextWf (execBroadcastReturn c second s) := by
  unfold execBroadcastReturn
  dsimp only
  rw [nextWf_next]
  split
  · exact h
  · split
    · simp [h]
    · rw [foldl_mem fun s p => by simp]
      exact h

theorem execRequestReissue_nextWf (tag) : NextWf (execRequestReissue tag s) := by
  unfold execRequestReissue
  dsimp only
  split <;> simp [h, NextWf]

theorem execDestinationUnreachable_nextWf (tag) : NextWf (execDestinationUnreachable tag s) := by
  unfold execDestinationUnreachable
  split <;> simp [h, NextWf]

theorem execCellCrcFail_nextWf (c seg) : NextWf (execCellCrcFail c seg s) := by
  unfold execCellCrcFail
  dsimp only
  rw [nextWf_next]
  split
  · simp [h]
  · refine foldl_wf (fun s x hs => foldl_wf (fun s p hs => State.losePeer_wf hs p) _ hs) _ ?_
    exact foldl_wf (fun s t hs => State.losePeer_wf hs _) _ (by simp [h])

theorem execSegmentTrainedUp_nextWf (seg) : NextWf (execSegmentTrainedUp seg s) := by simp [execSegmentTrainedUp, h]
theorem execDirectionTimeout_nextWf (c seg) : NextWf (execDirectionTimeout c seg s) := by simp [execDirectionTimeout, h]
theorem execReturnedCell_nextWf (c seg) : NextWf (execReturnedCell c seg s) := by simp [execReturnedCell, h]
theorem execEscapeCellRemoved_nextWf (c seg) : NextWf (execEscapeCellRemoved c seg s) := by simp [execEscapeCellRemoved, h]

/-! ### Errors -/

theorem execUncorrectableError_nextWf (e) : NextWf (execUncorrectableError e s) := by
  unfold execUncorrectableError
  dsimp only
  repeat' split
  all_goals simp [h, NextWf]

theorem execCorrectedError_nextWf (stack site) : NextWf (execCorrectedError stack site s) := by simp [execCorrectedError, h]
theorem execDroopEvent_nextWf (stack depth) : NextWf (execDroopEvent stack depth s) := by simp [execDroopEvent, h]

theorem execBackInvalidate_nextWf (stack l) : NextWf (execBackInvalidate stack l s) := by
  unfold execBackInvalidate
  rw [nextWf_next]
  split
  · exact store_wf _ _ _ (State.flushOwn_wf (State.l2Evict_wf h ..) ..)
  · exact h

theorem execCxlRequestFailed_nextWf (fpa write) : NextWf (execCxlRequestFailed fpa write s) := by
  simp [execCxlRequestFailed, h]
theorem execCxlLinkLoss_nextWf (stack port) : NextWf (execCxlLinkLoss stack port s) := by simp [execCxlLinkLoss, h]
theorem execPortRetrained_nextWf (stack port) : NextWf (execPortRetrained stack port s) := by simp [execPortRetrained, h]
theorem execCounterHalving_nextWf (stack) : NextWf (execCounterHalving stack s) := by simp [execCounterHalving, h]

theorem execSwap_nextWf (stack group home) : NextWf (execSwap stack group home s) := by
  unfold execSwap
  split <;> simp [h, NextWf]

theorem execSwapComplete_nextWf (stack group ok) : NextWf (execSwapComplete stack group ok s) := by
  unfold execSwapComplete
  dsimp only
  split <;> simp [h, NextWf]

/-! ### Lifetime record -/

theorem execLiferead_nextWf (q region offset length dst) : NextWf (execLiferead q region offset length dst s) := by
  refine command_nextWf h fun s hs => ?_
  dsimp only
  split <;> simp [hs]

theorem execLifetimeSample_nextWf (temps volts) : NextWf (execLifetimeSample temps volts s) := by
  simp [execLifetimeSample, h]
theorem execSnapshotCommit_nextWf : NextWf (execSnapshotCommit s) := by simp [execSnapshotCommit, h]

theorem execRing0Retrain_nextWf (found) : NextWf (execRing0Retrain found s) := by
  unfold execRing0Retrain
  dsimp only
  split <;> simp [h, NextWf]

/-! ### Firmware -/

theorem execLoadimg_nextWf (q asn dst src n frames) : NextWf (execLoadimg q asn dst src n frames s) := by
  refine command_nextWf h fun s hs => ?_
  dsimp only
  split
  · simp [hs]
  · split
    · simp [hs]
    · split
      · simp [hs]
      · have hp := State.supplyAllPages_wf hs frames asn (fld dst 60 4) (imagePages (fld dst 0 57) n)
        split <;> next e => rw [e] at hp; simp [Supplied.state] at hp; simp [hp]

theorem execHandle_nextWf (q stack num asn desc) : NextWf (execHandle q stack num asn desc s) := by
  refine command_nextWf h fun s hs => ?_
  dsimp only
  repeat' split
  all_goals simp [hs]

theorem execReset_nextWf (q) : NextWf (execReset q s) := by
  refine command_nextWf h fun s hs => State.settleReset_wf ?_
  rw [foldl_mem fun s d => by split <;> simp]
  exact hs

/-! ### Every instruction -/

/-- Every instruction keeps the form of memory. -/
theorem exec_nextWf (i : Instr) : NextWf (exec i s) := by
  unfold exec
  cases i with dsimp only
  | lds | ldg | ldv | lgv | tld | stv | sgv | tst | stx | redv | pld | ldx | pst =>
    exact State.issueChecked_wf h fun s hs => by simp [hs]
  | add | sub | and | or | xor | andn | shl | shr | sar | min | max | minu | maxu | clz | popc | sel | addi | andi |
  ori | xori | shli | shri | sari | lim | lims | bfx | bfi | padr | pcrel | csrr | qstat | aget | mbxr => exact sSet_nextWf h
  | mul | mulh | mulhu | div | divu | rem => exact sSlow_nextWf h
  | cmp | cmpi | pand | por | pxor | pandn | pnot => exact sPred_nextWf h
  | br | call | jmpr | loop | lexit | sig | syncd | yield | retire | csrw | csrs | csrc | trap | rte | brk | qcfg |
  qcfgKeep | qrel | aset | adim | mbxw | pcrt | pdel | pprt | chbind | chwr => exact sWord_nextWf h fun s => by simp
  | sts | fence | fencex | drain | cpy | gath => exact tSimple_nextWf h
  | nopM | mdrn | msts => exact mPlain_nextWf h fun s => by simp
  | mlw | mma | mmac | mzer => exact mWord_nextWf h fun s => by simp
  | nopAb | vadd | vsub | vmul | vfma | vfms | vmin | vmax | vabs | vneg | vcmp | vsel | viadd | visub | vimul | vimac
  | vand | vor | vxor | vshl | vshr | vsar | vicmp | vcvt | vqnt | vdq | vscl | vamax | vospl | vaddsub | vunpk3 |
  vmov | vbcst | vext | vins | vperm | vsld | vzip | vuzp | vrsum | vrmax | vrnd | vdrp | mand | mor | mnot | viota |
  vmsk | nopX | xexp2 | xlog2 | xrcp | xrsq | xsqrt | xtab | xtld | xcvt => exact vWord_nextWf h fun s => by simp
  | ident | attest | psetdesc | ptroot | launch | preempt | resume | mbxwrite | flagset | collcfg | arbset | ctrsel |
  ctrread | plystat | powercap => exact command_nextWf h fun s hs => by simp [hs]
  | nopS => exact execNopS_nextWf h ..
  | wsel => exact execWsel_nextWf h ..
  | fork => exact execFork_nextWf h ..
  | mswp => exact execMswp_nextWf h ..
  | mchn => exact execMchn_nextWf h ..
  | mlwLoadStart => exact execMlwLoadStart_nextWf h ..
  | mlwComplete => exact execMlwComplete_nextWf h ..
  | mlwStarved => exact execMlwStarved_nextWf h ..
  | matrixRowPush => exact execMatrixRowPush_nextWf h ..
  | tandemRowArrival => exact execTandemRowArrival_nextWf h ..
  | plyUpdate => exact execPlyUpdate_nextWf h ..
  | plyFailure => exact execPlyFailure_nextWf h ..
  | weightParityError => exact execWeightParityError_nextWf h ..
  | nopL => exact execNopL_nextWf h ..
  | ldvt => exact execLdvt_nextWf h ..
  | nopT => exact execNopT_nextWf h ..
  | stg => exact execStg_nextWf h ..
  | sigst => exact execSigst_nextWf h ..
  | atom => exact execAtom_nextWf h ..
  | coll => exact execColl_nextWf h ..
  | take => exact execTake_nextWf h ..
  | arrw => exact execArrw_nextWf h ..
  | nopK => exact execNopK_nextWf h ..
  | kld => exact execKld_nextWf h ..
  | ktab => exact execKtab_nextWf h ..
  | kset => exact execKset_nextWf h ..
  | kout => exact execKout_nextWf h ..
  | kskp => exact execKskp_nextWf h ..
  | krng => exact execKrng_nextWf h ..
  | chrd => exact execChrd_nextWf h ..
  | idle => exact execIdle_nextWf h ..
  | bundleRetire => exact execBundleRetire_nextWf h ..
  | faultTaken => exact execFaultTaken_nextWf h ..
  | asyncTrapTaken => exact execAsyncTrapTaken_nextWf h ..
  | queueWaitLimit => exact execQueueWaitLimit_nextWf h ..
  | pipelineResult => exact execPipelineResult_nextWf h ..
  | globalLoadReturn => exact execGlobalLoadReturn_nextWf h ..
  | landingPush => exact execLandingPush_nextWf h ..
  | scalePush => exact execScalePush_nextWf h ..
  | landingLateArrival => exact execLandingLateArrival_nextWf h ..
  | freezeTimeout => exact execFreezeTimeout_nextWf h ..
  | translationComplete => exact execTranslationComplete_nextWf h ..
  | pagingComplete => exact execPagingComplete_nextWf h ..
  | planeAgentAnswer => exact execPlaneAgentAnswer_nextWf h ..
  | rqRefill => exact execRqRefill_nextWf h ..
  | spillSpaceAllocated => exact execSpillSpaceAllocated_nextWf h ..
  | bundleDispatch => exact execBundleDispatch_nextWf h ..
  | waitBundlePresent => exact execWaitBundlePresent_nextWf h ..
  | contextSwitch => exact execContextSwitch_nextWf h ..
  | waitCounterRaise => exact execWaitCounterRaise_nextWf h ..
  | freewheelWake => exact execFreewheelWake_nextWf h ..
  | kill => exact execKill_nextWf h ..
  | saveComplete => exact execSaveComplete_nextWf h ..
  | domainArrival => exact execDomainArrival_nextWf h ..
  | mbrChange => exact execMbrChange_nextWf h ..
  | domainBreakNotice => exact execDomainBreakNotice_nextWf h ..
  | brokenWait => exact execBrokenWait_nextWf h ..
  | channelWord => exact execChannelWord_nextWf h ..
  | channelAcknowledgement => exact execChannelAcknowledgement_nextWf h ..
  | channelBreakNotice => exact execChannelBreakNotice_nextWf h ..
  | probeSend => exact execProbeSend_nextWf h ..
  | probeReceive => exact execProbeReceive_nextWf h ..
  | takeToken => exact execTakeToken_nextWf h ..
  | takeReturn => exact execTakeReturn_nextWf h ..
  | networkQuiet => exact execNetworkQuiet_nextWf h ..
  | networkDrainTimeout => exact execNetworkDrainTimeout_nextWf h ..
  | hostStationLost => exact execHostStationLost_nextWf h ..
  | cnconfig => exact execCnconfig_nextWf h ..
  | cnsave => exact execCnsave_nextWf h ..
  | cnrestore => exact execCnrestore_nextWf h ..
  | arrivalUpdate => exact execArrivalUpdate_nextWf h ..
  | copyCommandStart => exact execCopyCommandStart_nextWf h ..
  | engineCommandFail => exact execEngineCommandFail_nextWf h ..
  | collectiveChunk => exact execCollectiveChunk_nextWf h ..
  | collectiveStatus => exact execCollectiveStatus_nextWf h ..
  | collectiveDrop => exact execCollectiveDrop_nextWf h ..
  | collHead => exact execCollHead_nextWf h ..
  | sigstNotify => exact execSigstNotify_nextWf h ..
  | collComplete => exact execCollComplete_nextWf h ..
  | readRequest => exact execReadRequest_nextWf h ..
  | write => exact execWrite_nextWf h ..
  | copyOrGatherData => exact execCopyOrGatherData_nextWf h ..
  | byteMaskedWrite => exact execByteMaskedWrite_nextWf h ..
  | atomicRequest => exact execAtomicRequest_nextWf h ..
  | readResponse => exact execReadResponse_nextWf h ..
  | writeResponse => exact execWriteResponse_nextWf h ..
  | signal => exact execSignal_nextWf h ..
  | broadcastData => exact execBroadcastData_nextWf h ..
  | broadcastReturn => exact execBroadcastReturn_nextWf h ..
  | requestReissue => exact execRequestReissue_nextWf h ..
  | destinationUnreachable => exact execDestinationUnreachable_nextWf h ..
  | cellCrcFail => exact execCellCrcFail_nextWf h ..
  | segmentTrainedUp => exact execSegmentTrainedUp_nextWf h ..
  | directionTimeout => exact execDirectionTimeout_nextWf h ..
  | returnedCell => exact execReturnedCell_nextWf h ..
  | escapeCellRemoved => exact execEscapeCellRemoved_nextWf h ..
  | uncorrectableError => exact execUncorrectableError_nextWf h ..
  | correctedError => exact execCorrectedError_nextWf h ..
  | droopEvent => exact execDroopEvent_nextWf h ..
  | backInvalidate => exact execBackInvalidate_nextWf h ..
  | cxlRequestFailed => exact execCxlRequestFailed_nextWf h ..
  | cxlLinkLoss => exact execCxlLinkLoss_nextWf h ..
  | portRetrained => exact execPortRetrained_nextWf h ..
  | counterHalving => exact execCounterHalving_nextWf h ..
  | swap => exact execSwap_nextWf h ..
  | swapComplete => exact execSwapComplete_nextWf h ..
  | liferead => exact execLiferead_nextWf h ..
  | lifetimeSample => exact execLifetimeSample_nextWf h ..
  | snapshotCommit => exact execSnapshotCommit_nextWf h
  | powerOn => exact execPowerOn_nextWf s
  | powerLoss => exact execPowerLoss_nextWf s
  | ring0Retrain => exact execRing0Retrain_nextWf h ..
  | loadimg => exact execLoadimg_nextWf h ..
  | handle => exact execHandle_nextWf h ..
  | reset => exact execReset_nextWf h ..

end

end Sys2Proof.Machine
end

section
/-!
PROOF. Every step keeps the canonical form of memory (O59).
-/

namespace Sys2Proof.Machine

/-- A command of the port is an instruction, or is refused. -/
theorem runCommand_eq_exec (s : State) (c : RingCell) (hc : ¬commandBad c = true) : ∃ i, runCommand c s = exec i s := by
  unfold runCommand
  dsimp only
  rw [if_neg hc]
  split
  · exact ⟨.ident _, rfl⟩
  · exact ⟨.attest _ _ _, rfl⟩
  · exact ⟨.loadimg _ _ _ _ _ _, rfl⟩
  · exact ⟨.psetdesc _ _ _ _ _, rfl⟩
  · exact ⟨.ptroot _ _ _, rfl⟩
  · exact ⟨.handle _ _ _ _ _, rfl⟩
  · exact ⟨.launch _ _ _ _ _, rfl⟩
  · exact ⟨.kill _ _, rfl⟩
  · exact ⟨.preempt _ _ _ _, rfl⟩
  · exact ⟨.resume _ _ _ _, rfl⟩
  · exact ⟨.mbxwrite _ _ _, rfl⟩
  · exact ⟨.flagset _ _ _, rfl⟩
  · exact ⟨.cnconfig _ _ _ _ _ _, rfl⟩
  · exact ⟨.cnsave _ _ _ _, rfl⟩
  · exact ⟨.cnrestore _ _ _ _, rfl⟩
  · exact ⟨.collcfg _ _ _ _, rfl⟩
  · exact ⟨.arbset _ _ _, rfl⟩
  · exact ⟨.ctrsel _ _ _ _ _, rfl⟩
  · exact ⟨.ctrread _ _ _ _, rfl⟩
  · exact ⟨.liferead _ _ _ _ _, rfl⟩
  · exact ⟨.plystat _ _, rfl⟩
  · exact ⟨.powercap _ _ _ _, rfl⟩
  · exact ⟨.reset _, rfl⟩

section

variable {s : State} (h : Memory.wf s.mem = true)
include h

theorem runCommand_nextWf (c : RingCell) : NextWf (runCommand c s) := by
  by_cases hc : commandBad c = true
  · rw [runCommand, if_pos hc]
    exact command_nextWf h fun s hs => by simp [hs]
  · obtain ⟨i, hi⟩ := runCommand_eq_exec s c hc
    rw [hi]
    exact exec_nextWf h i

/-- An instruction and the S word that its dispatch leaves (R320) keep the form of memory. -/
theorem run_nextWf (i : Instr) : NextWf (run i s) := by
  have hi := exec_nextWf h i
  unfold run
  split
  · next t e =>
    rw [e, nextWf_next] at hi
    split
    · exact hi
    · next w _ =>
      have hw := exec_nextWf (s := t.noSword) hi w
      split
      · next u e =>
        rw [e, nextWf_next] at hw
        rw [nextWf_next, State.afterSword_mem]
        split <;> assumption
      all_goals trivial
  all_goals trivial

/-- Every move keeps the form of memory. -/
theorem step_nextWf : NextWf (step s) := by
  unfold step
  split
  · next t i _ => exact run_nextWf (s := s.take t i) h i
  · exact run_nextWf h _
  · next n e _ => exact run_nextWf (s := s.issueStart n e) h _
  · exact h
  · next t c _ =>
    have hc := runCommand_nextWf (s := s.takeCell t c) h c
    split
    · next u e =>
      rw [e] at hc
      exact hc
    all_goals trivial
  · exact State.tick_wf h

end

/-- Settles O59, by the laws above: no instruction writes memory but by `State.store`, which keeps its form, and a
reset leaves it empty. -/
theorem memoryInvariant : Obligations.MemoryInvariant := by
  intro s t h e
  have hs := step_nextWf h
  rwa [e] at hs

end Sys2Proof.Machine
end

section
/-!
PROOF. Accesses at their home (R40, R255, R258, R265 to R268): what they change beside the bytes that they are about, where no
copy stands in their way.
-/

namespace Sys2Proof.Machine

/-! ### Cores whose caches only lose what they hold -/

/-- A core with its contexts as they were, whose caches hold no more than before. -/
structure Core.Less (c d : Core) : Prop where
  ctxs : d.ctxs = c.ctxs
  pages : d.pages ⊆ c.pages
  frames : d.frames ⊆ c.frames
  l1 : ∀ line, d.hasLine line = true → c.hasLine line = true

theorem Core.Less.refl (c : Core) : c.Less c := ⟨rfl, fun _ h => h, fun _ h => h, fun _ h => h⟩

theorem Core.Less.trans {a b c : Core} (h : a.Less b) (g : b.Less c) : a.Less c :=
  ⟨g.ctxs.trans h.ctxs, fun _ x => h.pages (g.pages x), fun _ x => h.frames (g.frames x), fun l x => h.l1 l (g.l1 l x)⟩

/-- A core whose L1 has lost lines, or words of them. -/
theorem Core.less_l1 (c : Core) {l : List L1Line} (h : ∀ x ∈ l, ∃ y ∈ c.l1, y.line = x.line) : c.Less { c with l1 := l } := by
  refine ⟨rfl, fun _ h => h, fun _ h => h, fun line hl => ?_⟩
  obtain ⟨x, hx, e⟩ := List.any_eq_true.1 hl
  obtain ⟨y, hy, e'⟩ := h x hx
  exact List.any_eq_true.2 ⟨y, hy, by rw [e']; exact e⟩

/-- Every core's caches hold no more than before. -/
def CoresLess (s t : State) : Prop :=
  ∃ f : Nat → Core → Core, (∀ (n : Nat) (c : Core), c.Less (f n c)) ∧ t.cores = s.cores.map fun c => (c.1, f c.1 c.2)

theorem CoresLess.of_eq {s t : State} (h : t.cores = s.cores) : CoresLess s t :=
  ⟨fun _ c => c, fun _ c => Core.Less.refl c, by simp [h]⟩

theorem CoresLess.refl (s : State) : CoresLess s s := .of_eq rfl

theorem CoresLess.trans {s t u : State} (h : CoresLess s t) (g : CoresLess t u) : CoresLess s u := by
  obtain ⟨f, hf, e⟩ := h
  obtain ⟨f', hf', e'⟩ := g
  exact ⟨fun n c => f' n (f n c), fun n c => (hf n c).trans (hf' n _), by simp [e', e, Function.comp_def]⟩

/-- Changes that leave the cores alone may follow. -/
theorem CoresLess.then {s t u : State} (h : CoresLess s t) (e : u.cores = t.cores) : CoresLess s u := h.trans (.of_eq e)

/-- What holds of the value at a key before and after every value has changed. -/
theorem assocGet_map {α : Type} {R : α → α → Prop} (f : Nat → α → α) (n : Nat) {d : α} (hd : R d d)
    (h : ∀ c, R c (f n c)) (l : List (Nat × α)) : R (assocGet n d l) (assocGet n d (l.map fun c => (c.1, f c.1 c.2))) := by
  induction l with
  | nil => exact hd
  | cons p r ih =>
    obtain ⟨j, c⟩ := p
    by_cases e : j = n
    · subst e; simpa [assocGet] using h c
    · simpa [assocGet, e] using ih

/-- What `CoresLess` says of one core. -/
theorem CoresLess.core {s t : State} (h : CoresLess s t) (n : Nat) : (s.core n).Less (t.core n) := by
  obtain ⟨f, hf, e⟩ := h
  unfold State.core
  rw [e]
  exact assocGet_map f n (Core.Less.refl _) (hf n) s.cores

theorem CoresLess.ctx {s t : State} (h : CoresLess s t) (n k : Nat) : t.ctx n k = s.ctx n k := by
  simp [State.ctx, Core.ctx, (h.core n).ctxs]

/-- A core listed stays listed. -/
theorem CoresLess.listed {s t : State} (h : CoresLess s t) {n : Nat} (hn : ∃ c, (n, c) ∈ s.cores) : ∃ c, (n, c) ∈ t.cores := by
  obtain ⟨f, -, e⟩ := h
  obtain ⟨c, hc⟩ := hn
  exact ⟨f n c, by rw [e]; exact List.mem_map.2 ⟨_, hc, rfl⟩⟩

/-- A fold of changes after each of which a reflexive and transitive relation holds. -/
theorem foldl_rel {α : Type} {R : State → State → Prop} (hr : ∀ s, R s s) (ht : ∀ {s t u}, R s t → R t u → R s u)
    {f : State → α → State} (hf : ∀ s x, R s (f s x)) (l : List α) (s : State) : R s (l.foldl f s) := by
  induction l generalizing s with
  | nil => exact hr s
  | cons x r ih => exact ht (hf s x) (ih _)

theorem State.changeL1_less (s : State) (t line : Nat) (but : Option Nat) {f : L1Line → Option L1Line}
    (hf : ∀ x y, f x = some y → y.line = x.line) : CoresLess s (s.changeL1 t line but f) := by
  refine ⟨fun n c => if stackOf n = t ∧ some n ≠ but ∧ c.hasLine line = true then { c with l1 := changeLine line f c.l1 } else c,
    fun n c => ?_, List.map_congr_left fun c _ => by dsimp only; split <;> rfl⟩
  dsimp only
  split
  · refine c.less_l1 fun y hy => ?_
    obtain ⟨x, hx, e⟩ := List.mem_filterMap.1 hy
    refine ⟨x, hx, ?_⟩
    split at e
    · exact (hf x y e).symm
    · cases e; rfl
  · exact Core.Less.refl c

theorem L1Line.without_line {l m : L1Line} {w : BitVec 32} (h : l.without w = some m) : m.line = l.line := by
  unfold L1Line.without at h
  split at h <;> cases h
  rfl

theorem State.dropWords_less (s : State) (t line : Nat) (m : BitVec 32) : CoresLess s (s.dropWords t line m) := by
  unfold State.dropWords
  split
  · refine CoresLess.trans (t := s.updStack t _) (.of_eq rfl) (State.changeL1_less _ t line none fun x y h => ?_)
    exact L1Line.without_line h
  · exact .refl s

@[simp] theorem State.storeWords_cores (s : State) (l : RLine) (m : BitVec 32) : (s.storeWords l m).cores = s.cores := by
  have h (k : List Nat) (s : State) : (k.foldl (fun s w => s.store (l.line * 128 + 4 * w)
      ((List.range 4).map fun i => l.byte (4 * w + i))) s).cores = s.cores := by
    induction k generalizing s with
    | nil => rfl
    | cons w r ih => rw [List.foldl_cons, ih, State.store_cores]
  unfold State.storeWords
  dsimp only
  split
  · rfl
  · split <;> exact h ..

@[simp] theorem State.sendFor_cores (s : State) (o t cls weight dst m) : (s.sendFor o t cls weight dst m).cores = s.cores := by
  unfold State.sendFor; split <;> rfl

@[simp] theorem State.request_cores (s : State) (o t cls weight dst kd mk) :
    (s.request o t cls weight dst kd mk).cores = s.cores := by simp [State.request]

@[simp] theorem State.ask_cores (s : State) (t b a ty kd l) : (s.ask t b a ty kd l).cores = s.cores := by simp [State.ask]

theorem State.cleanL1_less (s : State) (t line : Nat) (m : BitVec 32) : CoresLess s (s.cleanL1 t line m) :=
  State.changeL1_less s t line none fun _ _ h => by cases h; rfl

theorem State.writeBack_less (s : State) (t : Nat) (b : By) (l : RLine) (m : BitVec 32) : CoresLess s (s.writeBack t b l m) := by
  unfold State.writeBack
  dsimp only
  split
  · exact .refl s
  · split
    · exact (CoresLess.of_eq (by simp)).trans (State.cleanL1_less ..)
    · exact .then (.trans (t := s.setCopy t _) (.of_eq rfl) (State.cleanL1_less ..)) (State.ask_cores ..)

theorem State.flushOwn_less (s : State) (a n : Nat) : CoresLess s (s.flushOwn a n) := by
  refine foldl_rel .refl .trans (fun s line => ?_) _ s
  refine CoresLess.trans ?_ (State.dropWords_less ..)
  split
  · exact .refl s
  · exact .of_eq (by simp)

theorem State.homePut_less (s : State) (a : Nat) (l : List Byte) : CoresLess s (s.homePut a l) := by
  unfold State.homePut
  dsimp only
  refine CoresLess.trans (t := if uncached a then s else s.flushOwn a l.length) ?_ (.of_eq (by split <;> rfl))
  split
  · exact .refl s
  · exact State.flushOwn_less ..

@[simp] theorem State.scheduleSwap_cores (s : State) (t g k : Nat) : (s.scheduleSwap t g k).cores = s.cores := by
  unfold State.scheduleSwap; dsimp only; split <;> rfl

@[simp] theorem State.noteFill_cores (s : State) (line : Nat) : (s.noteFill line).cores = s.cores := by
  unfold State.noteFill
  dsimp only
  split
  · rfl
  · split
    · rfl
    · split <;> simp

@[simp] theorem State.slotMade_cores (s : State) (line : Nat) (wr : Bool) : (s.slotMade line wr).cores = s.cores := by
  unfold State.slotMade; rw [State.noteFill_cores]; split <;> rfl

@[simp] theorem State.askRemap_cores (s : State) (line : Nat) : (s.askRemap line).cores = s.cores := by
  unfold State.askRemap
  split
  · rfl
  · dsimp only; split <;> rfl

@[simp] theorem State.slotAccess_cores (s : State) (line : Nat) (wr : Bool) : (s.slotAccess line wr).cores = s.cores := by
  unfold State.slotAccess; dsimp only; split <;> simp

theorem State.l2Evict_less (s : State) (t : Nat) (b : By) (line : Nat) : CoresLess s (s.l2Evict t b line) := by
  unfold State.l2Evict
  dsimp only
  refine CoresLess.trans ?_ (State.dropWords_less ..)
  cases s.copyOf t line with
  | none => exact .of_eq (by dsimp only; split <;> simp)
  | some l => exact (State.writeBack_less s t b l (BitVec.allOnes 32)).then (by dsimp only; split <;> simp)

theorem State.l2Touch_less (s : State) (t : Nat) (b : By) (line : Nat) (wr : Bool) : CoresLess s (s.l2Touch t b line wr) := by
  unfold State.l2Touch
  dsimp only
  split
  · exact .refl s
  · split
    · exact .of_eq rfl
    · have hf : CoresLess s s.freeVal.2 := .of_eq rfl
      cases (cacheTouch 16 l2Set s.freeVal.1.toNat line (s.freeVal.2.stack t).l2).2 with
      | none => exact hf.then (by split <;> simp)
      | some w => exact (hf.trans (State.l2Evict_less _ t b w)).then (by split <;> simp)

theorem State.homeAccess_less (s : State) (line : Nat) (wr : Bool) : CoresLess s (s.homeAccess line wr) := by
  unfold State.homeAccess
  split
  · exact State.l2Touch_less ..
  · exact .refl s

/-- Whatever a write of the firmware meets, contexts stay as they are. -/
theorem State.fwPut_less (s : State) (a : Nat) (l : List Byte) : CoresLess s (s.fwPut a l) := by
  unfold State.fwPut
  split
  · exact (foldl_rel .refl .trans (fun s x => State.homeAccess_less s x true) _ s).trans (State.homePut_less ..)
  · exact foldl_rel .refl .trans (fun s x => .of_eq (State.ask_cores ..)) _ s

end Sys2Proof.Machine
end

section
/-!
PROOF. Accesses at their home (R40, R255, R258, R265 to R268): what they leave as it was, where no copy stands in their way.
-/

namespace Sys2Proof.Machine

/-! ### Base dies that differ in counts, counters, swaps and pins alone -/

/-- What an access at its home leaves of a base die. -/
structure Stack.Same (x y : Stack) : Prop where
  handles : y.handles = x.handles
  remote : y.remote = x.remote
  l2 : y.l2 = x.l2
  bad : y.bad = x.bad
  ports : y.ports = x.ports
  res : ∀ g, (y.remapOf g).res = (x.remapOf g).res
  cmp : ∀ g, (y.remapOf g).cmp = (x.remapOf g).cmp

theorem Stack.Same.refl (x : Stack) : x.Same x := ⟨rfl, rfl, rfl, rfl, rfl, fun _ => rfl, fun _ => rfl⟩

theorem Stack.Same.trans {x y z : Stack} (h : x.Same y) (g : y.Same z) : x.Same z :=
  ⟨g.handles.trans h.handles, g.remote.trans h.remote, g.l2.trans h.l2, g.bad.trans h.bad, g.ports.trans h.ports,
    fun a => (g.res a).trans (h.res a), fun a => (g.cmp a).trans (h.cmp a)⟩

/-- A base die whose remap table, copies, slices and ports stand as they were. -/
theorem Stack.Same.of_eq {x y : Stack} (h : y.handles = x.handles) (hr : y.remote = x.remote) (hl : y.l2 = x.l2)
    (hb : y.bad = x.bad) (hp : y.ports = x.ports) (hm : y.remap = x.remap) : x.Same y :=
  ⟨h, hr, hl, hb, hp, fun _ => by simp [Stack.remapOf, hm], fun _ => by simp [Stack.remapOf, hm]⟩

theorem Stack.count_same (x : Stack) (src n : Nat) : x.Same (x.count src n) := .of_eq rfl rfl rfl rfl rfl rfl

@[simp] theorem Stack.remapOf_set_same (x : Stack) (g : Nat) (r : Remap) :
    Stack.remapOf { x with remap := assocSet g r x.remap } g = r := assocGet_set_same ..

theorem Stack.remapOf_set_ne (x : Stack) {g h : Nat} (n : h ≠ g) (r : Remap) :
    Stack.remapOf { x with remap := assocSet g r x.remap } h = x.remapOf h := assocGet_set_ne n ..

/-- A remap entry changed in neither RES nor CMP. -/
theorem Stack.setRemap_same (x : Stack) (g : Nat) {r : Remap} (hr : r.res = (x.remapOf g).res) (hc : r.cmp = (x.remapOf g).cmp) :
    x.Same { x with remap := assocSet g r x.remap } := by
  refine ⟨rfl, rfl, rfl, rfl, rfl, fun h => ?_, fun h => ?_⟩ <;>
    by_cases e : h = g
  · subst e; rw [Stack.remapOf_set_same, hr]
  · rw [Stack.remapOf_set_ne x e]
  · subst e; rw [Stack.remapOf_set_same, hc]
  · rw [Stack.remapOf_set_ne x e]

/-- Nothing of the package differs but counts, counters, swaps and pins of base dies, and events. -/
structure StkSame (s t : State) : Prop where
  only : ∃ k d f, t = { s with stk := k, sched := d, free := f }
  stack : ∀ u, (s.stack u).Same (t.stack u)

theorem StkSame.refl (s : State) : StkSame s s := ⟨⟨_, _, _, rfl⟩, fun _ => .refl _⟩

theorem StkSame.trans {s t u : State} (h : StkSame s t) (g : StkSame t u) : StkSame s u := by
  obtain ⟨⟨_, _, _, rfl⟩, h⟩ := h
  obtain ⟨⟨_, _, _, rfl⟩, g⟩ := g
  exact ⟨⟨_, _, _, rfl⟩, fun u => (h u).trans (g u)⟩

theorem stack_updStack_eq (s : State) (t u : Nat) (f : Stack → Stack) :
    (s.updStack t f).stack u = if u % 8 = t % 8 then f (s.stack u) else s.stack u := by
  split
  · next h => simp [State.stack, State.updStack, h]
  · next h => exact stack_updStack_ne s h f

/-- Stack numbers name stacks modulo 8. -/
theorem State.stack_congr (s : State) {t u : Nat} (h : u % 8 = t % 8) : s.stack u = s.stack t := by simp [State.stack, h]

theorem State.updStack_same (s : State) (t : Nat) {f : Stack → Stack} (h : (s.stack t).Same (f (s.stack t))) :
    StkSame s (s.updStack t f) := by
  refine ⟨⟨_, _, _, rfl⟩, fun u => ?_⟩
  rw [stack_updStack_eq]
  split
  · next e => rw [s.stack_congr e]; exact h
  · exact .refl _

theorem State.after_same (s : State) (d : Nat) (i : Instr) : StkSame s (s.after d i) := ⟨⟨_, _, _, rfl⟩, fun _ => .refl _⟩

theorem State.freeVal_same (s : State) : StkSame s s.freeVal.2 := ⟨⟨_, _, _, rfl⟩, fun _ => .refl _⟩

theorem State.scheduleSwap_same (s : State) (t g k : Nat) : StkSame s (s.scheduleSwap t g k) := by
  have h : StkSame s (s.updStack t fun x =>
      { x with swaps := x.swaps ++ [{ group := g, home := BitVec.ofNat 4 k, running := false, ends := 0, held := [] }] }) :=
    State.updStack_same s t (.of_eq rfl rfl rfl rfl rfl rfl)
  unfold State.scheduleSwap
  dsimp only
  split
  · exact h.trans (State.after_same ..)
  · exact h

theorem State.noteFill_same (s : State) (line : Nat) : StkSame s (s.noteFill line) := by
  unfold State.noteFill
  dsimp only
  split
  · exact .refl s
  · split
    · exact .refl s
    · next g k _ =>
      have h := State.updStack_same s (stackAt (line * 128))
        (f := fun x => { x with remap := assocSet g (((s.stack (stackAt (line * 128))).remapOf g).bump k) x.remap })
        (Stack.setRemap_same _ g rfl rfl)
      split
      · exact h.trans (State.scheduleSwap_same ..)
      · exact h

theorem State.slotMade_same (s : State) (line : Nat) (wr : Bool) : StkSame s (s.slotMade line wr) := by
  unfold State.slotMade
  split
  · exact State.noteFill_same ..
  · exact (State.updStack_same s _ (Stack.count_same ..)).trans (State.noteFill_same ..)

theorem State.askRemap_same (s : State) (line : Nat) : StkSame s (s.askRemap line) := by
  unfold State.askRemap
  split
  · exact .refl s
  · dsimp only
    split
    · exact .refl s
    · exact s.freeVal_same.trans (State.updStack_same _ _ (.of_eq rfl rfl rfl rfl rfl rfl))

theorem State.slotAccess_same (s : State) (line : Nat) (wr : Bool) : StkSame s (s.slotAccess line wr) := by
  unfold State.slotAccess
  dsimp only
  split
  · exact (State.askRemap_same ..).trans (State.updStack_same _ _ (.of_eq rfl rfl rfl rfl rfl rfl))
  · exact (State.askRemap_same ..).trans (State.slotMade_same ..)

theorem State.settlePin_same (s : State) (t g : Nat) : StkSame s (s.settlePin t g) := by
  have hswaps : StkSame s (s.updStack t fun x => { x with swaps := x.swaps.filter fun w => w.group != g }) :=
    State.updStack_same s t (.of_eq rfl rfl rfl rfl rfl rfl)
  unfold State.settlePin
  dsimp only
  split
  · exact .refl s
  · split
    · exact State.updStack_same s t (Stack.setRemap_same _ g rfl rfl)
    · split
      · exact .refl s
      · split
        · refine hswaps.trans (State.updStack_same _ t (Stack.setRemap_same _ g ?_ ?_)) <;> rw [stack_updStack] <;> rfl
        · exact hswaps.trans (State.scheduleSwap_same ..)

theorem State.pinExtent_same (s : State) (t : Nat) (up : Bool) (l n : Nat) : StkSame s (s.pinExtent t up l n) := by
  refine foldl_rel .refl .trans (fun s g => ?_) _ s
  exact (State.updStack_same s t (.of_eq rfl rfl rfl rfl rfl rfl)).trans (State.settlePin_same ..)

/-! ### Homes that serve on -/

/-- A base die that serves accesses as before and holds copies of no lines but those of which it held some. -/
structure Stack.Less (x y : Stack) : Prop where
  ports : y.ports = x.ports
  res : ∀ g, (y.remapOf g).res = (x.remapOf g).res
  remote : ∀ l ∈ y.remote, ∃ m ∈ x.remote, m.line = l.line
  bad : y.bad ⊆ x.bad

theorem Stack.Same.less {x y : Stack} (h : x.Same y) : x.Less y :=
  ⟨h.ports, h.res, fun l hl => ⟨l, by rwa [h.remote] at hl, rfl⟩, fun l hl => by rwa [h.bad] at hl⟩

theorem Stack.Less.refl (x : Stack) : x.Less x := (Stack.Same.refl x).less

theorem Stack.Less.trans {x y z : Stack} (h : x.Less y) (g : y.Less z) : x.Less z := by
  refine ⟨g.ports.trans h.ports, fun a => (g.res a).trans (h.res a), fun l hl => ?_, fun l hl => h.bad (g.bad hl)⟩
  obtain ⟨m, hm, e⟩ := g.remote l hl
  obtain ⟨k, hk, e'⟩ := h.remote m hm
  exact ⟨k, hk, e'.trans e⟩

/-- The homes of a state serve accesses as those of another did, and its caches hold no lines that those did not. -/
structure Serves (s t : State) : Prop where
  stack : ∀ u, (s.stack u).Less (t.stack u)
  cores : CoresLess s t

theorem Serves.refl (s : State) : Serves s s := ⟨fun _ => .refl _, .refl s⟩

theorem Serves.trans {s t u : State} (h : Serves s t) (g : Serves t u) : Serves s u :=
  ⟨fun v => (h.stack v).trans (g.stack v), h.cores.trans g.cores⟩

theorem StkSame.serves {s t : State} (h : StkSame s t) : Serves s t :=
  ⟨fun u => (h.stack u).less, .of_eq (by obtain ⟨_, _, _, rfl⟩ := h.only; rfl)⟩

theorem State.updStack_serves (s : State) (t : Nat) {f : Stack → Stack} (h : (s.stack t).Less (f (s.stack t))) :
    Serves s (s.updStack t f) := by
  refine ⟨fun u => ?_, .of_eq rfl⟩
  rw [stack_updStack_eq]
  split
  · next e => rw [s.stack_congr e]; exact h
  · exact .refl _

theorem Serves.portDown {s t : State} (h : Serves s t) (a : Nat) : t.portDown a = s.portDown a := by
  unfold State.portDown State.inPool
  simp only [fun u => (h.stack u).ports, fun u => (h.stack u).res]

theorem Serves.copyOf {s t : State} (h : Serves s t) {u line : Nat} (e : s.copyOf u line = none) : t.copyOf u line = none := by
  unfold State.copyOf at *
  rw [List.find?_eq_none] at *
  intro x hx
  obtain ⟨y, hy, e'⟩ := (h.stack u).remote x hx
  rw [← e']
  exact e y hy

theorem State.holdsLine_eq_false {s : State} {u line : Nat} : s.holdsLine u line = false ↔
    s.copyOf u line = none ∧ line ∉ (s.stack u).bad ∧ ∀ c ∈ s.cores, stackOf c.1 = u → c.2.hasLine line = false := by
  simp [State.holdsLine, and_assoc]

theorem Serves.holdsLine {s t : State} (h : Serves s t) {u line : Nat} (e : s.holdsLine u line = false) :
    t.holdsLine u line = false := by
  obtain ⟨hc, hb, hl⟩ := State.holdsLine_eq_false.1 e
  refine State.holdsLine_eq_false.2 ⟨h.copyOf hc, fun x => hb ((h.stack u).bad x), fun c hm hu => ?_⟩
  obtain ⟨f, hf, e⟩ := h.cores
  rw [e] at hm
  obtain ⟨d, hd, rfl⟩ := List.mem_map.1 hm
  exact Bool.eq_false_iff.2 fun x => Bool.eq_false_iff.1 (hl d hd hu) ((hf d.1 d.2).l1 line x)

/-- An address stays at home where homes serve on. -/
theorem atHome_of_serves {s t : State} {a n : Nat} (h : AtHome s a n) (g : Serves s t) (hm : MemInv t) : AtHome t a n := by
  obtain ⟨_, ho, hp, hb⟩ := h
  refine ⟨hm, ho, (g.portDown a).trans hp, fun b h1 h2 => ?_⟩
  obtain ⟨hp, hx, hr, hl, hs⟩ := hb b h1 h2
  exact ⟨(g.portDown b).trans hp, hx, hr, g.holdsLine hl, hs⟩

/-- Accesses stay quiet where homes serve on and the slices hold the same lines. -/
theorem settled_of_serves {s t : State} {a n : Nat} (h : Settled s a n) (g : Serves s t)
    (hl : ∀ u, (t.stack u).l2 = (s.stack u).l2) : Settled t a n := by
  refine h.imp (fun h => ?_) fun h b h1 h2 => (h b h1 h2).imp id fun h => ?_
  · refine List.eq_nil_iff_forall_not_mem.2 fun x hx => ?_
    obtain ⟨y, hy, _⟩ := (g.stack _).remote x hx
    rw [h] at hy
    cases hy
  · rwa [hl]

/-! ### An access at a home -/

/-- What an access at its home that writes nothing back does: it touches no byte. -/
structure Quiet (s t : State) : Prop where
  only : ∃ k c d f, t = { s with stk := k, cores := c, sched := d, free := f }
  serves : Serves s t
  settled : ∀ a n, AtHome s a n → Settled s a n → Settled t a n

theorem Quiet.refl (s : State) : Quiet s s := ⟨⟨_, _, _, _, rfl⟩, .refl s, fun _ _ _ h => h⟩

theorem Quiet.mem {s t : State} (h : Quiet s t) : t.mem = s.mem := by obtain ⟨_, _, _, _, rfl⟩ := h.only; rfl

theorem Quiet.atHome {s t : State} (h : Quiet s t) {a n : Nat} (g : AtHome s a n) : AtHome t a n :=
  atHome_of_serves g h.serves (by unfold MemInv; rw [h.mem]; exact g.1)

theorem Quiet.trans {s t u : State} (h : Quiet s t) (g : Quiet t u) : Quiet s u := by
  refine ⟨?_, h.serves.trans g.serves, fun a n ha hs => g.settled a n (h.atHome ha) (h.settled a n ha hs)⟩
  obtain ⟨_, _, _, _, rfl⟩ := h.only
  obtain ⟨_, _, _, _, rfl⟩ := g.only
  exact ⟨_, _, _, _, rfl⟩

theorem StkSame.quiet {s t : State} (h : StkSame s t) : Quiet s t := by
  refine ⟨?_, h.serves, fun a n _ hs => settled_of_serves hs h.serves fun u => (h.stack u).l2⟩
  obtain ⟨_, _, _, rfl⟩ := h.only
  exact ⟨_, _, _, _, rfl⟩

theorem RLine.without_line {l m : RLine} {w : BitVec 32} (h : l.without w = some m) : m.line = l.line := by
  unfold RLine.without at h
  split at h <;> cases h
  rfl

theorem State.changeL1_serves (s : State) (t line : Nat) (but : Option Nat) {f : L1Line → Option L1Line}
    (hf : ∀ x y, f x = some y → y.line = x.line) : Serves s (s.changeL1 t line but f) :=
  ⟨fun _ => .refl _, State.changeL1_less s t line but hf⟩

theorem State.dropWords_serves (s : State) (t line : Nat) (m : BitVec 32) : Serves s (s.dropWords t line m) := by
  unfold State.dropWords
  split
  · refine (State.updStack_serves s t ?_).trans (State.changeL1_serves _ t line none fun x y h => L1Line.without_line h)
    refine ⟨rfl, fun _ => rfl, fun y hy => ?_, fun y hy => (List.mem_filter.1 hy).1⟩
    obtain ⟨x, hx, e⟩ := List.mem_filterMap.1 hy
    refine ⟨x, hx, ?_⟩
    split at e
    · exact (RLine.without_line e).symm
    · cases e; rfl
  · exact .refl s

/-- No copy is in the way of bytes at home. -/
theorem State.dropWords_none {s : State} {t line : Nat} (h : s.holdsLine t line = false) (m : BitVec 32) :
    s.dropWords t line m = s := by simp [State.dropWords, h]

theorem State.dropWords_only (s : State) (t line : Nat) (m : BitVec 32) :
    ∃ k c, s.dropWords t line m = { s with stk := k, cores := c } := by
  unfold State.dropWords
  split <;> exact ⟨_, _, rfl⟩

@[simp] theorem State.changeL1_stack (s : State) (t line but f u) : (s.changeL1 t line but f).stack u = s.stack u := rfl

/-- The slices of stacks after words of a line are dropped. -/
theorem State.dropWords_l2 (s : State) (t line : Nat) (m : BitVec 32) (u : Nat) :
    ((s.dropWords t line m).stack u).l2 = (s.stack u).l2 := by
  unfold State.dropWords
  split
  · rw [State.changeL1_stack, stack_updStack_eq]
    split <;> rfl
  · rfl

/-- A line leaves a slice whose stack holds copies of no line: nothing is written back. -/
theorem State.l2Evict_quiet {s : State} {t : Nat} (h : (s.stack t).remote = []) (b : By) (line : Nat) :
    (∃ k c d f, s.l2Evict t b line = { s with stk := k, cores := c, sched := d, free := f }) ∧
    Serves s (s.l2Evict t b line) ∧ ∀ u, u % 8 ≠ t % 8 → ((s.l2Evict t b line).stack u).l2 = (s.stack u).l2 := by
  have hc : s.copyOf t line = none := by simp [State.copyOf, h]
  have hk : StkSame s (if (nearAt t (line * 128) && (s.stack t).l2w.contains line) = true then s.slotAccess line true else s) := by
    split
    · exact State.slotAccess_same ..
    · exact .refl s
  unfold State.l2Evict
  dsimp only
  rw [hc]
  generalize (if (nearAt t (line * 128) && (s.stack t).l2w.contains line) = true then s.slotAccess line true else s) = v at *
  refine ⟨?_, hk.serves.trans (Serves.trans (State.updStack_serves v t ?_) (State.dropWords_serves ..)), fun u hu => ?_⟩
  · obtain ⟨_, _, e⟩ := State.dropWords_only (v.updStack t fun x =>
      { x with l2 := x.l2.filter fun y => y != line, l2w := x.l2w.filter fun y => y != line }) t line (BitVec.allOnes 32)
    obtain ⟨_, _, _, rfl⟩ := hk.only
    exact ⟨_, _, _, _, e⟩
  · exact ⟨rfl, fun _ => rfl, fun l hl => ⟨l, hl, rfl⟩, fun _ h => h⟩
  · rw [State.dropWords_l2, stack_updStack_ne _ hu, (hk.stack u).l2]

theorem Serves.remote_nil {s t : State} (h : Serves s t) {u : Nat} (e : (s.stack u).remote = []) : (t.stack u).remote = [] := by
  refine List.eq_nil_iff_forall_not_mem.2 fun x hx => ?_
  obtain ⟨y, hy, _⟩ := (h.stack u).remote x hx
  rw [e] at hy
  cases hy

@[simp] theorem stackAt_mod (a : Nat) : stackAt a % 8 = stackAt a := Nat.mod_mod ..

/-- Where a stack holds copies of no line, its slices may give up any. -/
theorem Quiet.of_empty {s v : State} {x : Nat} (hr : (s.stack (stackAt x)).remote = [])
    (ho : ∃ k c d f, v = { s with stk := k, cores := c, sched := d, free := f }) (hs : Serves s v)
    (hl : ∀ u, u % 8 ≠ stackAt x → (v.stack u).l2 = (s.stack u).l2) : Quiet s v := by
  refine ⟨ho, hs, fun a n ha h => ?_⟩
  by_cases e : stackAt a = stackAt x
  · exact .inl (hs.remote_nil (e ▸ hr))
  · refine h.imp hs.remote_nil fun h b h1 h2 => (h b h1 h2).imp id fun h => ?_
    obtain ⟨_, _, _, hb⟩ := ha
    obtain ⟨_, _, _, _, hb⟩ := hb b h1 h2
    rwa [hl _ (by rw [hb, stackAt_mod]; exact e)]

/-- A line taken into a slice whose stack holds copies of no line, and filled from its slot. -/
theorem Quiet.of_taken {s v : State} {line : Nat} (hr : (s.stack (stackAt (line * 128))).remote = [])
    (ho : ∃ k c d f, v = { s with stk := k, cores := c, sched := d, free := f }) (hs : Serves s v)
    (hl : ∀ u, u % 8 ≠ stackAt (line * 128) → (v.stack u).l2 = (s.stack u).l2) {f : Stack → Stack}
    (hf : (v.stack (stackAt (line * 128))).Less (f (v.stack (stackAt (line * 128))))) :
    Quiet s (if nearAt (stackAt (line * 128)) (line * 128) = true then
      (v.updStack (stackAt (line * 128)) f).slotAccess line false else v.updStack (stackAt (line * 128)) f) := by
  have hq : Quiet s (v.updStack (stackAt (line * 128)) f) := by
    refine .of_empty hr ?_ (hs.trans (State.updStack_serves v _ hf)) fun u hu => ?_
    · obtain ⟨_, _, _, _, rfl⟩ := ho
      exact ⟨_, _, _, _, rfl⟩
    · rw [stack_updStack_ne v (by rwa [stackAt_mod]), hl u hu]
  split
  · exact hq.trans (State.slotAccess_same ..).quiet
  · exact hq

/-- An access to a line that stands in its slice counts, and changes nothing else but which lines differ from memory (R258). -/
theorem State.homeAccess_same {s : State} {line : Nat} (h : InSlice s (line * 128)) (wr : Bool) : StkSame s (s.homeAccess line wr) := by
  unfold State.homeAccess State.l2Touch
  dsimp only
  split
  · split
    · exact .refl s
    · next hu =>
      rw [if_pos (h.elim (fun h => absurd h hu) fun h => by simpa [lineOf] using h)]
      exact State.updStack_same s _ (.of_eq rfl rfl rfl rfl rfl rfl)
  · exact .refl s

/-- An access to a line whose home stack holds copies of no line is quiet. -/
theorem State.homeAccess_empty {s : State} {line : Nat} (hr : (s.stack (stackAt (line * 128))).remote = []) (wr : Bool) :
    Quiet s (s.homeAccess line wr) := by
  unfold State.homeAccess State.l2Touch
  dsimp only
  split
  · split
    · exact .refl s
    · split
      · exact (State.updStack_same s _ (.of_eq rfl rfl rfl rfl rfl rfl)).quiet
      · have hid (x : Stack) : x.Less x := .refl x
        cases (cacheTouch 16 l2Set s.freeVal.1.toNat line (s.freeVal.2.stack (stackAt (line * 128))).l2).2 with
        | none => exact .of_taken hr ⟨_, _, _, _, rfl⟩ s.freeVal_same.serves (fun _ _ => rfl) ⟨rfl, fun _ => rfl, (hid _).remote, (hid _).bad⟩
        | some w =>
          obtain ⟨⟨k, c, d, f, e⟩, hs, hl⟩ := State.l2Evict_quiet (s := s.freeVal.2) (t := stackAt (line * 128)) hr By.none_ w
          exact .of_taken hr ⟨k, c, d, f, e⟩ (s.freeVal_same.serves.trans hs) (fun u hu => hl u (by rwa [stackAt_mod]))
            ⟨rfl, fun _ => rfl, (hid _).remote, (hid _).bad⟩
  · exact .refl s

/-- An access to a line that stands in its slice, or whose home stack holds copies of no line, is quiet. -/
theorem State.homeAccess_quiet {s : State} {line : Nat}
    (h : InSlice s (line * 128) ∨ (s.stack (stackAt (line * 128))).remote = []) (wr : Bool) :
    Quiet s (s.homeAccess line wr) :=
  h.elim (fun h => (State.homeAccess_same h wr).quiet) fun h => State.homeAccess_empty h wr

/-! ### Accesses to the lines of a range -/

/-- The bytes of a range at home lie on one stack. -/
theorem atHome_stackAt {s : State} {a n b : Nat} (h : AtHome s a n) (h1 : a ≤ b) (h2 : b < a + n) : stackAt b = stackAt a :=
  (h.2.2.2 b h1 h2).2.2.2.2

/-- Every line of a range holds a byte of it. -/
theorem exists_of_mem_linesOf {a n line : Nat} (h : line ∈ linesOf a n) : ∃ b, a ≤ b ∧ b < a + n ∧ b / 128 = line := by
  unfold linesOf at h
  split at h
  · cases h
  · obtain ⟨i, hi, rfl⟩ := List.mem_map.1 h
    rw [List.mem_range] at hi
    exact ⟨max a ((a / 128 + i) * 128), by omega, by omega, by omega⟩

theorem stackAt_line (b : Nat) : stackAt (b / 128 * 128) = stackAt b := by unfold stackAt; omega

theorem uncached_line (b : Nat) : uncached (b / 128 * 128) = uncached b := by unfold uncached; simp only [decide_eq_decide]; omega

theorem inSlice_line {s : State} {b : Nat} : InSlice s (b / 128 * 128) ↔ InSlice s b := by
  unfold InSlice lineOf
  rw [uncached_line, stackAt_line, Nat.mul_div_cancel _ (by decide)]

/-- Accesses to the lines of a range at home are quiet. -/
theorem State.homeAccesses_quiet (wr : Bool) {a n : Nat} {l : List Nat} (hl : ∀ line ∈ l, line ∈ linesOf a n) {s : State}
    (ha : AtHome s a n) (hs : Settled s a n) : Quiet s (l.foldl (fun s x => s.homeAccess x wr) s) := by
  induction l generalizing s with
  | nil => exact .refl s
  | cons x r ih =>
    obtain ⟨b, h1, h2, e⟩ := exists_of_mem_linesOf (hl x (List.mem_cons_self ..))
    have hq : Quiet s (s.homeAccess x wr) := by
      refine State.homeAccess_quiet ?_ wr
      rw [← e, inSlice_line, stackAt_line, atHome_stackAt ha h1 h2]
      exact hs.symm.imp (fun h => h b h1 h2) id
    exact hq.trans (ih (fun y hy => hl y (List.mem_cons_of_mem _ hy)) (hq.atHome ha) (hq.settled a n ha hs))

/-! ### Bytes written at their home -/

/-- Bytes at home have no copy to be written back before a write. -/
theorem State.flushOwn_eq {s : State} {a n : Nat} (h : AtHome s a n) : s.flushOwn a n = s := by
  unfold State.flushOwn
  have hl : ∀ line ∈ linesOf a n, s.holdsLine (stackAt a) line = false := fun line hm => by
    obtain ⟨b, h1, h2, rfl⟩ := exists_of_mem_linesOf hm
    rw [← atHome_stackAt h h1 h2]
    exact (h.2.2.2 b h1 h2).2.2.2.1
  generalize linesOf a n = k at *
  induction k with
  | nil => rfl
  | cons x r ih =>
    have hx := hl x (List.mem_cons_self ..)
    rw [List.foldl_cons]
    rw [(State.holdsLine_eq_false.1 hx).1, State.dropWords_none hx]
    exact ih fun y hy => hl y (List.mem_cons_of_mem _ hy)

/-- A write of bytes at home stores them. -/
theorem State.homePut_eq {s : State} {a : Nat} {l : List Byte} (h : AtHome s a l.length) :
    s.homePut a l = { s.store a l with poison := clearPoison a l.length s.poison } := by
  have hp : s.portDown a = false := h.2.2.1
  unfold State.homePut
  simp [State.flushOwn_eq h, hp]

/-- Bytes stored land. -/
theorem lands_store {s : State} (h : MemInv s) (a : Nat) (l : List Byte) : Lands a l s (s.store a l) := by
  intro b
  change readByte b (writeBytes a l s.mem) = _
  split
  · next hb =>
    obtain ⟨i, rfl⟩ := Nat.exists_eq_add_of_le hb.1
    have hi : i < l.length := by omega
    rw [readByte_writeBytes_in hi h, Nat.add_sub_cancel_left, List.getD_eq_getElem _ _ hi]
  · exact readByte_writeBytes_out (by omega) h

/-- What a write of bytes at their home does. -/
structure Wrote (a : Nat) (l : List Byte) (s t : State) : Prop where
  only : ∃ m p k c d f, t = { s with mem := m, poison := p, stk := k, cores := c, sched := d, free := f }
  lands : Lands a l s t
  serves : Serves s t
  inv : MemInv t
  settled : ∀ b n, AtHome s b n → Settled s b n → Settled t b n

theorem Wrote.atHome {a : Nat} {l : List Byte} {s t : State} (h : Wrote a l s t) {b n : Nat} (g : AtHome s b n) : AtHome t b n :=
  atHome_of_serves g h.serves h.inv

/-- A write of the firmware to bytes at home (R310). -/
theorem State.fwPut_wrote {s : State} {a : Nat} {l : List Byte} (ha : AtHome s a l.length) (hs : Settled s a l.length) :
    Wrote a l s (s.fwPut a l) := by
  have hq := State.homeAccesses_quiet true (fun _ h => h) ha hs
  unfold State.fwPut
  rw [if_pos ha.2.1]
  generalize (linesOf a l.length).foldl (fun s x => s.homeAccess x true) s = t at *
  have ht := hq.atHome ha
  rw [State.homePut_eq ht]
  refine ⟨?_, fun b => ?_, hq.serves.trans ⟨fun _ => .refl _, .of_eq rfl⟩, store_wf _ _ _ ht.1, fun b n h1 h2 => ?_⟩
  · obtain ⟨_, _, _, _, rfl⟩ := hq.only
    exact ⟨_, _, _, _, _, _, rfl⟩
  · rw [← hq.mem]
    exact lands_store ht.1 a l b
  · exact settled_of_serves (hq.settled b n h1 h2) ⟨fun _ => .refl _, .of_eq rfl⟩ fun _ => rfl

end Sys2Proof.Machine
end

section
/-!
PROOF. Firmware commands that read or write tables and settings (O52).
-/

namespace Sys2Proof.Machine

/-! ### Commands taken and turned down -/

/-- A command of a package that has booted executes (R315). -/
theorem command_next {s : State} (h : s.fw.up = true) (q : HostCmd) (f : State → State) : command q f s = .next (f s) := by
  simp [command, h]

section

variable {q : HostCmd} {s : State} (h : Accepts s) {o : Out1} {p : State → Prop} [DecidablePred p] {f g : State → State}
include h

/-- A command that has nothing to check executes. -/
theorem exec_up (hi : o = command q f s) : o = .next (f s) := by rw [hi, command_next h.1]

/-- A command whose arguments fail its first check takes that branch. -/
theorem exec_then (hi : o = command q (fun s => if p s then f s else g s) s) (hp : p s) : o = .next (f s) := by
  rw [hi, command_next h.1, if_pos hp]

/-- A command whose arguments pass its first check goes on. -/
theorem exec_else (hi : o = command q (fun s => if p s then f s else g s) s) (hp : ¬ p s) : o = .next (g s) := by
  rw [hi, command_next h.1, if_neg hp]

/-- A command whose arguments are outside their limits is turned down (R314). -/
theorem declined_of {cmd st : Nat} (hi : o = command q (fun s => if p s then s.complete q cmd st 0 [] else g s) s) (hp : p s) :
    ∃ t, o = .next t ∧ Declined q cmd st 0 s t :=
  ⟨_, exec_then h hi hp, rfl, rfl⟩

end

/-- A command whose firmware awaits no acknowledgement completes at its end (R310). -/
theorem finishDrop_completes {u : State} (h : u.firmOut = false) (q : HostCmd) (cmd st res : Nat) (data : List Byte)
    (drop : Option Nat) : u.finishDrop q cmd st res data drop = u.complete q cmd st res data := by
  simp [State.finishDrop, h]

/-- What a command completes with after changes that leave what has left the package. -/
theorem completes_of {s u : State} (h : u.outbox = s.outbox) (q : HostCmd) (cmd st res : Nat) (data : List Byte) :
    Completes q cmd st res data s (u.complete q cmd st res data) := by
  unfold Completes State.complete State.emit
  rw [h]

theorem Wrote.outbox {a : Nat} {l : List Byte} {s t : State} (h : Wrote a l s t) : t.outbox = s.outbox := by
  obtain ⟨_, _, _, _, _, _, rfl⟩ := h.only; rfl

theorem Wrote.firmOut {a : Nat} {l : List Byte} {s t : State} (h : Wrote a l s t) : t.firmOut = s.firmOut := by
  obtain ⟨_, _, _, _, _, _, rfl⟩ := h.only; rfl

theorem Wrote.spaces {a : Nat} {l : List Byte} {s t : State} (h : Wrote a l s t) : t.spaces = s.spaces := by
  obtain ⟨_, _, _, _, _, _, rfl⟩ := h.only; rfl

/-! ### Identity -/

theorem ident_completes (q : HostCmd) {s : State} (h : Accepts s) : ∃ t, execIdent q s = .next t ∧ OnlyFw s t ∧
    Completes q 1 0 0x9A1536 (identityBytes 0 16 ++ leBytes 8 (Config.pkg * 8) ++
      (List.range 24).map fun i => Config.sha512 (identityBytes 208 520) i) s t := by
  refine ⟨_, exec_up h rfl, rfl, ?_⟩
  have hk : keyDigest.take 24 = (List.range 24).map fun i => Config.sha512 (identityBytes 208 520) i := by
    rw [keyDigest, ← List.map_take, List.take_range]
    rfl
  rw [← hk]
  rfl

theorem report_length {nonce : List Byte} (h : nonce.length = 32) : (report nonce).length = 1224 := by
  simp [report, h, partName, identityBytes]

theorem attest_writes (q : HostCmd) {nonce : List Byte} {a : Nat} {s : State} (h : Accepts s) (hn : nonce.length = 32) (ha : a < 2 ^ 57)
    (hh : AtHome s a 1224) (hs : Settled s a 1224) : ∃ t, execAttest q nonce a s = .next t ∧
      Completes q 2 0 1224 [] s t ∧ Lands a (report nonce) s t ∧ (report nonce).length = 1224 := by
  have hl := report_length hn
  have hw : Wrote a (report nonce) s (s.fwPut a (report nonce)) := State.fwPut_wrote (by rwa [hl]) (by rwa [hl])
  refine ⟨_, exec_else h rfl (by omega), ?_⟩
  rw [State.finish, finishDrop_completes (hw.firmOut.trans h.2)]
  exact ⟨completes_of hw.outbox .., hw.lands, hl⟩

/-! ### Images -/

/-- An image that lies in one page. -/
theorem imagePages_one {d : Dword} {n : Nat} (h0 : 0 < n) (h : fld d 0 16 + n ≤ 65536) :
    imagePages (fld d 0 57) n = [(fld d 16 41, fld d 0 16, n)] := by
  have hp : fld d 0 57 / 65536 = fld d 16 41 := by unfold fld nbits; omega
  have ho : fld d 0 57 % 65536 = fld d 0 16 := by unfold fld nbits; omega
  unfold imagePages
  rw [if_neg (by omega), show (fld d 0 57 + n - 1) / 65536 - fld d 0 57 / 65536 + 1 = 1 by omega]
  simp only [List.range_one, List.map_cons, List.map_nil, hp, List.cons.injEq, Prod.mk.injEq, and_true]
  omega

/-- A page that is found for more bytes is found for fewer. -/
theorem State.loadPage_le {s : State} {asn page plane m n fe : Nat} (h : s.loadPage asn page plane n = .ok fe) (hm : m ≤ n) :
    s.loadPage asn page plane m = .ok fe := by
  unfold State.loadPage at *
  split at h
  · cases h
  · cases h
  · next e pe fe' he =>
    split at h
    · cases h
    · next hc =>
      rw [if_neg fun hc' => hc (hc'.imp (fun x => by omega) id)]
      exact h

theorem State.sourceBytes_length (s : State) (x : Source) (n : Nat) : (s.sourceBytes x n).length = n := by
  unfold State.sourceBytes
  split <;> simp [State.homeBytes]

/-- An empty image is written at once. -/
theorem loadimg_empty (q : HostCmd) {asn : Nat} {d : Dword} {x : Source} (l : List PageSupply) {s : State} (h : Accepts s)
    (hd : fld d 57 3 = 0) (ha : asn < 4096) (hx : x.fpa < 2 ^ 57) :
    ∃ t, execLoadimg q asn d x 0 l s = .next t ∧ Declined q 3 0 0 s t := by
  refine ⟨s.complete q 3 0 0 [], ?_, rfl, rfl⟩
  refine (exec_else h rfl (by omega)).trans (congrArg Host.Outcome.next ?_)
  simp [imagePages, State.supplyAllPages, State.writeImage, State.finish, finishDrop_completes h.2]

/-- An image that lies in one page whose frame is there is written to it. -/
theorem loadimg_writes (q : HostCmd) {asn : Nat} {d : Dword} {x : Source} {n : Nat} (l : List PageSupply) {s : State} (h : Accepts s)
    (hd : fld d 57 3 = 0) (ha : asn < 4096) (hx : x.fpa < 2 ^ 57) (hn : n ≤ 2 ^ 32) {fe : Nat} (h0 : 0 < n)
    (h1 : fld d 0 16 + n ≤ 65536) (hg : fld d 16 41 < 2 ^ 41)
    (hp : s.loadPage asn (fld d 16 41) (fld d 60 4) (fld d 0 16 + n) = .ok fe) (hf : nbits fe 57 1 = 1)
    (hh : AtHome s (nbits fe 0 57 + fld d 0 16) n) (hs : Settled s (nbits fe 0 57 + fld d 0 16) n) :
    ∃ t, execLoadimg q asn d x n l s = .next t ∧ Completes q 3 0 0 [] s t ∧
      Lands (nbits fe 0 57 + fld d 0 16) (s.sourceBytes x n) s t := by
  have hp0 := State.loadPage_le hp (Nat.zero_le _)
  have hl := s.sourceBytes_length x n
  have hw : Wrote (nbits fe 0 57 + fld d 0 16) (s.sourceBytes x n) s (s.fwPut (nbits fe 0 57 + fld d 0 16) (s.sourceBytes x n)) :=
    State.fwPut_wrote (by rwa [hl]) (by rwa [hl])
  refine ⟨(s.fwPut (nbits fe 0 57 + fld d 0 16) (s.sourceBytes x n)).complete q 3 0 0 [], ?_, completes_of hw.outbox .., hw.lands⟩
  refine (exec_else h rfl (by omega)).trans (congrArg Host.Outcome.next ?_)
  have ht : (s.sourceBytes x n).take n = s.sourceBytes x n := List.take_of_length_le hl.le
  have hg' : ¬ 2199023255552 ≤ fld d 16 41 := by omega
  simp [imagePages_one h0 h1, hg', hp, State.supplyAllPages, State.writeImage, hp0, hf, State.finish, ht,
    finishDrop_completes (hw.firmOut.trans h.2)]

/-! ### Tables -/

/-- An address space changed: its caches drop what they hold of it (R43). -/
theorem State.updSpace_serves (s : State) (asn : Nat) (f : Space → Space) : Serves s (s.updSpace asn f) := by
  refine ⟨fun u => ?_, fun n c => { c with pages := c.pages.filter fun x => x / 2 ^ 41 != asn
                                           frames := c.frames.filter fun x => x / 16 / 2 ^ 41 != asn },
    fun n c => ⟨rfl, fun x h => (List.mem_filter.1 h).1, fun x h => (List.mem_filter.1 h).1, fun _ h => h⟩, rfl⟩
  simp only [State.updSpace, State.dropSpace, State.stack, vmap, Vector.getElem_ofFn]
  exact ⟨rfl, fun _ => rfl, fun l hl => ⟨l, hl, rfl⟩, fun _ h => h⟩

theorem State.updSpace_l2 (s : State) (asn : Nat) (f : Space → Space) (u : Nat) :
    ((s.updSpace asn f).stack u).l2 = (s.stack u).l2 := by
  simp [State.updSpace, State.dropSpace, State.stack, vmap]

@[simp] theorem State.updSpace_space (s : State) (asn : Nat) (f : Space → Space) :
    (s.updSpace asn f).space asn = f (s.space asn) := assocGet_set_same ..

theorem State.updSpace_space_ne (s : State) {asn m : Nat} (h : m ≠ asn) (f : Space → Space) :
    (s.updSpace asn f).space m = s.space m := assocGet_set_ne h ..

theorem State.updSpace_firmOut {s : State} (asn : Nat) (f : Space → Space) (h : s.firmOut = false) :
    (s.updSpace asn f).firmOut = false := by
  unfold State.firmOut at *
  rw [List.any_eq_false] at *
  exact fun r hr => h r (List.mem_filter.1 hr).1

/-- No core's caches hold anything of an address space. -/
def Dropped (asn : Nat) (s t : State) : Prop := ∀ n, (∀ y ∈ (t.core n).pages, y / 2 ^ 41 ≠ asn ∧ y ∈ (s.core n).pages) ∧
  ∀ y ∈ (t.core n).frames, y / 16 / 2 ^ 41 ≠ asn ∧ y ∈ (s.core n).frames

theorem State.updSpace_dropped (s : State) (asn : Nat) (f : Space → Space) : Dropped asn s (s.updSpace asn f) := by
  intro n
  exact assocGet_map (R := fun c d : Core => (∀ y ∈ d.pages, y / 2 ^ 41 ≠ asn ∧ y ∈ c.pages) ∧
      ∀ y ∈ d.frames, y / 16 / 2 ^ 41 ≠ asn ∧ y ∈ c.frames)
    (fun _ c => { c with pages := c.pages.filter fun x => x / 2 ^ 41 != asn
                         frames := c.frames.filter fun x => x / 16 / 2 ^ 41 != asn }) n
    (by simp [Core.reset]) (fun c => by simp +contextual) s.cores

theorem Dropped.less {asn : Nat} {s t u : State} (h : Dropped asn s t) (g : CoresLess t u) : Dropped asn s u :=
  fun n => ⟨fun y hy => (h n).1 y ((g.core n).pages hy), fun y hy => (h n).2 y ((g.core n).frames hy)⟩

/-- The base of an address space set, without a descriptor. -/
theorem psetdesc_sets (q : HostCmd) {asn b k : Nat} {x : Source} {s : State} (h : Accepts s) (ha : asn < 4096) (hb : b < 2 ^ 57)
    (hb' : b % 256 = 0) (hk : k < 4096) (hx : x.fpa < 2 ^ 57)
    (hm : x.fpa = 0 ∨ (ownFpa (b + 256 * k) = true ∧ AtHome s (b + 256 * k) 256 ∧ Settled s (b + 256 * k) 256)) :
    ∃ t, execPsetdesc q asn b k x s = .next t ∧ Completes q 4 0 0 [] s t ∧ t.space asn = { s.space asn with base := some b } ∧
      (∀ m, m ≠ asn → t.space m = s.space m) ∧ Dropped asn s t ∧ (x.fpa = 0 → SameMem s t) ∧
      (x.fpa ≠ 0 → Lands (b + 256 * k) (s.sourceBytes x 256) s t) := by
  have hv := s.updSpace_firmOut asn (fun x => { x with base := some b }) h.2
  have hd := s.updSpace_dropped asn fun x => { x with base := some b }
  have hs := s.updSpace_space asn fun x => { x with base := some b }
  have hn := fun m (e : m ≠ asn) => s.updSpace_space_ne e fun x => { x with base := some b }
  have hg := s.updSpace_serves asn fun x => { x with base := some b }
  have hl2 := s.updSpace_l2 asn fun x => { x with base := some b }
  refine ⟨_, exec_else h rfl (by omega), ?_⟩
  dsimp only
  by_cases h0 : x.fpa = 0
  · rw [if_pos h0, finishDrop_completes hv]
    exact ⟨completes_of rfl .., hs, hn, hd, fun _ _ => rfl, fun e => absurd h0 e⟩
  · obtain ⟨-, hh, hq⟩ := hm.resolve_left h0
    have hl := s.sourceBytes_length x 256
    have hw := State.fwPut_wrote (l := s.sourceBytes x 256) (by rw [hl]; exact atHome_of_serves hh hg hh.1)
      (by rw [hl]; exact settled_of_serves hq hg hl2)
    rw [if_neg h0, finishDrop_completes (hw.firmOut.trans hv)]
    refine ⟨completes_of hw.outbox .., ?_, fun m e => ?_, hd.less hw.serves.cores, fun e => absurd e h0, fun _ => hw.lands⟩
    · rw [← hs]; exact congrArg (assocGet asn _) hw.spaces
    · rw [← hn m e]; exact congrArg (assocGet m _) hw.spaces

theorem ptroot_sets (q : HostCmd) {asn r : Nat} {s : State} (h : Accepts s) (ha : asn < 4096) (hr : r < 2 ^ 57) (hr' : r % 16384 = 0) :
    ∃ t, execPtroot q asn r s = .next t ∧ Completes q 5 0 0 [] s t ∧ SameMem s t ∧
      t.space asn = { s.space asn with root := some r } ∧ (∀ m, m ≠ asn → t.space m = s.space m) ∧ Dropped asn s t :=
  ⟨_, exec_else h rfl (by omega), completes_of rfl .., fun _ => rfl, s.updSpace_space asn fun x => { x with root := some r },
    fun _ e => s.updSpace_space_ne e fun x => { x with root := some r }, s.updSpace_dropped asn fun x => { x with root := some r }⟩

/-! ### Tensor handles -/

/-- A group whose home page 0 is pinned, or resident and in no swap, so that a pin takes it at once (R266). -/
def Pinnable (s : State) (t g : Nat) : Prop :=
  ((s.stack t).remapOf g).pin = true ∨ (((s.stack t).remapOf g).res = 0 ∧ ∀ w ∈ (s.stack t).swaps, w.group ≠ g)

theorem Stack.remapOf_of_set {x y : Stack} {g : Nat} {r : Remap} (h : y.remap = assocSet g r x.remap) (g' : Nat) :
    y.remapOf g' = if g' = g then r else x.remapOf g' := by
  unfold Stack.remapOf
  rw [h]
  split
  · next e => rw [e, assocGet_set_same]
  · next e => rw [assocGet_set_ne e]

/-- A base die after a group that can be pinned at once has been. -/
def Stack.pinNow (x : Stack) (g : Nat) : Stack :=
  if (x.remapOf g).pin then x
  else { x with swaps := x.swaps.filter (fun w => w.group != g), remap := assocSet g { x.remapOf g with pin := true } x.remap }

theorem Stack.pinNow_pin (x : Stack) (g : Nat) : ((x.pinNow g).remapOf g).pin = true := by
  unfold Stack.pinNow
  split
  · assumption
  · rw [Stack.remapOf_of_set rfl, if_pos rfl]

theorem Stack.pinNow_remapOf_ne (x : Stack) {g g' : Nat} (h : g' ≠ g) : (x.pinNow g).remapOf g' = x.remapOf g' := by
  unfold Stack.pinNow
  split
  · rfl
  · rw [Stack.remapOf_of_set (x := x) rfl, if_neg h]

theorem Stack.pinNow_swaps (x : Stack) (g : Nat) {w : SwapRec} (h : w ∈ (x.pinNow g).swaps) : w ∈ x.swaps := by
  unfold Stack.pinNow at h
  split at h
  · exact h
  · exact (List.mem_filter.1 h).1

/-- A group that a pin asks for is pinned at once where it can be. -/
theorem State.settlePin_stack {s : State} {t g : Nat} (hp : 0 < assocGet g 0 (s.stack t).pins) (h : Pinnable s t g) :
    (s.settlePin t g).stack t = (s.stack t).pinNow g := by
  unfold State.settlePin Stack.pinNow
  by_cases hr : ((s.stack t).remapOf g).pin = true
  · simp [hp, hr]
  · obtain ⟨h0, hw⟩ := h.resolve_left hr
    have ha : ((s.stack t).swaps.any fun w => w.group == g && w.running) = false := by
      rw [List.any_eq_false]
      intro w hm
      simp [hw w hm]
    simp [hp, hr, ha, h0]

/-- One more pin of a group that can take it: the group is pinned, the others as before, and each that could take one still can. -/
theorem State.pinOne (s : State) {t g : Nat} (h : Pinnable s t g) :
    let u := (s.updStack t fun x => { x with pins := assocSet g (assocGet g 0 x.pins + 1) x.pins }).settlePin t g
    ((u.stack t).remapOf g).pin = true ∧ (∀ g', ((s.stack t).remapOf g').pin = true → ((u.stack t).remapOf g').pin = true) ∧
      ∀ g', Pinnable s t g' → Pinnable u t g' := by
  intro u
  have hx : u.stack t = Stack.pinNow { s.stack t with pins := assocSet g (assocGet g 0 (s.stack t).pins + 1) (s.stack t).pins } g := by
    refine (State.settlePin_stack ?_ ?_).trans ?_
    · rw [stack_updStack, assocGet_set_same]; omega
    · unfold Pinnable; rw [stack_updStack]; exact h
    · rw [stack_updStack]
  have h1 : ((u.stack t).remapOf g).pin = true := by rw [hx]; exact Stack.pinNow_pin ..
  have h2 (g') (e : g' ≠ g) : (u.stack t).remapOf g' = (s.stack t).remapOf g' := by rw [hx, Stack.pinNow_remapOf_ne _ e]; rfl
  refine ⟨h1, fun g' hg => ?_, fun g' hg => ?_⟩ <;> by_cases e : g' = g
  · rw [e, h1]
  · rw [h2 g' e, hg]
  · exact .inl (by rw [e, h1])
  · unfold Pinnable
    rw [h2 g' e]
    refine hg.imp id fun h => ⟨h.1, fun w hw => ?_⟩
    rw [hx] at hw
    have hs := Stack.pinNow_swaps _ g hw
    exact h.2 w hs

/-- Every page of an extent that can be pinned at once is. -/
theorem State.pinExtent_pinned {s : State} {t l n : Nat} (h : ∀ g ∈ pinGroups l n, Pinnable s t g) :
    (s.pinExtent t true l n).pinned t l n = true := by
  have key (k : List Nat) (s : State) (done : List Nat) (hk : ∀ g ∈ k, Pinnable s t g)
      (hd : ∀ g ∈ done, ((s.stack t).remapOf g).pin = true) :
      ∀ g ∈ done ++ k, (((k.foldl (fun s g => (s.updStack t fun x =>
        { x with pins := assocSet g (assocGet g 0 x.pins + 1) x.pins }).settlePin t g) s).stack t).remapOf g).pin = true := by
    induction k generalizing s done with
    | nil => simpa using hd
    | cons g r ih =>
      obtain ⟨h1, h2, h3⟩ := s.pinOne (hk g (List.mem_cons_self ..))
      have := ih _ (done ++ [g]) (fun x hx => h3 x (hk x (List.mem_cons_of_mem _ hx))) fun x hx => by
        rcases List.mem_append.1 hx with hx | hx
        · exact h2 x (hd x hx)
        · rw [List.mem_singleton.1 hx]; exact h1
      simpa using this
  unfold State.pinned
  rw [List.all_eq_true]
  intro g hg
  exact key (pinGroups l n) s [] h (fun _ h => nomatch h) g (by simpa using hg)

/-- A handle replaced on a stack. -/
theorem State.handleOf_set (s : State) (k m : Nat) (h : Handle) (hm : h.num = m) :
    let u := s.updStack k fun t => { t with handles := (t.handles.filter fun x => x.num != m) ++ [h] }
    u.handleOf k m = some h ∧ ∀ m', m' ≠ m → u.handleOf k m' = s.handleOf k m' := by
  intro u
  subst hm
  constructor
  · have hn : ((s.stack k).handles.filter fun x => x.num != h.num).find? (fun x => x.num == h.num) = none :=
      List.find?_eq_none.2 fun x hx => by simpa using (List.mem_filter.1 hx).2
    simp [u, State.handleOf, List.find?_append, hn]
  · intro m' h'
    have hf : ((s.stack k).handles.filter fun x => x.num != h.num).find? (fun x => x.num == m') =
        (s.stack k).handles.find? fun x => x.num == m' := by
      rw [List.find?_filter]
      congr 1
      funext x
      by_cases e : x.num = m' <;> simp [e, h']
    simp [u, State.handleOf, List.find?_append, hf, Ne.symm h']

theorem StkSame.handleOf {s t : State} (h : StkSame s t) (k m : Nat) : t.handleOf k m = s.handleOf k m := by
  unfold State.handleOf
  rw [(h.stack k).handles]

theorem handle_installs (q : HostCmd) {k m asn : Nat} {d : BitVec 512} {s : State} (h : Accepts s) (hk : k < 8) (hm : m < 4096)
    (ha : asn < 4096) (hd : descBad d = false) :
    let y : Handle := { num := m, asn := BitVec.ofNat 12 asn, desc := if fld d 56 8 = 0 then setFld d 56 8 127 else d }
    ∃ t, execHandle q k m asn d s = .next t ∧ SameMem s t ∧ t.cores = s.cores ∧
      (∀ m', m' ≠ m → t.handleOf k m' = s.handleOf k m') ∧ t.handleOf k m = some y ∧
      (Completes q 6 0 0 [] s t ∨ (t.outbox = s.outbox ∧ WaitCmd.pinning q k m ∈ t.fw.waiting)) ∧
      (s.handleOf k m = none → (∀ g ∈ pinGroups (fld y.desc 0 45) y.bytes, Pinnable s k g) → Completes q 6 0 0 [] s t) := by
  intro y
  let s1 := match s.handleOf k m with
    | some o => s.pinExtent k false (fld o.desc 0 45) o.bytes
    | none => s
  have h1 : StkSame s s1 := by
    unfold s1
    split
    · exact State.pinExtent_same ..
    · exact .refl s
  let s2 := s1.pinExtent k true (fld y.desc 0 45) y.bytes
  have h2 : StkSame s s2 := h1.trans (State.pinExtent_same ..)
  let u := s2.updStack k fun t => { t with handles := (t.handles.filter fun x => x.num != m) ++ [y] }
  obtain ⟨hs, hn⟩ := s2.handleOf_set k m y rfl
  have he : execHandle q k m asn d s = .next (if u.pinned k (fld y.desc 0 45) y.bytes then u.complete q 6 0 0 []
      else { u with fw := { u.fw with waiting := u.fw.waiting ++ [.pinning q k m] } }) := exec_else h rfl (by simp [hd]; omega)
  have hh (m') (e : m' ≠ m) : u.handleOf k m' = s.handleOf k m' := (hn m' e).trans (h2.handleOf k m')
  have hu : s2.mem = s.mem ∧ s2.cores = s.cores ∧ s2.outbox = s.outbox := by
    obtain ⟨_, _, _, e⟩ := h2.only
    rw [e]
    exact ⟨rfl, rfl, rfl⟩
  obtain ⟨hmem, hc, ho⟩ := hu
  have hm : SameMem s u := fun a => congrArg (readByte a) hmem
  replace ho : u.outbox = s.outbox := ho
  by_cases hp : u.pinned k (fld y.desc 0 45) y.bytes = true
  · rw [if_pos hp] at he
    have := completes_of ho q 6 0 0 []
    exact ⟨_, he, hm, hc, hh, hs, .inl this, fun _ _ => this⟩
  · rw [if_neg hp] at he
    refine ⟨_, he, hm, hc, hh, hs, .inr ⟨ho, List.mem_append_right _ (List.mem_singleton_self _)⟩, fun hnone hg => absurd ?_ hp⟩
    have hs1 : s1 = s := by unfold s1; rw [hnone]
    have := State.pinExtent_pinned (s := s) (t := k) (l := fld y.desc 0 45) (n := y.bytes) hg
    unfold State.pinned at *
    rw [← hs1] at this
    simpa [u, Stack.remapOf] using this

/-! ### Contexts and flags -/

theorem mbxwrite_sets (q : HostCmd) {w : Dword} (v : Dword) {s : State} (h : Accepts s) (hb : mbxBad w = false)
    (ha : s.alive (fld w 0 11) (fld w 12 2) = true) : let n := fld w 0 11
    let k := fld w 12 2
    ∃ t, execMbxwrite q w v s = .next t ∧ Completes q 11 0 0 [] s t ∧ SameMem s t ∧
      (∀ m, m ≠ n → t.core m = s.core m) ∧ (t.ctx n k).arch = { (s.ctx n k).arch with mb := (t.ctx n k).arch.mb } ∧
      (t.ctx n k).arch.mb.toList = (s.ctx n k).arch.mb.toList.set (fld w 16 3) v ∧
      (t.core n).flgNew = (s.core n).flgNew ||| (if fld w 24 1 = 1 then BitVec.ofNat 64 (2 ^ fld w 26 6) else 0) := by
  intro n k
  let s1 := s.updCtx n k fun x => x.changeAll fun a => { a with mb := a.mb.set (fld w 16 3) v (by unfold fld nbits; omega) }
  let s2 := if fld w 24 1 = 1 then s1.updCore n fun c => c.setFlags (BitVec.ofNat 64 (2 ^ fld w 26 6)) else s1
  have he : execMbxwrite q w v s = .next (s2.complete q 11 0 0 []) := by
    refine (exec_else h rfl (by simp [hb])).trans (congrArg Host.Outcome.next ?_)
    exact if_neg (by simp [ha])
  have hx : s2.ctx n k = s1.ctx n k ∧ s2.mem = s.mem ∧ s2.outbox = s.outbox ∧ (∀ m, m ≠ n → s2.core m = s.core m) ∧
      (s2.core n).flgNew = (s.core n).flgNew ||| (if fld w 24 1 = 1 then BitVec.ofNat 64 (2 ^ fld w 26 6) else 0) := by
    unfold s2
    split
    · exact ⟨by simp [State.ctx, Core.setFlags, Core.ctx], rfl, rfl, fun m e => by rw [core_updCore_ne _ e, core_updCtx_ne s e],
        by simp [s1, Core.setFlags]⟩
    · exact ⟨rfl, rfl, rfl, fun m e => core_updCtx_ne s e .., by simp [s1]⟩
  obtain ⟨hctx, hmem, hout, hne, hfl⟩ := hx
  have h1 : s1.ctx n k = (s.ctx n k).changeAll fun a => { a with mb := a.mb.set (fld w 16 3) v (by unfold fld nbits; omega) } :=
    ctx_updCtx ..
  refine ⟨_, he, completes_of hout .., fun a => congrArg (readByte a) hmem, hne, ?_, ?_, hfl⟩
  · change (s2.ctx n k).arch = { (s.ctx n k).arch with mb := (s2.ctx n k).arch.mb }
    rw [hctx, h1]
    rfl
  · change (s2.ctx n k).arch.mb.toList = _
    rw [hctx, h1]
    simp [Ctx.changeAll, Vector.toList_set]

theorem flagset_sets (q : HostCmd) {n : Nat} (m : Dword) {s : State} (h : Accepts s) (hn : n < 1536) :
    ∃ t, execFlagset q n m s = .next t ∧ Completes q 12 0 0 [] s t ∧ SameMem s t ∧
      (∀ j, j ≠ n → t.core j = s.core j) ∧ t.core n = { s.core n with flgNew := (s.core n).flgNew ||| m } :=
  ⟨_, exec_else h rfl (by simp [coreExists, hn]), completes_of rfl .., fun _ => rfl, fun _ e => core_updCore_ne s e fun c => c.setFlags m,
    core_updCore s n fun c => c.setFlags m⟩

/-! ### Groups, weights, counters, power -/

/-- Byte pairs of numbers below 2^16 read back. -/
theorem pairs_of_leBytes {l : List Nat} (hl : ∀ m ∈ l, m < 65536) : (List.range l.length).map (fun i =>
    ((l.flatMap (leBytes 2)).getD (2 * i) 0).toNat + ((l.flatMap (leBytes 2)).getD (2 * i + 1) 0).toNat * 256) = l := by
  induction l with
  | nil => rfl
  | cons m r ih =>
    have hm := hl m (List.mem_cons_self ..)
    rw [List.length_cons, List.range_succ_eq_map, List.map_cons, List.map_map]
    congr 1
    · simp [leBytes]; omega
    · exact ih fun x hx => hl x (List.mem_cons_of_mem _ hx)

theorem collcfg_defines (q : HostCmd) {g p : Nat} {x : Source} {s : State} (h : Accepts s) (hg : g < 4096) (h2 : 2 ≤ p) (hp : p ≤ 4096)
    (hx : x.fpa < 2 ^ 57) {l : List Nat} (hl : l.length = p) (hm : ∀ m ∈ l, m < 4096)
    (hb : s.sourceBytes x (2 * p) = l.flatMap (leBytes 2)) : ∃ t, execCollcfg q g p x s = .next t ∧ Completes q 16 0 0 [] s t ∧
      SameMem s t ∧ t.cores = s.cores ∧ t.group g = some { num := g, members := l, dropped := none, runs := [] } ∧
      ∀ m, m ≠ g → t.group m = s.group m := by
  have hpm : min p 4096 = p := by omega
  have hmem : (List.range p).map (fun i => ((s.sourceBytes x (2 * p)).getD (2 * i) 0).toNat +
      ((s.sourceBytes x (2 * p)).getD (2 * i + 1) 0).toNat * 256) = l := by
    rw [hb, ← hl]
    exact pairs_of_leBytes fun m h => by have := hm m h; omega
  have hbad : (l.any fun m => decide (4096 ≤ m)) = false := by
    rw [List.any_eq_false]
    intro m h
    simpa using hm m h
  let gs : List CollGroup := (s.groups.filter fun y : CollGroup => y.num != g) ++ [{ num := g, members := l, dropped := none, runs := [] }]
  have he : execCollcfg q g p x s = .next ({ s with
      groups := gs, collEarly := s.collEarly.filter fun (c : Nat × RingCell) => collGroup c.2 != g : State }.complete q 16 0 0 []) := by
    refine (exec_else h rfl ?_).trans (congrArg Host.Outcome.next ?_)
    · rw [hpm, hmem, hbad]; simp; omega
    · dsimp only; rw [hpm, hmem]
  refine ⟨_, he, completes_of rfl .., fun _ => rfl, rfl, ?_, fun m hg => ?_⟩
  · have hn : (s.groups.filter fun y : CollGroup => y.num != g).find? (fun y => y.num == g) = none :=
      List.find?_eq_none.2 fun y hy => by simpa using (List.mem_filter.1 hy).2
    change gs.find? _ = _
    simp [gs, List.find?_append, hn]
  · have hf : (s.groups.filter fun y : CollGroup => y.num != g).find? (fun y => y.num == m) = s.groups.find? fun y => y.num == m := by
      rw [List.find?_filter]
      congr 1
      funext y
      by_cases e : y.num = m <;> simp [e, hg]
    change gs.find? _ = s.groups.find? _
    simp [gs, List.find?_append, hf, Ne.symm hg]

theorem arbset_sets (q : HostCmd) {a w : Dword} {s : State} (h : Accepts s) (ha : fld a 24 40 = 0) (h0 : 0 < w.toNat)
    (h1 : w.toNat ≤ 15) : ∃ t, execArbset q a w s = .next t ∧ OnlyFw s t ∧ Completes q 17 0 0 [] s t ∧
      t.fw.arbw = a ∧ t.fw.swt = w.toNat :=
  ⟨_, exec_else h rfl (by omega), rfl, rfl, rfl, rfl⟩

theorem ctrsel_sets (q : HostCmd) {k c r : Nat} (en : Bool) {s : State} (h : Accepts s) (hk : k < 8) (hc : c < 32) (h0 : 0 < r)
    (hr : r ≤ 12) : ∃ t, execCtrsel q k c r en s = .next t ∧ Completes q 18 0 0 [] s t ∧ SameMem s t ∧ t.cores = s.cores ∧
      ∀ d j, assocGet j d (t.stack k).ctrs = if j = c then { src := r, en := en, val := 0 } else assocGet j d (s.stack k).ctrs := by
  refine ⟨_, exec_else h rfl (by omega), completes_of rfl .., fun _ => rfl, rfl, fun d j => ?_⟩
  have hs : ∀ u : State, ((u.complete q 18 0 0 []).stack k) = u.stack k := fun _ => rfl
  rw [hs, stack_updStack]
  split
  · next e => rw [e, assocGet_set_same]
  · next e => exact assocGet_set_ne e ..

theorem ctrread_reports (q : HostCmd) {k f n : Nat} {s : State} (h : Accepts s) (hk : k < 8) (h0 : 0 < n) (h1 : n ≤ 30)
    (hf : f + n ≤ 32) : ∃ t, execCtrread q k f n s = .next t ∧ OnlyFw s t ∧ Completes q 19 0 0
      ((List.range n).flatMap fun i => leBytes 8 (assocGet (f + i) { src := 0, en := false, val := 0 } (s.stack k).ctrs).val) s t :=
  ⟨_, exec_else h rfl (by omega), rfl, rfl⟩

theorem plystat_reports (q : HostCmd) {k : Nat} {s : State} (h : Accepts s) (hk : k < 8) :
    ∃ t l, execPlystat q k s = .next t ∧ OnlyFw s t ∧ Completes q 21 0 0 l s t ∧
      l.length = 96 ∧ ∀ i, i < 192 → (l.getD (i / 2) 0).toNat / 2 ^ (4 * (i % 2)) % 16 = (s.core (192 * k + i)).ply.toNat := by
  refine ⟨_, _, exec_else h rfl (by omega), rfl, rfl, by simp, fun i hi => ?_⟩
  have hp (n : Nat) : (s.core n).ply.toNat < 16 := (s.core n).ply.isLt
  have h2 : i / 2 < 96 := by omega
  have e0 := hp (k * 192 + 2 * (i / 2))
  have e1 := hp (k * 192 + 2 * (i / 2) + 1)
  rcases Nat.mod_two_eq_zero_or_one i with e | e
  · rw [e, show 192 * k + i = k * 192 + 2 * (i / 2) by omega]
    simp [h2]
    omega
  · rw [e, show 192 * k + i = k * 192 + 2 * (i / 2) + 1 by omega]
    simp [h2]
    omega

theorem powercap_sets (q : HostCmd) {l : Nat} (t' d : Nat) {s : State} (h : Accepts s) (h0 : 1200 ≤ l) (h1 : l ≤ 3600) :
    ∃ t, execPowercap q l t' d s = .next t ∧ OnlyFw s t ∧ Completes q 22 0 l [] s t ∧
      t.fw.limit = l ∧ t.fw.wt = t' ∧ t.fw.wd = d :=
  ⟨_, exec_else h rfl (by omega), rfl, rfl, rfl, rfl, rfl⟩

/-! ### The obligation -/

/-- Settles O52, command by command. -/
theorem firmwareTables : Obligations.FirmwareTables := by
  intro q s h no dropped
  refine ⟨ident_completes q h, fun nonce a => ⟨?_, ?_⟩, fun asn d x n l => ⟨?_, fun hd ha hx hn => ⟨?_, ?_⟩⟩,
    fun asn b k x => ⟨?_, ?_⟩, fun asn r => ⟨?_, ?_⟩, fun k m asn d => ⟨?_, ?_⟩, fun w v => ⟨?_, ?_, ?_⟩, fun n m => ⟨?_, ?_⟩,
    fun g p x => ⟨?_, ?_⟩, fun a w => ⟨?_, ?_⟩, fun k c r en => ⟨?_, ?_⟩, fun k f n => ⟨?_, ?_⟩, fun k => ⟨?_, ?_⟩,
    fun l t' d => ⟨?_, ?_⟩⟩
  · exact declined_of (o := execAttest q nonce a s) h rfl
  · exact fun hn ha _ hh hs => attest_writes q h hn ha hh hs
  · exact declined_of (o := execLoadimg q asn d x n l s) h rfl
  · rintro rfl; exact loadimg_empty q l h hd ha hx
  · exact fun fe h0 h1 hg hp hf _ hh hs => loadimg_writes q l h hd ha hx hn h0 h1 hg hp hf hh hs
  · exact declined_of (o := execPsetdesc q asn b k x s) h rfl
  · exact fun ha hb hb' hk hx hm => psetdesc_sets q h ha hb hb' hk hx hm
  · exact declined_of (o := execPtroot q asn r s) h rfl
  · exact fun ha hr hr' => ptroot_sets q h ha hr hr'
  · exact declined_of (o := execHandle q k m asn d s) h rfl
  · exact fun hk hm ha hd => handle_installs q h hk hm ha hd
  · exact declined_of (o := execMbxwrite q w v s) h rfl
  · exact fun hb ha => ⟨s.complete q 11 4 0 [], (exec_else (o := execMbxwrite q w v s) h rfl (by simp [hb])).trans
      (congrArg Host.Outcome.next (if_pos (by simp [ha]))), rfl, rfl⟩
  · exact fun hb ha => mbxwrite_sets q v h hb ha
  · exact fun hn => declined_of (o := execFlagset q n m s) h rfl (by simpa [coreExists] using hn)
  · exact fun hn => flagset_sets q m h hn
  · exact fun hc => declined_of (o := execCollcfg q g p x s) h rfl (by tauto)
  · exact fun hg h2 hp hx l hl hm hb => collcfg_defines q h hg h2 hp hx hl hm hb
  · exact declined_of (o := execArbset q a w s) h rfl
  · exact fun ha h0 h1 => arbset_sets q h ha h0 h1
  · exact declined_of (o := execCtrsel q k c r en s) h rfl
  · exact fun hk hc h0 hr => ctrsel_sets q en h hk hc h0 hr
  · exact declined_of (o := execCtrread q k f n s) h rfl
  · exact fun hk h0 h1 hf => ctrread_reports q h hk h0 h1 hf
  · exact declined_of (o := execPlystat q k s) h rfl
  · exact fun hk => plystat_reports q h hk
  · exact declined_of (o := execPowercap q l t' d s) h rfl
  · exact fun h0 h1 => powercap_sets q t' d h h0 h1

end Sys2Proof.Machine
end

section
/-!
PROOF. Requests of other peers at their home (O48).
-/

namespace Sys2Proof.Machine

/-! ### Events and cells that come -/

theorem mem_insertSched (t : Nat) (i : Instr) (l : List (Nat × Instr)) : (t, i) ∈ insertSched t i l := by
  induction l with
  | nil => exact List.mem_singleton_self _
  | cons p r ih =>
    unfold insertSched
    split
    · exact List.mem_cons_self ..
    · exact List.mem_cons_of_mem _ ih

/-- A cell that arrives some time on comes then. -/
theorem State.arriveCell_comes (s : State) (d : Nat) {c : RingCell} {i : Instr} (h : arrivalOf c = some i) :
    s.arriveCell d c = s.after d i := by
  unfold State.arriveCell
  rw [h]

theorem State.arriveCell_only (s : State) (d : Nat) (c : RingCell) : ∃ e f, s.arriveCell d c = { s with sched := e, fw := f } := by
  unfold State.arriveCell
  split
  · exact ⟨_, _, rfl⟩
  · split <;> exact ⟨_, _, rfl⟩

theorem State.notice_only (s : State) (cmd res : Nat) : ∃ o, s.notice cmd res = { s with outbox := o } := by
  unfold State.notice
  split <;> exact ⟨_, rfl⟩

theorem State.fabricNotice_only (s : State) (event dir lvl by_ at_ : Nat) :
    ∃ l o, s.fabricNotice event dir lvl by_ at_ = { s with life := l, outbox := o } := by
  unfold State.fabricNotice
  dsimp only
  split
  · obtain ⟨o, e⟩ := State.notice_only s 0x82 (event + 2 ^ 4 * dir + 2 ^ 5 * lvl + 2 ^ 16 * by_)
    exact ⟨_, o, e⟩
  · obtain ⟨o, e⟩ := State.notice_only (s.lifeLog (event + 2 ^ 4 * dir + 2 ^ 5 * lvl + 2 ^ 16 * by_) (event + 4) 0 0 at_) 0x82
      (event + 2 ^ 4 * dir + 2 ^ 5 * lvl + 2 ^ 16 * by_)
    exact ⟨_, o, e⟩

/-- An escape cell after its 1024th pass is removed: the originator hears of it where it awaits an answer (R378). -/
theorem State.removedHere_sched (s : State) (c : RingCell) :
    (s.removedHere c).sched = if s.carries c then insertSched s.now (.destinationUnreachable c.tag) s.sched else s.sched := by
  unfold State.removedHere
  obtain ⟨l, o, e⟩ := State.fabricNotice_only (if s.carries c then s.after 0 (.destinationUnreachable c.tag) else s) 3 c.dir.toNat 0
    (peerOf (insertedAt c).pos) (peerOf (insertedAt c).pos)
  rw [e]
  split <;> rfl

/-- What a refused cell leaves as it was. -/
theorem State.refuse_only (s : State) (c : RingCell) : ∃ k e f l o,
    s.refuse c = { s with stk := k, sched := e, fw := f, life := l, outbox := o } := by
  unfold State.refuse
  dsimp only
  split
  · split
    · unfold State.removedHere
      obtain ⟨l, o, e⟩ := State.fabricNotice_only (if (s.updStack (c.dst.toNat % 8) fun t => t.count 9 1).carries c then
        (s.updStack (c.dst.toNat % 8) fun t => t.count 9 1).after 0 (.destinationUnreachable c.tag)
        else s.updStack (c.dst.toNat % 8) fun t => t.count 9 1) 3 c.dir.toNat 0 (peerOf (insertedAt c).pos) (peerOf (insertedAt c).pos)
      rw [e]
      split <;> exact ⟨_, _, _, _, _, rfl⟩
    · obtain ⟨d, f, e⟩ := State.arriveCell_only (s.updStack (c.dst.toNat % 8) fun t => t.count 9 1) ringRound
        { c with passes := c.passes + 1 }
      exact ⟨_, _, _, _, _, e⟩
  · split
    · obtain ⟨d, f, e⟩ := State.arriveCell_only (s.updStack (c.dst.toNat % 8) fun t => t.count 9 1) ringRound { c with rfs := 1 }
      exact ⟨_, _, _, _, _, e⟩
    · obtain ⟨d, f, e⟩ := State.arriveCell_only ((s.updStack (c.dst.toNat % 8) fun t => t.count 9 1).updStack (insertedAt c).pos
        fun t => t.count 10 1) (ringTime c.dir (peerOf (insertedAt c).pos) c.dst.toNat +
          ringTime ((s.updStack (c.dst.toNat % 8) fun t => t.count 9 1).escapeAt (insertedAt c) c).dir c.dst.toNat
            (peerOf (insertedAt c).pos)) ((s.updStack (c.dst.toNat % 8) fun t => t.count 9 1).escapeAt (insertedAt c) c)
      exact ⟨_, _, _, _, _, e⟩

/-- A cell that comes some time on is among the events. -/
theorem State.arriveCell_mem_sched {s : State} {now : Nat} (hn : s.now = now) (d : Nat) {c : RingCell} {i : Instr}
    (h : arrivalOf c = some i) : ∃ due, now ≤ due ∧ (due, i) ∈ (s.arriveCell d c).sched := by
  rw [s.arriveCell_comes d h, ← hn]
  exact ⟨s.now + d, Nat.le_add_right .., mem_insertSched ..⟩

/-- A refused cell stays on the ring (R284, R285, R378). -/
theorem refuse_staysOnRing (s : State) (c : RingCell) : StaysOnRing c s (s.refuse c) := by
  have hk : SameMem s (s.refuse c) ∧ (s.refuse c).cores = s.cores ∧ (s.refuse c).reqs = s.reqs := by
    obtain ⟨_, _, _, _, _, e⟩ := s.refuse_only c
    rw [e]
    exact ⟨fun _ => rfl, rfl, rfl⟩
  obtain ⟨hm, hc, hr⟩ := hk
  refine ⟨hm, hc, hr, fun hv h0 i hi => ?_, fun hv h0 i hi => ?_, fun hv hp i hi => ?_, fun hv hp hk => ?_⟩
  · unfold State.refuse
    dsimp only
    rw [if_neg hv, if_pos h0]
    exact State.arriveCell_mem_sched (by rfl) _ hi
  · unfold State.refuse
    dsimp only
    rw [if_neg hv, if_neg h0]
    exact State.arriveCell_mem_sched (by rfl) _ hi
  · unfold State.refuse
    dsimp only
    rw [if_pos hv, if_neg (by omega)]
    exact State.arriveCell_mem_sched (by rfl) _ hi
  · unfold State.refuse
    dsimp only
    rw [if_pos hv, if_pos (by omega), State.removedHere_sched]
    have hk' : (s.updStack (c.dst.toNat % 8) fun t => t.count 9 1).carries c = true := hk
    rw [if_pos hk']
    exact mem_insertSched ..

/-! ### Requests taken -/

/-- A cell address lies in this package, on its destination's stack. -/
theorem cellAddr_div (c : RingCell) : cellAddr c / 2 ^ 45 = peerOf (c.dst.toNat % 8) := by
  have h : c.addr.toNat < 2 ^ 45 := c.addr.isLt
  unfold cellAddr
  omega

theorem ownFpa_cellAddr (c : RingCell) : ownFpa (cellAddr c) = true := by
  unfold ownFpa
  rw [cellAddr_div]
  unfold peerOf
  rw [beq_iff_eq]
  omega

section

variable {c : RingCell} {s : State} {wr : Bool} {n : Nat} {f : State → State}

/-- A request whose answer is kept is answered from the record (R377). -/
theorem takeRequest_kept {r : BitVec 12 × BitVec 16 × RingCell} (h : s.replies.find? (fun r => r.1 == c.src && r.2.1 == c.tag) = some r) :
    takeRequest c true wr n f s = .next (s.send (c.dst.toNat % 8) 0 1 c.src.toNat (.cell r.2.2)) := by
  simp [takeRequest, h]

section

variable (hr : ∀ r ∈ s.replies, r.1 = c.src → r.2.1 ≠ c.tag)
include hr

/-- No answer is kept for a request. -/
theorem find?_replies_none : s.replies.find? (fun r => r.1 == c.src && r.2.1 == c.tag) = none := by
  rw [List.find?_eq_none]
  intro r hm
  simpa using hr r hm

theorem takeRequest_unmapped (hm : localMapped c.addr.toNat = false) : takeRequest c true wr n f s = .fault .unmapped := by
  simp [takeRequest, find?_replies_none hr, hm]

theorem takeRequest_csr (hm : localMapped c.addr.toNat = true) (hc : inCsr (cellAddr c) = true) :
    takeRequest c true true 1 f s = .refused .csrWindow := by
  simp [takeRequest, find?_replies_none hr, hm, csrStop, ownFpa_cellAddr, hc]

/-- A request for a line that a swap holds comes again at the end of the swap (R268). -/
theorem takeRequest_held (hm : localMapped c.addr.toNat = true) (hc : inCsr (cellAddr c) = false)
    (hs : s.slotHeld (lineOf (cellAddr c)) = true) {w : SwapRec} (hw : s.swapOver (lineOf (cellAddr c)) = some w) :
    takeRequest c true wr 1 f s = .next (s.arriveCell (w.ends - s.now) c) := by
  simp [takeRequest, find?_replies_none hr, hm, csrStop, hc, hs, hw]

end

/-- A request that is served. -/
theorem takeRequest_served (h : Served c wr n s) : takeRequest c true wr n f s = .next (f s) := by
  obtain ⟨hr, hm, hm', hc, hs⟩ := h
  simp [takeRequest, find?_replies_none hr, hm, hm', hc, hs]

end

/-- What each of the four requests does where it is served (R193, R282, R363). -/
def requestServe (c : RingCell) : Instr → State → State
  | .readRequest _ _, s => (s.homeAccess (lineOf (cellAddr c / 128 * 128)) false).reply c 1
      ((if s.badLine (lineOf (cellAddr c / 128 * 128)) then List.replicate 128 0
        else if c.xt.getLsbD 0 then (List.range 128).map fun i => s.engHome (cellAddr c / 128 * 128 + i)
        else s.homeBytes (cellAddr c / 128 * 128) 128) ++ poisonMark (s.badLine (lineOf (cellAddr c / 128 * 128))))
  | .write _ _, s => ((s.homeAccess (lineOf (cellAddr c)) true).homePut (cellAddr c) c.payload).reply c 5 []
  | .byteMaskedWrite _ _, s =>
    (if leNat (c.payload.take 16) = 2 ^ 128 - 1 ∧ (c.payload.drop 16).length = 128 then
        (s.homeAccess (lineOf (cellAddr c)) true).homePut (cellAddr c) (c.payload.drop 16)
      else (s.homeAccess (lineOf (cellAddr c)) true).maskedPut (cellAddr c) (leNat (c.payload.take 16)) (c.payload.drop 16)).reply c 5 []
  | _, s => ((s.homeAccess (lineOf (cellAddr c)) true).serveAtomic c).2.reply c 5
      ((s.homeAccess (lineOf (cellAddr c)) true).serveAtomic c).1

/-- Each of the four requests is taken, with the bytes that it may write. -/
theorem exec_request {i : Instr} {c : RingCell} {b : Bool} (s : State)
    (hi : i = .readRequest c b ∨ i = .write c b ∨ i = .byteMaskedWrite c b ∨ i = .atomicRequest c b) :
    ∃ wr n f, exec i s = takeRequest c b wr n f s ∧ (c.payload.length ≤ 1 → n = 1) ∧ (i ≠ .readRequest c b → wr = true) := by
  obtain rfl | rfl | rfl | rfl := hi
  · exact ⟨false, 1, requestServe c (.readRequest c b), rfl, fun _ => rfl, fun h => (h rfl).elim⟩
  · exact ⟨true, max 1 c.payload.length, requestServe c (.write c b), rfl, max_eq_left, fun _ => rfl⟩
  · exact ⟨true, max 1 (c.payload.length - 16), requestServe c (.byteMaskedWrite c b), rfl, fun h => by omega, fun _ => rfl⟩
  · exact ⟨true, 1, requestServe c (.atomicRequest c b), rfl, fun _ => rfl, fun _ => rfl⟩

/-- A request that is served (R377). -/
theorem exec_served {i : Instr} {c : RingCell} {wr : Bool} {n : Nat} {s : State}
    (hi : (i = .readRequest c true ∧ wr = false ∧ n = 1) ∨ (i = .write c true ∧ wr = true ∧ n = max 1 c.payload.length) ∨
      (i = .byteMaskedWrite c true ∧ wr = true ∧ n = max 1 (c.payload.length - 16)) ∨ (i = .atomicRequest c true ∧ wr = true ∧ n = 1))
    (h : Served c wr n s) : exec i s = .next (requestServe c i s) := by
  obtain ⟨rfl, rfl, rfl⟩ | ⟨rfl, rfl, rfl⟩ | ⟨rfl, rfl, rfl⟩ | ⟨rfl, rfl, rfl⟩ := hi
  · exact takeRequest_served (f := requestServe c (.readRequest c true)) h
  · exact takeRequest_served (f := requestServe c (.write c true)) h
  · exact takeRequest_served (f := requestServe c (.byteMaskedWrite c true)) h
  · exact takeRequest_served (f := requestServe c (.atomicRequest c true)) h

/-! ### Answers -/

/-- An answer is kept. -/
theorem State.reply_kept (s : State) (c : RingCell) (ty : Nat) (l : List Byte) :
    (c.src, c.tag, ringCell c.src.toNat c.dst.toNat 192 ty c.addr.toNat c.tag.toNat l) ∈ (s.reply c ty l).replies := by
  unfold State.reply State.send State.sendFor keepReply
  dsimp only
  split <;> exact List.mem_append_right _ (List.mem_singleton_self _)

/-- What is served is answered, and the answer kept (R377). -/
theorem requestServe_kept (c : RingCell) (i : Instr) (s : State) : ∃ r, (c.src, c.tag, r) ∈ (requestServe c i s).replies := by
  unfold requestServe
  split <;> exact ⟨_, State.reply_kept ..⟩

/-- What an answer needs of the state after a request has been served. -/
structure Kept (s t : State) : Prop where
  outbox : t.outbox = s.outbox
  cores : t.cores = s.cores
  gone : t.gone = s.gone

theorem StkSame.kept {s t : State} (h : StkSame s t) : Kept s t := by
  obtain ⟨_, _, _, rfl⟩ := h.only
  exact ⟨rfl, rfl, rfl⟩

theorem StkSame.mem {s t : State} (h : StkSame s t) : t.mem = s.mem := by obtain ⟨_, _, _, rfl⟩ := h.only; rfl

theorem StkSame.poison {s t : State} (h : StkSame s t) : t.poison = s.poison := by obtain ⟨_, _, _, rfl⟩ := h.only; rfl

/-- A request served is answered. -/
theorem reply_answers {s u : State} (h : Kept s u) (c : RingCell) (ty : Nat) (l : List Byte) : Answers c ty l s (u.reply c ty l) := by
  refine ⟨u.reply_kept c ty l, ?_, ?_, fun hg => ?_⟩
  · unfold State.reply State.send State.sendFor
    dsimp only
    split <;> exact h.outbox
  · unfold State.reply State.send
    rw [State.sendFor_cores]
    exact h.cores
  · unfold State.reply State.send State.sendFor
    dsimp only
    rw [h.gone, if_neg (by simpa using hg), stack_updStack]
    exact List.mem_append_right _ (List.mem_singleton_self _)

/-! ### Bytes at home -/

/-- A byte at home reads as memory has it. -/
theorem State.memByte_eq {s : State} {a n b : Nat} (h : AtHome s a n) (h1 : a ≤ b) (h2 : b < a + n) : s.memByte b = readByte b s.mem := by
  have hr : inRemapTable b = false := (h.2.2.2 b h1 h2).2.2.1
  unfold State.memByte
  exact if_neg (by simpa [inRemapTable] using hr)

theorem State.homeByte_eq {s : State} {a n b : Nat} (h : AtHome s a n) (h1 : a ≤ b) (h2 : b < a + n) : s.homeByte b = readByte b s.mem := by
  obtain ⟨-, hm, -, hl, -⟩ := h.2.2.2 b h1 h2
  unfold State.homeByte
  rw [hm]
  dsimp only
  rw [(State.holdsLine_eq_false.1 hl).1]
  exact State.memByte_eq h h1 h2

theorem State.engHome_eq {s : State} {a n b : Nat} (h : AtHome s a n) (h1 : a ≤ b) (h2 : b < a + n) : s.engHome b = readByte b s.mem := by
  unfold State.engHome
  split
  · exact State.homeByte_eq h h1 h2
  · exact State.memByte_eq h h1 h2

theorem State.homeBytes_eq {s : State} {a n : Nat} (h : AtHome s a n) :
    s.homeBytes a n = (List.range n).map fun i => readByte (a + i) s.mem :=
  List.map_congr_left fun i hi => State.homeByte_eq h (Nat.le_add_right ..) (by have := List.mem_range.1 hi; omega)

theorem StkSame.badLine {s t : State} (h : StkSame s t) (line : Nat) : t.badLine line = s.badLine line := by
  unfold State.badLine
  rw [h.poison, h.serves.portDown]

/-- The access of a request to its line, which stands in its slice. -/
theorem request_same {s : State} {a : Nat} (h : InSlice s a) (wr : Bool) : StkSame s (s.homeAccess (lineOf a) wr) :=
  State.homeAccess_same (inSlice_line.2 h) wr

/-- An address at home stays there across such an access. -/
theorem StkSame.atHome {s t : State} (h : StkSame s t) {a n : Nat} (g : AtHome s a n) : AtHome t a n := h.quiet.atHome g

/-- Bytes written at home after such an access. -/
theorem homePut_lands {s v : State} (hv : StkSame s v) {a : Nat} {l : List Byte} (h : AtHome s a l.length) :
    Lands a l s (v.homePut a l) ∧ Kept s (v.homePut a l) := by
  rw [State.homePut_eq (hv.atHome h)]
  refine ⟨fun b => ?_, hv.kept.outbox, hv.kept.cores, hv.kept.gone⟩
  rw [← hv.mem]
  exact lands_store (hv.atHome h).1 a l b

/-! ### Reads and writes -/

/-- A read is answered with its line, or with the mark of poison (R363). -/
theorem readRequest_answers {c : RingCell} {s : State} (h : Served c false 1 s) (ha : AtHome s (cellAddr c / 128 * 128) 128)
    (hs : InSlice s (cellAddr c)) : ∃ t, exec (.readRequest c true) s = .next t ∧ SameMem s t ∧
      (s.badLine (cellAddr c / 128) = false →
        Answers c 1 ((List.range 128).map fun i => readByte (cellAddr c / 128 * 128 + i) s.mem) s t) ∧
      (s.badLine (cellAddr c / 128) = true → Answers c 1 (List.replicate 128 0 ++ [1]) s t) := by
  have hv := State.homeAccess_same (inSlice_line.2 hs) false
  have he : (List.range 128).map (fun i => s.engHome (cellAddr c / 128 * 128 + i)) =
      (List.range 128).map fun i => readByte (cellAddr c / 128 * 128 + i) s.mem :=
    List.map_congr_left fun i hi => State.engHome_eq ha (Nat.le_add_right ..) (by have := List.mem_range.1 hi; omega)
  have hx := exec_served (.inl ⟨rfl, rfl, rfl⟩) h
  rw [requestServe, show lineOf (cellAddr c / 128 * 128) = cellAddr c / 128 from Nat.mul_div_cancel _ (by decide), he,
    State.homeBytes_eq ha, ite_self] at hx
  refine ⟨_, hx, fun b => ?_, fun hb => ?_, fun hb => ?_⟩
  · rw [State.reply_mem, hv.mem]
  · rw [hb, if_neg Bool.false_ne_true, show poisonMark false = [] from rfl, List.append_nil]
    exact reply_answers hv.kept ..
  · rw [hb, if_pos rfl]
    exact reply_answers hv.kept ..

theorem write_lands {c : RingCell} {s : State} (h : Served c true (max 1 c.payload.length) s)
    (ha : AtHome s (cellAddr c) c.payload.length) (hs : InSlice s (cellAddr c)) :
    ∃ t, exec (.write c true) s = .next t ∧ Lands (cellAddr c) c.payload s t ∧ Answers c 5 [] s t := by
  obtain ⟨hl, hk⟩ := homePut_lands (request_same hs true) ha
  refine ⟨_, exec_served (.inr (.inl ⟨rfl, rfl, rfl⟩)) h, fun b => ?_, reply_answers hk ..⟩
  dsimp only [requestServe]
  rw [State.reply_mem]
  exact hl b

/-- Bytes merged at home under a mask (R282). -/
theorem State.maskedPut_lands {s : State} {a : Nat} (m : Nat) {l : List Byte} (hi : MemInv s)
    (h : ∀ i, i < l.length → AtHome s (a + i) 1) : Kept s (s.maskedPut a m l) ∧
      ∀ b, readByte b (s.maskedPut a m l).mem =
        if a ≤ b ∧ b < a + l.length ∧ m.testBit (b - a) then l.getD (b - a) 0 else readByte b s.mem := by
  induction l generalizing s a m with
  | nil => exact ⟨⟨rfl, rfl, rfl⟩, fun b => by rw [if_neg (by simp; omega)]; rfl⟩
  | cons v r ih =>
    let u := if m % 2 = 1 then s.homePut a [v] else s
    have hu : Serves s u ∧ MemInv u ∧ Kept s u ∧
        ∀ b, readByte b u.mem = if m % 2 = 1 ∧ b = a then v else readByte b s.mem := by
      unfold u
      split
      · next hm =>
        have h0 : AtHome s a 1 := h 0 (Nat.succ_pos _)
        obtain ⟨hl, hk⟩ := homePut_lands (.refl s) (l := [v]) h0
        rw [State.homePut_eq (l := [v]) h0] at *
        refine ⟨⟨fun _ => .refl _, .of_eq rfl⟩, store_wf _ _ _ hi, hk, fun b => (hl b).trans ?_⟩
        by_cases e : b = a
        · simp [e, hm]
        · rw [if_neg (by simp; omega), if_neg (by simp [e])]
      · next hm => exact ⟨.refl s, hi, ⟨rfl, rfl, rfl⟩, fun b => by rw [if_neg fun h => hm h.1]⟩
    obtain ⟨hs, hi', hk, hb⟩ := hu
    obtain ⟨hk', hr⟩ := ih (s := u) (a := a + 1) (m / 2) hi' fun i hlt => by
      have := h (i + 1) (by simpa using hlt)
      rw [show a + 1 + i = a + (i + 1) by omega]
      exact atHome_of_serves this hs hi'
    refine ⟨⟨hk'.outbox.trans hk.outbox, hk'.cores.trans hk.cores, hk'.gone.trans hk.gone⟩, fun b => (hr b).trans ?_⟩
    rw [hb]
    rcases lt_trichotomy b a with e | e | e
    · rw [if_neg (by omega), if_neg (by omega), if_neg (by omega)]
    · subst e
      rw [if_neg (by omega)]
      simp [Nat.testBit_zero]
    · obtain ⟨i, rfl⟩ := Nat.exists_eq_add_of_lt e
      rw [show a + i + 1 - (a + 1) = i by omega, show a + i + 1 - a = i + 1 by omega, Nat.testBit_succ, List.getD_cons_succ]
      refine if_congr ?_ rfl (if_neg (by omega))
      rw [List.length_cons]
      exact ⟨fun ⟨_, _, h⟩ => ⟨by omega, by omega, h⟩, fun ⟨_, _, h⟩ => ⟨by omega, by omega, h⟩⟩

/-- A byte of a range at home lies in this package. -/
theorem ownFpa_of_atHome {s : State} {a n b : Nat} (h : AtHome s a n) (h1 : a ≤ b) (h2 : b < a + n) : ownFpa b = true := by
  have hs := fun c (x : a ≤ c) (y : c < a + n) => atHome_stackAt h x y
  have hd : b / 2 ^ 45 = a / 2 ^ 45 := by
    by_contra hne
    have := hs ((a / 2 ^ 45 + 1) * 2 ^ 45) (by omega) (by omega)
    unfold stackAt at this
    omega
  unfold ownFpa
  rw [hd]
  exact h.2.1

/-- A part of a range at home is at home. -/
theorem atHome_sub {s : State} {a n b m : Nat} (h : AtHome s a n) (h1 : a ≤ b) (h2 : b < a + n) (h3 : b + m ≤ a + n) : AtHome s b m := by
  refine ⟨h.1, ownFpa_of_atHome h h1 h2, (h.2.2.2 b h1 h2).1, fun c x y => ?_⟩
  obtain ⟨hp, hm, hr, hl, hs⟩ := h.2.2.2 c (by omega) (by omega)
  exact ⟨hp, hm, hr, hl, hs.trans (atHome_stackAt h h1 h2).symm⟩

theorem byteMaskedWrite_lands {c : RingCell} {s : State} (h : Served c true (max 1 (c.payload.length - 16)) s)
    (ha : AtHome s (cellAddr c) (c.payload.length - 16)) (hs : InSlice s (cellAddr c)) :
    ∃ t, exec (.byteMaskedWrite c true) s = .next t ∧ Answers c 5 [] s t ∧
      ∀ b, readByte b t.mem = if cellAddr c ≤ b ∧ b < cellAddr c + (c.payload.length - 16) ∧
          (leNat (c.payload.take 16)).testBit (b - cellAddr c)
        then c.payload.getD (16 + (b - cellAddr c)) 0 else readByte b s.mem := by
  have hv := request_same hs true
  have hl : (c.payload.drop 16).length = c.payload.length - 16 := List.length_drop ..
  have hd (i : Nat) : (c.payload.drop 16).getD i 0 = c.payload.getD (16 + i) 0 := by simp [List.getD_eq_getElem?_getD]
  have hput : Kept s (if leNat (c.payload.take 16) = 2 ^ 128 - 1 ∧ (c.payload.drop 16).length = 128 then
        (s.homeAccess (lineOf (cellAddr c)) true).homePut (cellAddr c) (c.payload.drop 16)
      else (s.homeAccess (lineOf (cellAddr c)) true).maskedPut (cellAddr c) (leNat (c.payload.take 16)) (c.payload.drop 16)) ∧
      ∀ b, readByte b (if leNat (c.payload.take 16) = 2 ^ 128 - 1 ∧ (c.payload.drop 16).length = 128 then
        (s.homeAccess (lineOf (cellAddr c)) true).homePut (cellAddr c) (c.payload.drop 16)
      else (s.homeAccess (lineOf (cellAddr c)) true).maskedPut (cellAddr c) (leNat (c.payload.take 16)) (c.payload.drop 16)).mem =
        if cellAddr c ≤ b ∧ b < cellAddr c + (c.payload.drop 16).length ∧ (leNat (c.payload.take 16)).testBit (b - cellAddr c)
        then (c.payload.drop 16).getD (b - cellAddr c) 0 else readByte b s.mem := by
    split
    · next hw =>
      obtain ⟨hb, hk⟩ := homePut_lands hv (l := c.payload.drop 16) (by rwa [hl])
      refine ⟨hk, fun b => (hb b).trans (if_congr ?_ rfl rfl)⟩
      rw [hw.1, Nat.testBit_two_pow_sub_one, decide_eq_true_eq]
      omega
    · obtain ⟨hk, hb⟩ := State.maskedPut_lands (s := s.homeAccess (lineOf (cellAddr c)) true) (a := cellAddr c)
        (leNat (c.payload.take 16)) (l := c.payload.drop 16) (hv.atHome ha).1 fun i hi =>
          hv.atHome (atHome_sub ha (by omega) (by omega) (by omega))
      refine ⟨⟨hk.outbox.trans hv.kept.outbox, hk.cores.trans hv.kept.cores, hk.gone.trans hv.kept.gone⟩, fun b => ?_⟩
      rw [hb, hv.mem]
  obtain ⟨hk, hb⟩ := hput
  refine ⟨_, exec_served (.inr (.inr (.inl ⟨rfl, rfl, rfl⟩))) h, reply_answers hk .., fun b => ?_⟩
  dsimp only [requestServe]
  rw [State.reply_mem]
  refine (hb b).trans ?_
  rw [hl, hd]

/-! ### Atomics -/

theorem leBytes_length (n x : Nat) : (leBytes n x).length = n := by
  induction n generalizing x with
  | zero => rfl
  | succ n ih => simp [leBytes, ih]

/-- The number whose bytes are written reads back (R3). -/
theorem leNat_leBytes (n x : Nat) : leNat (leBytes n x) = x % 256 ^ n := by
  induction n generalizing x with
  | zero => simp [leBytes, leNat, Nat.mod_one]
  | succ n ih =>
    have hb : (BitVec.ofNat 8 (x % 256)).toNat = x % 256 := Nat.mod_mod ..
    rw [leBytes, leNat, ih, hb, Nat.pow_succ', Nat.mod_mul]

theorem leBytes_zero (n : Nat) : leBytes n 0 = List.replicate n 0 := by
  induction n with
  | zero => rfl
  | succ n ih => simp [leBytes, ih, List.replicate_succ]

theorem leNat_leBytes_word (x : Dword) : leNat (leBytes 8 x.toNat) = x.toNat := by
  rw [leNat_leBytes]
  exact Nat.mod_eq_of_lt x.isLt

/-- What a TYPE 4 cell of an `ATOM` holds (R193; log 22). -/
structure AtomCell (c : RingCell) (k n : Nat) (f x y : Dword) : Prop where
  code : leNat (c.payload.take 1) = k
  len : leNat ((c.payload.drop 1).take 7) = n
  fpc : leNat ((c.payload.drop 8).take 8) = f.toNat
  data : (c.payload.drop 16).take n = leBytes n x.toNat
  other : (c.payload.drop 16).drop n = leBytes n y.toNat

theorem atomCell_of_payload {c : RingCell} {k n : Nat} {f x y : Dword} (hk : k < 256) (hn : n < 256)
    (h : c.payload = leBytes 1 k ++ leBytes 7 n ++ leBytes 8 f.toNat ++ leBytes n x.toNat ++ leBytes n y.toNat) :
    AtomCell c k n f x y := by
  have h1 : c.payload.drop 1 = leBytes 7 n ++ (leBytes 8 f.toNat ++ (leBytes n x.toNat ++ leBytes n y.toNat)) := by
    rw [h]; simp [leBytes_length]
  have h8 : c.payload.drop 8 = leBytes 8 f.toNat ++ (leBytes n x.toNat ++ leBytes n y.toNat) := by
    rw [← List.drop_drop (i := 7) (j := 1), h1, List.drop_left' (leBytes_length ..)]
  have h16 : c.payload.drop 16 = leBytes n x.toNat ++ leBytes n y.toNat := by
    rw [← List.drop_drop (i := 8) (j := 8), h8, List.drop_left' (leBytes_length ..)]
  refine ⟨?_, ?_, ?_, ?_, ?_⟩
  · rw [h]
    simp only [List.append_assoc]
    rw [List.take_left' (leBytes_length ..), leNat_leBytes]
    omega
  · rw [h1, List.take_left' (leBytes_length ..), leNat_leBytes]
    omega
  · rw [h8, List.take_left' (leBytes_length ..), leNat_leBytes_word]
  · rw [h16, List.take_left' (leBytes_length ..)]
  · rw [h16, List.drop_left' (leBytes_length ..)]

/-- What an `ATOM` does at the home of its bytes (R193). -/
theorem serveAtomic_atom {c : RingCell} {k n : Nat} {f x y : Dword} (h : AtomCell c k n f x y) (hk : k < 16) (v : State)
    (hb : v.badLine (cellAddr c / 128) = false) : v.serveAtomic c =
      (leBytes n (leNat (v.homeBytes (cellAddr c) n)) ++ [0],
        v.homePut (cellAddr c) (leBytes n (atomNew k f (BitVec.ofNat 64 (leNat (v.homeBytes (cellAddr c) n)))
          (BitVec.ofNat 64 (x.toNat % 256 ^ n)) (BitVec.ofNat 64 (y.toNat % 256 ^ n))).toNat)) := by
  have hm : k ≠ mergeCode := by unfold mergeCode; omega
  unfold State.serveAtomic
  dsimp only
  rw [h.code, h.len, h.fpc, h.data, h.other, if_neg hm, show lineOf (cellAddr c) = cellAddr c / 128 from rfl, hb,
    if_neg Bool.false_ne_true, if_pos hk, leNat_leBytes, leNat_leBytes, BitVec.ofNat_toNat, BitVec.setWidth_eq]

/-- An `ATOM` of a poisoned line changes nothing (R363). -/
theorem serveAtomic_poisoned {c : RingCell} {k n : Nat} {f x y : Dword} (h : AtomCell c k n f x y) (hk : k < 16) (v : State)
    (hb : v.badLine (cellAddr c / 128) = true) : v.serveAtomic c = (List.replicate n 0 ++ [1], v) := by
  have hm : k ≠ mergeCode := by unfold mergeCode; omega
  unfold State.serveAtomic
  dsimp only
  rw [h.code, h.len, if_neg hm, show lineOf (cellAddr c) = cellAddr c / 128 from rfl, hb, if_pos rfl, if_pos hk, leBytes_zero]

theorem atomicRequest_poisoned {c : RingCell} {k n : Nat} {f x y : Dword} {s : State} (h : AtomCell c k n f x y) (hk : k < 16)
    (hs : Served c true 1 s) (hi : InSlice s (cellAddr c)) (hb : s.badLine (cellAddr c / 128) = true) :
    ∃ t, exec (.atomicRequest c true) s = .next t ∧ SameMem s t ∧ Answers c 5 (List.replicate n 0 ++ [1]) s t := by
  have hv := request_same hi true
  refine ⟨_, exec_served (.inr (.inr (.inr ⟨rfl, rfl, rfl⟩))) hs, ?_⟩
  dsimp only [requestServe]
  rw [serveAtomic_poisoned h hk _ ((hv.badLine _).trans hb)]
  exact ⟨fun b => by rw [State.reply_mem, hv.mem], reply_answers hv.kept ..⟩

theorem atomicRequest_lands {c : RingCell} {k n : Nat} {f x y : Dword} {s : State} (h : AtomCell c k n f x y) (hk : k < 16)
    (hs : Served c true 1 s) (ha : AtHome s (cellAddr c) n) (hi : InSlice s (cellAddr c)) (hb : s.badLine (cellAddr c / 128) = false) :
    ∃ t, exec (.atomicRequest c true) s = .next t ∧ Answers c 5 (leBytes n (memNat s (cellAddr c) n) ++ [0]) s t ∧
      Lands (cellAddr c) (leBytes n (atomNew k f (BitVec.ofNat 64 (memNat s (cellAddr c) n))
        (BitVec.ofNat 64 (x.toNat % 256 ^ n)) (BitVec.ofNat 64 (y.toNat % 256 ^ n))).toNat) s t := by
  have hv := request_same hi true
  have hold : leNat ((s.homeAccess (lineOf (cellAddr c)) true).homeBytes (cellAddr c) n) = memNat s (cellAddr c) n := by
    rw [State.homeBytes_eq (hv.atHome ha), hv.mem, memNat]
  refine ⟨_, exec_served (.inr (.inr (.inr ⟨rfl, rfl, rfl⟩))) hs, ?_⟩
  dsimp only [requestServe]
  rw [serveAtomic_atom h hk _ ((hv.badLine _).trans hb), hold]
  obtain ⟨hl, hkept⟩ := homePut_lands hv (a := cellAddr c) (l := leBytes n (atomNew k f (BitVec.ofNat 64 (memNat s (cellAddr c) n))
    (BitVec.ofNat 64 (x.toNat % 256 ^ n)) (BitVec.ofNat 64 (y.toNat % 256 ^ n))).toNat) (by rwa [leBytes_length])
  exact ⟨reply_answers hkept .., fun b => by rw [State.reply_mem]; exact hl b⟩

/-- A choice between words by their order as signed or unsigned numbers. -/
theorem ite_slt (o x u v : Dword) : (if x.slt o then u else v) = if x.toInt < o.toInt then u else v :=
  if_congr BitVec.slt_iff_toInt_lt rfl rfl

theorem ite_ult (o x u v : Dword) : (if x.ult o then u else v) = if x.toNat < o.toNat then u else v :=
  if_congr (by rw [BitVec.ult, decide_eq_true_eq]) rfl rfl

/-- The signed least and greatest (R193). -/
theorem atomNew_min (f o x y : Dword) : atomNew 4 f o x y = BitVec.ofInt 64 (min o.toInt x.toInt) := by
  refine (ite_slt o x x o).trans ?_
  split
  · next h => rw [min_eq_right h.le, BitVec.ofInt_toInt]
  · next h => rw [min_eq_left (not_lt.1 h), BitVec.ofInt_toInt]

theorem atomNew_max (f o x y : Dword) : atomNew 5 f o x y = BitVec.ofInt 64 (max o.toInt x.toInt) := by
  refine (ite_slt x o x o).trans ?_
  split
  · next h => rw [max_eq_right h.le, BitVec.ofInt_toInt]
  · next h => rw [max_eq_left (not_lt.1 h), BitVec.ofInt_toInt]

/-- The unsigned least and greatest (R193). -/
theorem atomNew_minU (f o x y : Dword) : atomNew 6 f o x y = BitVec.ofNat 64 (min o.toNat x.toNat) := by
  refine (ite_ult o x x o).trans ?_
  split
  · next h => rw [min_eq_right h.le, BitVec.ofNat_toNat, BitVec.setWidth_eq]
  · next h => rw [min_eq_left (not_lt.1 h), BitVec.ofNat_toNat, BitVec.setWidth_eq]

theorem atomNew_maxU (f o x y : Dword) : atomNew 7 f o x y = BitVec.ofNat 64 (max o.toNat x.toNat) := by
  refine (ite_ult x o x o).trans ?_
  split
  · next h => rw [max_eq_right h.le, BitVec.ofNat_toNat, BitVec.setWidth_eq]
  · next h => rw [max_eq_left (not_lt.1 h), BitVec.ofNat_toNat, BitVec.setWidth_eq]

/-- The low 32 bits of a word cut to 32 bits. -/
theorem fld_ofNat_mod (x : Nat) : fld (BitVec.ofNat 64 (x % 256 ^ 4)) 0 32 = x % 2 ^ 32 := by
  simp [fld, nbits]

theorem atomNew_fadd (f o y : Dword) (x : Nat) : atomNew 10 f o (BitVec.ofNat 64 (x % 256 ^ 4)) y =
    BitVec.ofNat 64 (round .f32 f (Val.add (fpcRm f) (operand f .f32 (o.toNat % 2 ^ 32)) (operand f .f32 (x % 2 ^ 32))).1).1 := by
  have ho : fld o 0 32 = o.toNat % 2 ^ 32 := by simp [fld, nbits]
  rw [← fld_ofNat_mod x, ← ho]
  rfl

theorem ofNat_mod_word (x : Dword) : BitVec.ofNat 64 (x.toNat % 256 ^ 8) = x := by
  rw [Nat.mod_eq_of_lt (by exact x.isLt), BitVec.ofNat_toNat, BitVec.setWidth_eq]

/-! ### The obligation -/

/-- Settles O48: each request takes one course, and what it serves accesses a line that stands in its slice, which moves nothing, and then
reads, stores or merges bytes at home. -/
theorem homeRequests : Obligations.HomeRequests := by
  unfold Obligations.HomeRequests
  intro c s
  refine ⟨fun i hi => ?_, fun r i hr hi => ?_, fun hr => ⟨fun i hi hm => ?_, fun i hi hl hc hm => ?_, fun i j w hi hm hl hc hs hw hj => ?_⟩,
    fun i wr n hi h => ?_, readRequest_answers, write_lands, byteMaskedWrite_lands, fun k n f x y hkn h ha hi hp => ⟨fun hb => ?_, fun hb => ?_⟩⟩
  · obtain ⟨wr, n, f, he, -, -⟩ := exec_request s hi
    exact ⟨s.refuse c, he, refuse_staysOnRing s c⟩
  · obtain ⟨wr, n, f, he, -, -⟩ := exec_request s hi
    refine ⟨_, he.trans (takeRequest_kept hr), ?_, fun hg => ?_⟩
    · unfold State.send State.sendFor
      split <;> rfl
    · unfold State.send State.sendFor
      rw [if_neg (by simpa using hg), stack_updStack]
      exact List.mem_append_right _ (List.mem_singleton_self _)
  · obtain ⟨wr, n, f, he, -, -⟩ := exec_request s hi
    exact he.trans (takeRequest_unmapped hr hm)
  · obtain ⟨wr, n, f, he, hn, hwr⟩ := exec_request s (.inr hi)
    rw [he, hn hl, hwr (by rintro rfl; simp at hi)]
    exact takeRequest_csr hr hm hc
  · obtain ⟨wr, n, f, he, hn, -⟩ := exec_request s hi
    rw [he, hn hl, takeRequest_held hr hm hc hs hw, State.arriveCell_comes _ _ hj]
    exact ⟨_, rfl, rfl, mem_insertSched ..⟩
  · obtain ⟨r, hr⟩ := requestServe_kept c i s
    exact ⟨_, r, exec_served hi h, hr⟩
  · have hc := atomCell_of_payload (by omega) (by omega) hp
    obtain ⟨t, ht, hans, hl⟩ := atomicRequest_lands hc (by omega) h ha hi hb
    refine ⟨t, ht, hans, ?_⟩
    obtain ⟨hk, rfl⟩ | ⟨rfl, rfl⟩ := hkn
    · rw [ofNat_mod_word, ofNat_mod_word] at hl
      refine ⟨?_, ?_, ?_, ?_, ?_, ?_, ?_, ?_, ?_, ?_, fun h => by omega⟩
      all_goals rintro rfl
      case refine_5 => rwa [atomNew_min] at hl
      case refine_6 => rwa [atomNew_max] at hl
      case refine_7 => rwa [atomNew_minU] at hl
      case refine_8 => rwa [atomNew_maxU] at hl
      all_goals exact hl
    · rw [atomNew_fadd] at hl
      exact ⟨by omega, by omega, by omega, by omega, by omega, by omega, by omega, by omega, by omega, by omega, fun _ => hl⟩
  · exact atomicRequest_poisoned (atomCell_of_payload (by omega) (by omega) hp) (by omega) h hi hb

end Sys2Proof.Machine
end

section
/-!
PROOF. Random rows refilled, spill space, the paging agent's answers and completed saves (O41).
-/

namespace Sys2Proof.Machine

/-! ### Changes of one context -/

theorem onlyCtx_trans {n k : Nat} {s t u : State} (h : OnlyCtx n k s t) (g : OnlyCtx n k t u) : OnlyCtx n k s u := by
  obtain ⟨⟨hc, hm, hn⟩, hx, hj⟩ := h
  obtain ⟨⟨gc, gm, gn⟩, gx, gj⟩ := g
  refine ⟨⟨?_, fun a => (gm a).trans (hm a), fun m e => (gn m e).trans (hn m e)⟩, ?_, fun j e => (gj j e).trans (hj j e)⟩
  · rw [gc, hc]
  · rw [gx, hx]

@[simp] theorem Ctx.chan_setChan (x : Ctx) (e : Nat) (c : Chan) : (x.setChan e c).chan e = c := by simp [Ctx.chan, Ctx.setChan]

/-- A context that is blocked for a cause wakes from it (R56). -/
theorem Ctx.wakeFrom_st {x : Ctx} {c : Cause} (h : x.st = .blocked c) : (x.wakeFrom c).st = .ready := by
  unfold Ctx.wakeFrom
  rw [if_pos h]

/-- What waking leaves of a context. -/
theorem Ctx.wakeFrom_only (x : Ctx) (c : Cause) : ∃ st n, x.wakeFrom c = { x with st := st, waitCnt := n } := by
  unfold Ctx.wakeFrom
  split <;> exact ⟨_, _, rfl⟩

theorem State.ctx_congr {s t : State} (h : t.cores = s.cores) (n k : Nat) : t.ctx n k = s.ctx n k := by
  unfold State.ctx State.core
  rw [h]

/-! ### Random rows (R83) -/

theorem rqRefill_adds (n k : Nat) (s : State) : ∃ t, execRqRefill n k s = .next t ∧ OnlyCore n s t ∧
    (t.ctx n k).arch = { (s.ctx n k).arch with rqn := min 8 ((s.ctx n k).arch.rqn + 1) } := by
  refine ⟨_, rfl, updCore_onlyCore .., ?_⟩
  unfold State.ctx
  rw [core_updCore, Core.ctx_updCtx]
  rfl

/-! ### Spill space (R373) -/

/-- A writer whose spill space stands goes on. -/
def Ctx.spaced (x : Ctx) (ep : Nat) : Ctx := { x.wakeFrom .spill with agent := none }.setChan ep { x.chan ep with space := true }

theorem Ctx.spaced_st {x : Ctx} (h : x.st = .blocked .spill) (ep : Nat) : (x.spaced ep).st = .ready := Ctx.wakeFrom_st h

theorem Ctx.spaced_chan (x : Ctx) (ep : Nat) : (x.spaced ep).chan ep = { x.chan ep with space := true } := Ctx.chan_setChan ..

theorem spillSpace_cases {n k ep : Nat} {w : Dword} {s : State} (ha : (s.ctx n k).agent = some (.spill ep w)) :
    execSpillSpaceAllocated n k ep s = .next (
      if ((s.ctx n k).chan ep).broken.isSome then s.updCtx n k fun x => x.spaced ep
      else if ((s.ctx n k).chan ep).sent = 0 ∧ ((s.ctx n k).chan ep).spill = [] then (s.updCtx n k fun x => x.spaced ep).sendWord n k ep w
      else (s.updCtx n k fun x => x.spaced ep).updCtx n k fun x => x.setChan ep { x.chan ep with spill := (x.chan ep).spill ++ [w] }) := by
  have hc : ((s.updCtx n k fun x => x.spaced ep).ctx n k).chan ep = { (s.ctx n k).chan ep with space := true } := by
    rw [ctx_updCtx, Ctx.spaced_chan]
  unfold execSpillSpaceAllocated
  rw [ha]
  dsimp only
  rw [if_pos rfl]
  change Host.Outcome.next (if (((s.updCtx n k fun x => x.spaced ep).ctx n k).chan ep).broken.isSome = true then _
    else if (((s.updCtx n k fun x => x.spaced ep).ctx n k).chan ep).sent = 0 ∧
      (((s.updCtx n k fun x => x.spaced ep).ctx n k).chan ep).spill = [] then _ else _) = _
  rw [hc]
  rfl

/-- A word sent leaves its context as it runs. -/
theorem State.sendWord_ctx (s : State) (n k ep : Nat) (v : Dword) :
    ((s.sendWord n k ep v).ctx n k).st = (s.ctx n k).st ∧ ((s.sendWord n k ep v).ctx n k).agent = (s.ctx n k).agent := by
  unfold State.sendWord
  dsimp only
  split
  · exact ⟨rfl, rfl⟩
  · unfold State.sendFrom
    rw [State.ctx_congr (State.sendFor_cores ..), ctx_updCtx]
    exact ⟨rfl, rfl⟩

/-- A word sent on a bound endpoint whose peer is there (R376). -/
theorem State.sendWord_injects {s : State} {n k ep : Nat} {v : Dword} {b : EndRef} (hb : ((s.ctx n k).chan ep).bound = some b)
    (hg : s.gone.contains b.who.peer = false) :
    ((s.sendWord n k ep v).ctx n k).chan ep = { (s.ctx n k).chan ep with
      sent := ((s.ctx n k).chan ep).sent + 1, snum := ((s.ctx n k).chan ep).snum + 1 } ∧
    ∃ w, Injects (stackOf n) s (s.sendWord n k ep v) [{ core := some n, cls := 0, weight := w, dst := b.who.peer
                                                        msg := .cell (chanCell b { who := ctxRef n k, ep := ep } 7
                                                          ((s.ctx n k).chan ep).snum ((s.ctx n k).chan ep).route (leBytes 8 v.toNat)) }] := by
  unfold State.sendWord
  dsimp only
  rw [hb]
  dsimp only
  unfold State.sendFrom
  refine ⟨?_, ?_⟩
  · rw [State.ctx_congr (State.sendFor_cores ..), ctx_updCtx, Ctx.chan_setChan]
  · unfold State.sendFor
    rw [if_neg (by simpa using hg)]
    exact ⟨_, rfl, fun _ => rfl, stack_updStack .., fun u hu => stack_updStack_ne _ hu _⟩

theorem spillSpace_places {n k ep : Nat} {w : Dword} {s : State} (ha : (s.ctx n k).agent = some (.spill ep w))
    (hs : (s.ctx n k).st = .blocked .spill) :
    ∃ t, execSpillSpaceAllocated n k ep s = .next t ∧ SameMem s t ∧ (t.ctx n k).st = .ready ∧ (t.ctx n k).agent = none ∧
        (((s.ctx n k).chan ep).broken.isSome = true → OnlyCtx n k s t ∧ (t.ctx n k).chan ep = { (s.ctx n k).chan ep with space := true }) ∧
        (((s.ctx n k).chan ep).broken = none → (((s.ctx n k).chan ep).sent ≠ 0 ∨ ((s.ctx n k).chan ep).spill ≠ []) →
          OnlyCtx n k s t ∧ (t.ctx n k).chan ep = { (s.ctx n k).chan ep with space := true, spill := ((s.ctx n k).chan ep).spill ++ [w] }) ∧
        (∀ b, ((s.ctx n k).chan ep).broken = none → ((s.ctx n k).chan ep).sent = 0 → ((s.ctx n k).chan ep).spill = [] →
          ((s.ctx n k).chan ep).bound = some b → s.gone.contains b.who.peer = false →
          (t.ctx n k).chan ep = { (s.ctx n k).chan ep with space := true, sent := 1, snum := ((s.ctx n k).chan ep).snum + 1 } ∧
          ∃ v, Injects (stackOf n) s t
            [{ core := some n, cls := 0, weight := v, dst := b.who.peer
               msg := .cell (chanCell b { who := ctxRef n k, ep := ep } 7 ((s.ctx n k).chan ep).snum ((s.ctx n k).chan ep).route
                 (leBytes 8 w.toNat)) }]) := by
  have hx : (s.updCtx n k fun x => x.spaced ep).ctx n k = (s.ctx n k).spaced ep := ctx_updCtx ..
  have ho := updCtx_onlyCtx s n k fun x => x.spaced ep
  have hst := Ctx.spaced_st hs ep
  rw [spillSpace_cases ha]
  by_cases hb : ((s.ctx n k).chan ep).broken.isSome = true
  · rw [if_pos hb]
    refine ⟨_, rfl, fun _ => rfl, by rw [hx, hst], by rw [hx]; rfl, fun _ => ⟨ho, by rw [hx, Ctx.spaced_chan]⟩, ?_, ?_⟩
    · intro h; simp [h] at hb
    · intro b h; simp [h] at hb
  · rw [if_neg hb]
    by_cases hq : ((s.ctx n k).chan ep).sent = 0 ∧ ((s.ctx n k).chan ep).spill = []
    · rw [if_pos hq]
      refine ⟨_, rfl, fun _ => by rw [State.sendWord_mem]; rfl, ?_, ?_, fun h => absurd h hb, fun _ h => ?_, fun b _ h0 _ hbd hg => ?_⟩
      · rw [(State.sendWord_ctx ..).1, hx, hst]
      · rw [(State.sendWord_ctx ..).2, hx]; rfl
      · exact absurd hq (by simpa [imp_iff_not_or] using h)
      · have hi := State.sendWord_injects (s := s.updCtx n k fun x => x.spaced ep) (n := n) (k := k) (ep := ep) (v := w) (b := b)
          (by rw [hx, Ctx.spaced_chan]; exact hbd) hg
        rw [hx, Ctx.spaced_chan] at hi
        obtain ⟨hc, v, ⟨h1, h2, h3, h4⟩⟩ := hi
        rw [hc, h0]
        exact ⟨rfl, v, by rw [h1]; rfl, h2, h3, h4⟩
    · rw [if_neg hq]
      refine ⟨_, rfl, fun _ => rfl, ?_, ?_, fun h => absurd h hb, fun _ _ => ⟨onlyCtx_trans ho (updCtx_onlyCtx ..), ?_⟩,
        fun b _ h1 h2 => absurd ⟨h1, h2⟩ hq⟩
      · rw [ctx_updCtx, hx]; exact hst
      · rw [ctx_updCtx, hx]; rfl
      · rw [ctx_updCtx, hx, Ctx.chan_setChan, Ctx.spaced_chan]

/-! ### Two ranges of bytes written -/

/-- Memory after bytes have landed in a range, and then in another that has none of its bytes. -/
theorem lands_two {a x : Nat} {l m : List Byte} {s t u : State} (h : Lands a l s t) (g : Lands x m t u)
    (hd : x + m.length ≤ a ∨ a + l.length ≤ x) (b : Nat) : readByte b u.mem =
      if a ≤ b ∧ b < a + l.length then l.getD (b - a) 0 else if x ≤ b ∧ b < x + m.length then m.getD (b - x) 0 else readByte b s.mem := by
  rw [g b, h b]
  by_cases h1 : a ≤ b ∧ b < a + l.length
  · rw [if_neg (by omega), if_pos h1, if_pos h1]
  · rw [if_neg h1, if_neg h1]

/-- A part of a range that is accessed quietly is. -/
theorem settled_sub {s : State} {a n b m : Nat} (h : Settled s a n) (ha : AtHome s a n) (h1 : a ≤ b) (h2 : b < a + n)
    (h3 : b + m ≤ a + n) : Settled s b m := by
  unfold Settled
  rw [atHome_stackAt ha h1 h2]
  exact h.imp id fun h c x y => h c (by omega) (by omega)

/-! ### Entries of translation caches dropped (R33, R43) -/

theorem State.dropKeys_less (s : State) (is : Nat → Bool) : CoresLess s (s.dropKeys is) := by
  refine ⟨fun _ c => { c with frames := c.frames.filter fun x => !is x }, fun _ c => ⟨rfl, fun _ h => h, fun _ h => ?_, fun _ h => h⟩, rfl⟩
  exact (List.mem_filter.1 h).1

theorem State.dropTabs_firmOut {s : State} (h : s.firmOut = false) (asn : Nat) : (s.dropTabs asn).firmOut = false := by
  unfold State.firmOut State.dropTabs at *
  rw [List.any_eq_false] at *
  exact fun r hr => h r (List.mem_filter.1 hr).1

/-! ### Stops that end (R356, R357) -/

/-- A context whose stop on a page and plane has ended (R356, R358). -/
def Ctx.supplied (x : Ctx) (page plane : Nat) (refused : Bool) : Ctx :=
  { x.wakeFrom .paging with agent := none, refusals := if refused then x.refusals ++ [(page, plane)] else x.refusals }

/-- A context once stops on a page and plane of an address space have ended. -/
def Ctx.released (asn page plane : Nat) (refused : Bool) (x : Ctx) : Ctx :=
  if x.asn = asn ∧ x.agent = some (.frame page plane) then x.supplied page plane refused else x

/-- A core's contexts once stops on a page and plane have ended. -/
def Core.released (asn page plane : Nat) (refused : Bool) (c : Core) : Core :=
  { c with ctxs := vmap (Ctx.released asn page plane refused) c.ctxs }

@[simp] theorem Core.released_ctx (asn page plane : Nat) (refused : Bool) (c : Core) (k : Nat) :
    (c.released asn page plane refused).ctx k = (c.ctx k).released asn page plane refused := by
  simp [Core.ctx, Core.released, vmap]

theorem State.wakeStops_cores (s : State) (asn page plane : Nat) (refused : Bool) : (s.wakeStops asn page plane refused).cores =
    s.cores.map fun c => (c.1, c.2.released asn page plane refused) := rfl

/-- A context that waits for no frame stays as it is. -/
theorem State.wakeStops_ctx_of_ne {s : State} {n k : Nat} (h : ∀ p q, (s.ctx n k).agent ≠ some (.frame p q)) (asn page plane : Nat)
    (refused : Bool) : (s.wakeStops asn page plane refused).ctx n k = s.ctx n k := by
  unfold State.ctx State.core at *
  rw [State.wakeStops_cores]
  refine assocGet_map (R := fun c d : Core => (∀ p q, (c.ctx k).agent ≠ some (.frame p q)) → d.ctx k = c.ctx k)
    (fun _ c => c.released asn page plane refused) n (fun _ => rfl) (fun c hc => ?_) s.cores h
  rw [Core.released_ctx, Ctx.released, if_neg fun e => hc _ _ e.2]

/-! ### Plane instructions (R33, R171, R359) -/

/-- What the agent's work on a plane leaves of a context that waits for it. -/
structure PlaneKept (n k : Nat) (s t : State) : Prop where
  ctx : (∀ p q, (s.ctx n k).agent ≠ some (.frame p q)) → t.ctx n k = s.ctx n k
  firmOut : s.firmOut = false → t.firmOut = false
  planes : t.fw.planes = s.fw.planes

theorem PlaneKept.refl (n k : Nat) (s : State) : PlaneKept n k s s := ⟨fun _ => rfl, id, rfl⟩

theorem PlaneKept.trans {n k : Nat} {s t u : State} (h : PlaneKept n k s t) (g : PlaneKept n k t u) : PlaneKept n k s u :=
  ⟨fun e => (g.ctx (by rwa [h.ctx e])).trans (h.ctx e), fun e => g.firmOut (h.firmOut e), g.planes.trans h.planes⟩

theorem Wrote.fw {a : Nat} {l : List Byte} {s t : State} (h : Wrote a l s t) : t.fw = s.fw := by
  obtain ⟨_, _, _, _, _, _, rfl⟩ := h.only; rfl

theorem Wrote.planeKept {a : Nat} {l : List Byte} {s t : State} (h : Wrote a l s t) (n k : Nat) : PlaneKept n k s t :=
  ⟨fun _ => h.serves.cores.ctx n k, fun e => h.firmOut.trans e, by rw [h.fw]⟩

theorem State.dropPlane_planeKept (n k : Nat) (s : State) (asn q : Nat) : PlaneKept n k s (s.dropPlane asn q) :=
  ⟨fun _ => (State.dropKeys_less (s.dropTabs asn) _).ctx n k, fun h => State.dropTabs_firmOut h asn, rfl⟩

theorem State.endStops_planeKept (n k : Nat) (s : State) (asn i q : Nat) : PlaneKept n k s (s.endStops asn i q) := by
  unfold State.endStops
  refine foldl_rel (PlaneKept.refl n k) PlaneKept.trans (fun s r => ?_) _ s
  exact ⟨fun h => State.wakeStops_ctx_of_ne h asn r.2.1 q false, id, rfl⟩

/-- A number's lowest byte (R3). -/
theorem leBytes_one (x : Nat) : leBytes 1 x = [BitVec.ofNat 8 x] :=
  congrArg (fun b => [b]) (BitVec.eq_of_toNat_eq (by simp))

section

variable {s : State} {a q : Nat} (hq : 8 ≤ q) (hq' : q < 16) (ha : AtHome s a 256) (hs : Settled s a 256)
include hq hq' ha hs

/-- A plane entry written (R33). -/
theorem State.fwPut_entry {m : List Byte} (hm : m.length = 16) : Wrote (a + 16 * q) m s (s.fwPut (a + 16 * q) m) :=
  State.fwPut_wrote (by rw [hm]; exact atHome_sub ha (by omega) (by omega) (by omega))
    (by rw [hm]; exact settled_sub hs ha (by omega) (by omega) (by omega))

/-- A plane entry and the plane count written (R33). -/
theorem State.fwPut_count {m : List Byte} (hm : m.length = 16) (x n k : Nat) :
    PlaneKept n k s ((s.fwPut (a + 16 * q) m).fwPut (a + 4) (leBytes 1 x)) ∧
    ∀ b, readByte b ((s.fwPut (a + 16 * q) m).fwPut (a + 4) (leBytes 1 x)).mem =
      if a + 16 * q ≤ b ∧ b < a + 16 * q + 16 then m.getD (b - (a + 16 * q)) 0
      else if b = a + 4 then BitVec.ofNat 8 x else readByte b s.mem := by
  have hw := State.fwPut_entry hq hq' ha hs hm
  have h4 : AtHome s (a + 4) 1 := atHome_sub ha (by omega) (by omega) (by omega)
  have hc : Wrote (a + 4) (leBytes 1 x) (s.fwPut (a + 16 * q) m) ((s.fwPut (a + 16 * q) m).fwPut (a + 4) (leBytes 1 x)) :=
    State.fwPut_wrote (hw.atHome h4) (hw.settled _ 1 h4 (settled_sub hs ha (by omega) (by omega) (by omega)))
  refine ⟨(hw.planeKept n k).trans (hc.planeKept n k), fun b => ?_⟩
  rw [lands_two hw.lands hc.lands (.inl (by rw [leBytes_length]; omega)) b, leBytes_one, hm]
  refine if_congr Iff.rfl rfl ?_
  by_cases e : b = a + 4
  · simp [e]
  · rw [if_neg (by simp; omega), if_neg e]

/-- A plane instruction that reclaims no frame writes its entry and the plane count (R33). -/
theorem State.applyPlane_writes (asn op i e0 eq : Nat) (spec primer : Dword) (n k : Nat) :
    PlaneKept n k s (s.applyPlane asn a op i q e0 eq spec primer []) ∧
    ∀ b, readByte b (s.applyPlane asn a op i q e0 eq spec primer []).mem =
      if a + 16 * q ≤ b ∧ b < a + 16 * q + 16 then (leBytes 16 (planeOpEntry op eq spec primer)).getD (b - (a + 16 * q)) 0
      else if op = 0 ∧ b = a + 4 then BitVec.ofNat 8 (nbits e0 32 4 + (nbits e0 36 4 + 1) * 16)
      else if op = 1 ∧ b = a + 4 then BitVec.ofNat 8 (nbits e0 32 4 + (nbits e0 36 4 - 1) * 16)
      else readByte b s.mem := by
  have hl := leBytes_length 16 (planeOpEntry op eq spec primer)
  match op with
  | 0 =>
    obtain ⟨hk, hm⟩ := State.fwPut_count hq hq' ha hs hl (nbits e0 32 4 + (nbits e0 36 4 + 1) * 16) n k
    refine ⟨hk.trans (State.dropPlane_planeKept n k _ asn q), fun b => (hm b).trans ?_⟩
    simp
  | 1 =>
    obtain ⟨hk, hm⟩ := State.fwPut_count hq hq' ha hs hl (nbits e0 32 4 + (nbits e0 36 4 - 1) * 16) n k
    refine ⟨hk.trans ((State.endStops_planeKept n k _ asn i q).trans (State.dropPlane_planeKept n k _ asn q)), fun b => ?_⟩
    refine (congrArg (readByte b) (State.endStops_mem _ asn i q)).trans ((hm b).trans ?_)
    simp
  | op + 2 =>
    have hw := State.fwPut_entry hq hq' ha hs hl
    refine ⟨(hw.planeKept n k).trans (State.dropPlane_planeKept n k _ asn q), fun b => (hw.lands b).trans ?_⟩
    rw [hl, if_neg (c := op + 2 = 0 ∧ b = a + 4) (by omega), if_neg (c := op + 2 = 1 ∧ b = a + 4) (by omega)]

end

/-- The state in which a context's plane instruction has its place in the agent's order (R359). -/
def State.queued (s : State) (n k : Nat) : State :=
  if s.fw.planes.contains (n, k) then s else { s with fw := { s.fw with planes := s.fw.planes ++ [(n, k)] } }

/-- What differs once a plane instruction has its place. -/
theorem State.queued_only (s : State) (n k : Nat) : ∃ l, s.queued n k = { s with fw := { s.fw with planes := l } } ∧
    l.filter (fun x => x != (n, k)) = s.fw.planes.filter (fun x => x != (n, k)) ∧
    ((s.fw.planes = [] ∨ s.fw.planes.head? = some (n, k)) → l.head? = some (n, k)) := by
  unfold State.queued
  split
  · next h =>
    refine ⟨_, rfl, rfl, fun e => e.resolve_left fun e => ?_⟩
    rw [e] at h
    cases h
  · next h =>
    refine ⟨_, rfl, by simp, fun e => e.elim (fun e => by rw [e]; rfl) fun e => ?_⟩
    exact absurd (List.contains_iff_mem.2 (List.mem_of_mem_head? e)) h

/-- A context whose plane instruction has been answered goes on. -/
def Ctx.answered (x : Ctx) : Ctx :=
  { x.wakeFrom .plane with agent := none, ckpts := x.ckpts.map fun q => { q with agent := false } }

theorem State.answered_ctx (s : State) (n k : Nat) : (s.answered n k).ctx n k = (s.ctx n k).answered := ctx_updCtx s n k Ctx.answered

theorem Ctx.answered_goesOn {x : Ctx} (h : x.st = .blocked .plane) :
    x.answered.st = .ready ∧ x.answered.agent = none ∧ x.answered.faults = x.faults ∧ ∀ c ∈ x.answered.ckpts, c.agent = false := by
  refine ⟨Ctx.wakeFrom_st h, rfl, ?_, fun c hc => ?_⟩
  · obtain ⟨_, _, e⟩ := x.wakeFrom_only .plane
    change (x.wakeFrom .plane).faults = _
    rw [e]
  · obtain ⟨d, -, rfl⟩ := List.mem_map.1 hc
    rfl

/-- A context whose plane instruction has been answered, with faults against its bundle. -/
def PlaneAnswered (n k : Nat) (s t : State) (l : List Pending) : Prop :=
  (t.ctx n k).st = .ready ∧ (t.ctx n k).agent = none ∧ (t.ctx n k).faults = (s.ctx n k).faults ++ l ∧
  (∀ c ∈ (t.ctx n k).ckpts, c.agent = false) ∧ t.fw.planes = s.fw.planes.filter (fun x => x != (n, k))

/-- An answer after work that has left the context as it was. -/
theorem State.answered_goesOn {n k : Nat} {s u : State} (hc : u.ctx n k = s.ctx n k) (hst : (s.ctx n k).st = .blocked .plane)
    (hp : u.fw.planes.filter (fun x => x != (n, k)) = s.fw.planes.filter (fun x => x != (n, k))) :
    PlaneAnswered n k s (u.answered n k) [] := by
  obtain ⟨h1, h2, h3, h4⟩ := Ctx.answered_goesOn hst
  unfold PlaneAnswered
  rw [State.answered_ctx, hc, List.append_nil]
  exact ⟨h1, h2, h3, h4, hp⟩

/-- A plane instruction whose turn has come is the agent's next work (R359). -/
theorem planeAnswer_step {n k op i q : Nat} {spec primer : Dword} {seq : Nat} {s : State}
    (ha : (s.ctx n k).agent = some (.plane op i q spec primer seq))
    (hp : s.fw.planes = [] ∨ s.fw.planes.head? = some (n, k)) (ho : s.firmOut = false) :
    ∃ l, l.filter (fun x => x != (n, k)) = s.fw.planes.filter (fun x => x != (n, k)) ∧
      execPlaneAgentAnswer n k s = .next (State.planeStep { s with fw := { s.fw with planes := l } } n k op i q spec primer seq) := by
  obtain ⟨l, e, hl, hh⟩ := s.queued_only n k
  refine ⟨l, hl, ?_⟩
  rw [← e]
  unfold execPlaneAgentAnswer
  rw [ha]
  change Host.Outcome.next (if (s.queued n k).fw.planes.head? = some (n, k) ∧ (s.queued n k).firmOut = false then _ else _) = _
  rw [if_pos]
  · rfl
  · rw [e]
    exact ⟨hh hp, ho⟩

/-- Plane instructions may create no plane below 8 and change none (R359). -/
theorem le_of_planeOpBad {op q e0 eq : Nat} (h : planeOpBad op q e0 eq = false) : 8 ≤ q := by
  unfold planeOpBad at h
  rw [Bool.or_eq_false_iff, decide_eq_false_iff_not] at h
  omega

/-- A plane instruction that breaks no rule and reclaims no frame is applied and answered. -/
theorem State.planeStep_applies {n k op i q a e0 eq : Nat} {spec primer : Dword} {seq : Nat} {s : State}
    (hs : s.setAddr (s.ctx n k).asn i = some a) (h0 : s.tab (s.ctx n k).asn a 16 = .ok e0)
    (h1 : s.tab (s.ctx n k).asn (a + 16 * q) 16 = .ok eq) (hb : planeOpBad op q e0 eq = false)
    (hf : op = 1 → s.planeFrames (s.ctx n k).asn i q = { got := [], need := [] })
    (ho : (s.applyPlane (s.ctx n k).asn a op i q e0 eq spec primer []).firmOut = false) :
    s.planeStep n k op i q spec primer seq = (s.applyPlane (s.ctx n k).asn a op i q e0 eq spec primer []).answered n k := by
  have hf' : (if op = 1 then s.planeFrames (s.ctx n k).asn i q else { got := [], need := [] }) = { got := [], need := [] } := by
    split
    · next e => exact hf e
    · rfl
  unfold State.planeStep
  simp only [hs, h0, h1, hb, hf', ho, Bool.false_eq_true, if_false]

section

variable {n k op i q : Nat} {spec primer : Dword} {seq : Nat} {s : State}
  (ha : (s.ctx n k).agent = some (.plane op i q spec primer seq)) (hst : (s.ctx n k).st = .blocked .plane)
  (hp : s.fw.planes = [] ∨ s.fw.planes.head? = some (n, k)) (ho : s.firmOut = false)
include ha hst hp ho

/-- Without a plane set table a plane instruction raises cause 37 (R359). -/
theorem planeAnswer_refused (hb : (s.space (s.ctx n k).asn).base = none) : ∃ t, execPlaneAgentAnswer n k s = .next t ∧
    OnlyCtx n k s { t with fw := s.fw } ∧
    PlaneAnswered n k s t [{ seq := seq, slot := 0, cause := 37, val := BitVec.ofNat 64 (q % 16 * 2 ^ 60 + i % 4096) }] := by
  obtain ⟨l, hl, he⟩ := planeAnswer_step ha hp ho
  obtain ⟨h1, h2, h3, h4⟩ := Ctx.answered_goesOn hst
  have hr : State.planeStep { s with fw := { s.fw with planes := l } } n k op i q spec primer seq =
      (State.answered { s with fw := { s.fw with planes := l } } n k).raiseAt n k seq 0 37 (planeVal q i) := by
    have hs : State.setAddr { s with fw := { s.fw with planes := l } } (s.ctx n k).asn i = none := by
      change (s.space (s.ctx n k).asn).base.map _ = none
      rw [hb]
      rfl
    unfold State.planeStep
    change (match State.setAddr _ (s.ctx n k).asn i with | none => _ | some a => _) = _
    rw [hs]
  have hx : (((State.answered { s with fw := { s.fw with planes := l } } n k).raiseAt n k seq 0 37 (planeVal q i)).ctx n k) =
      { (s.ctx n k).answered with faults := (s.ctx n k).answered.faults ++ [{ seq := seq, slot := 0, cause := 37, val := planeVal q i }] } := by
    unfold State.raiseAt
    rw [ctx_updCtx, State.answered_ctx]
    rfl
  refine ⟨_, he.trans (by rw [hr]), onlyCtx_trans (updCtx_onlyCtx s n k Ctx.answered) (updCtx_onlyCtx ..), ?_, ?_, ?_, ?_, hl⟩
  · rw [hx]; exact h1
  · rw [hx]; exact h2
  · rw [hx]; exact congrArg (· ++ _) h3
  · rw [hx]; exact h4

/-- A plane instruction that breaks no rule is applied (R33, R171, R359). -/
theorem planeAnswer_applies {a e0 eq : Nat} (hq : q < 16) (hs : s.setAddr (s.ctx n k).asn i = some a)
    (h0 : s.tab (s.ctx n k).asn a 16 = .ok e0) (h1 : s.tab (s.ctx n k).asn (a + 16 * q) 16 = .ok eq)
    (hb : planeOpBad op q e0 eq = false) (hh : AtHome s a 256) (hq' : Settled s a 256)
    (hf : op = 1 → s.planeFrames (s.ctx n k).asn i q = { got := [], need := [] }) :
    ∃ t, execPlaneAgentAnswer n k s = .next t ∧ PlaneAnswered n k s t [] ∧ ∀ b, readByte b t.mem =
      if a + 16 * q ≤ b ∧ b < a + 16 * q + 16 then (leBytes 16 (planeOpEntry op eq spec primer)).getD (b - (a + 16 * q)) 0
      else if op = 0 ∧ b = a + 4 then BitVec.ofNat 8 (nbits e0 32 4 + (nbits e0 36 4 + 1) * 16)
      else if op = 1 ∧ b = a + 4 then BitVec.ofNat 8 (nbits e0 32 4 + (nbits e0 36 4 - 1) * 16)
      else readByte b s.mem := by
  obtain ⟨l, hl, he⟩ := planeAnswer_step ha hp ho
  have hap := State.applyPlane_writes (s := { s with fw := { s.fw with planes := l } }) (le_of_planeOpBad hb) hq hh hq' (s.ctx n k).asn
    op i e0 eq spec primer n k
  have hr := State.planeStep_applies (s := { s with fw := { s.fw with planes := l } }) (spec := spec) (primer := primer) (seq := seq)
    hs h0 h1 hb hf (hap.1.firmOut ho)
  obtain ⟨hk, hm⟩ := hap
  have hctx := hk.ctx fun p r e => absurd (ha.symm.trans e) (by simp)
  exact ⟨_, he.trans (congrArg Host.Outcome.next hr), State.answered_goesOn hctx hst ((congrArg (List.filter _) hk.planes).trans hl), hm⟩

end

/-- A plane instruction whose writes are acknowledged is answered (R33, R359). -/
theorem planeAnswer_applied {n k q seq : Nat} {s : State} (ha : (s.ctx n k).agent = some (.applied q seq))
    (hst : (s.ctx n k).st = .blocked .plane) (ho : s.firmOut = false) :
    ∃ t, execPlaneAgentAnswer n k s = .next t ∧ SameMem s t ∧ (t.ctx n k).st = .ready ∧ (t.ctx n k).agent = none ∧
      (t.ctx n k).faults = (s.ctx n k).faults ∧ ∀ c ∈ (t.ctx n k).ckpts, c.agent = false := by
  obtain ⟨l, e, -, -⟩ := s.queued_only n k
  have he : execPlaneAgentAnswer n k s = .next (((s.queued n k).dropPlane ((s.queued n k).ctx n k).asn q).answered n k) := by
    unfold execPlaneAgentAnswer
    rw [ha]
    change Host.Outcome.next (if (s.queued n k).firmOut = true then _ else _) = _
    rw [if_neg]
    · rfl
    · rw [e]
      exact fun h => Bool.false_ne_true (ho.symm.trans h)
  have hctx : ((s.queued n k).dropPlane ((s.queued n k).ctx n k).asn q).ctx n k = s.ctx n k := by
    rw [e]
    exact (State.dropPlane_planeKept n k { s with fw := { s.fw with planes := l } } _ q).ctx fun p r e => absurd (ha.symm.trans e) (by simp)
  obtain ⟨h1, h2, h3, h4⟩ := Ctx.answered_goesOn hst
  refine ⟨_, he, fun _ => by rw [e]; rfl, ?_⟩
  rw [State.answered_ctx, hctx]
  exact ⟨h1, h2, h3, h4⟩

end Sys2Proof.Machine
end

section
/-!
PROOF. Pages that the paging agent supplies (O41).
-/

namespace Sys2Proof.Machine

/-! ### Contexts that a supply wakes (R356, R357) -/

/-- The value at a key that is listed, after every value has changed. -/
theorem assocGet_map_listed {α : Type} (f : Nat → α → α) {n : Nat} (d : α) {l : List (Nat × α)} (h : ∃ c, (n, c) ∈ l) :
    assocGet n d (l.map fun c => (c.1, f c.1 c.2)) = f n (assocGet n d l) := by
  induction l with
  | nil => obtain ⟨c, hc⟩ := h; cases hc
  | cons p r ih =>
    obtain ⟨j, c⟩ := p
    by_cases e : j = n
    · subst e; simp [assocGet]
    · obtain ⟨x, hx⟩ := h
      have hr : ∃ c, (n, c) ∈ r := ⟨x, by simpa [Ne.symm e] using hx⟩
      simpa [assocGet, e] using ih hr

/-- Contexts stopped on a page and plane go on. -/
theorem State.wakeStops_ctx {s : State} {n k asn page plane : Nat} (hn : ∃ c, (n, c) ∈ s.cores)
    (ha : (s.ctx n k).agent = some (.frame page plane)) (hs : (s.ctx n k).asn = asn) (refused : Bool) :
    (s.wakeStops asn page plane refused).ctx n k = (s.ctx n k).supplied page plane refused := by
  unfold State.ctx State.core at *
  rw [State.wakeStops_cores, assocGet_map_listed (fun _ c => Core.released asn page plane refused c) _ hn, Core.released_ctx,
    Ctx.released, if_pos ⟨hs, ha⟩]

/-- A context stopped on the page and plane of a supply goes on, with refusals kept for it. -/
def Resumes (r : PageSupply) (n k : Nat) (s t : State) (l : List (Nat × Nat)) : Prop :=
  (t.ctx n k).st = .ready ∧ (t.ctx n k).agent = none ∧ (t.ctx n k).refusals = (s.ctx n k).refusals ++ l ∧
  (t.ctx n k).arch = (s.ctx n k).arch ∧ (r.asn, r.page, r.plane) ∉ t.fw.asked

section

variable {n k : Nat} {s : State} {r : PageSupply} (ha : (s.ctx n k).agent = some (.frame r.page r.plane))
  (hs : (s.ctx n k).asn = r.asn) (hst : (s.ctx n k).st = .blocked .paging) (hn : ∃ c, (n, c) ∈ s.cores)
include ha hs hst hn

/-- What the agent has made of a supply reaches the contexts stopped on it. -/
theorem pagingComplete_resumes {u : State} {refused : Bool} (h : s.supplyStep r = .done refused u) (hu : CoresLess s u) :
    ∃ t, execPagingComplete r s = .next t ∧ t.mem = u.mem ∧ Resumes r n k s t (if refused then [(r.page, r.plane)] else []) := by
  have hc := hu.ctx n k
  have hx : (u.wakeStops r.asn r.page r.plane refused).ctx n k = (s.ctx n k).supplied r.page r.plane refused := by
    rw [State.wakeStops_ctx (hu.listed hn) (by rwa [hc]) (by rwa [hc]), hc]
  have he : execPagingComplete r s = .next (u.wakeStops r.asn r.page r.plane refused) := by
    unfold execPagingComplete State.supplyPage
    rw [h]
  obtain ⟨_, _, hw⟩ := (s.ctx n k).wakeFrom_only .paging
  refine ⟨_, he, rfl, ?_, ?_, ?_, ?_, fun h => ?_⟩
  · rw [hx]; exact Ctx.wakeFrom_st hst
  · rw [hx]; rfl
  · rw [hx]
    cases refused
    · exact (List.append_nil _).symm
    · rfl
  · rw [hx]
    change ((s.ctx n k).wakeFrom .paging).arch = _
    rw [hw]
  · simpa using (List.mem_filter.1 h).2

end

/-! ### Frames allocated (R37, R400) -/

/-- Nothing of the package differs but counts, counters, swaps and pins of base dies, events and what the agent has registered. -/
structure FrameSame (s t : State) : Prop where
  only : ∃ k d f w, t = { s with stk := k, sched := d, free := f, fw := w }
  stack : ∀ u, (s.stack u).Same (t.stack u)

theorem FrameSame.refl (s : State) : FrameSame s s := ⟨⟨_, _, _, _, rfl⟩, fun _ => .refl _⟩

theorem FrameSame.trans {s t u : State} (h : FrameSame s t) (g : FrameSame t u) : FrameSame s u := by
  obtain ⟨⟨_, _, _, _, rfl⟩, h⟩ := h
  obtain ⟨⟨_, _, _, _, rfl⟩, g⟩ := g
  exact ⟨⟨_, _, _, _, rfl⟩, fun u => (h u).trans (g u)⟩

/-- A frame's pages pinned or no longer, and the list of frames changed. -/
theorem State.pinFrame_same (s : State) (up : Bool) (f : Frame) (l : List Frame) :
    FrameSame s { (s.pinFrame up f) with fw := { (s.pinFrame up f).fw with frames := l } } := by
  have h : StkSame s (s.pinFrame up f) := by
    unfold State.pinFrame
    split
    · exact State.pinExtent_same ..
    · exact .refl s
  obtain ⟨⟨_, _, _, e⟩, hs⟩ := h
  exact ⟨by rw [e]; exact ⟨_, _, _, _, rfl⟩, hs⟩

/-- A frame allocated is the entry's, of the tier and size asked for (R37, R400). -/
theorem State.allocate_some {s t : State} {entry size tier : Nat} {f : Frame} (h : s.allocate entry size tier = some (f, t)) :
    f.entry = entry ∧ f.size = size ∧ f.tier = tier ∧ FrameSame s t := by
  unfold State.allocate at h
  extract_lets new at h
  have hnew {u : State} (hu : FrameSame s u) (e : new u = some (f, t)) : f.entry = entry ∧ f.size = size ∧ f.tier = tier ∧ FrameSame s t := by
    obtain ⟨a, -, e⟩ := Option.map_eq_some_iff.1 e
    cases e
    exact ⟨rfl, rfl, rfl, hu.trans (State.pinFrame_same ..)⟩
  split at h
  · next g hg =>
    split at h
    · next hts =>
      cases h
      exact ⟨by simpa using List.find?_some hg, hts.2, hts.1, .refl s⟩
    · exact hnew (State.pinFrame_same ..) h
  · exact hnew (.refl s) h

theorem FrameSame.serves {s t : State} (h : FrameSame s t) : Serves s t :=
  ⟨fun u => (h.stack u).less, .of_eq (by obtain ⟨_, _, _, _, rfl⟩ := h.only; rfl)⟩

theorem FrameSame.mem {s t : State} (h : FrameSame s t) : t.mem = s.mem := by obtain ⟨_, _, _, _, rfl⟩ := h.only; rfl

theorem FrameSame.firmOut {s t : State} (h : FrameSame s t) : t.firmOut = s.firmOut := by obtain ⟨_, _, _, _, rfl⟩ := h.only; rfl

/-- Pages stand compressed as before. -/
theorem FrameSame.pageCmp {s t : State} (h : FrameSame s t) (a : Nat) : t.pageCmp a = s.pageCmp a := by
  unfold State.pageCmp
  split
  · unfold Remap.compressed
    rw [(h.stack _).res, (h.stack _).cmp]
  · rfl

/-! ### Copies of memory that is another frame's now (R38) -/

theorem State.forget_stack (s : State) (a n u : Nat) : (s.stack u).Less ((s.forget a n).stack u) ∧
    ((s.forget a n).stack u).l2 = (s.stack u).l2 := by
  unfold State.forget State.stack
  dsimp only
  rw [Vector.getElem_ofFn]
  exact ⟨⟨rfl, fun _ => rfl, fun l hl => ⟨l, (List.mem_filter.1 hl).1, rfl⟩, fun l hl => (List.mem_filter.1 hl).1⟩, rfl⟩

theorem State.forget_serves (s : State) (a n : Nat) : Serves s (s.forget a n) := by
  let out (line : Nat) : Bool := decide (line * 128 + 128 ≤ a) || decide (a + n ≤ line * 128)
  exact ⟨fun u => (s.forget_stack a n u).1, fun _ c => { c with l1 := c.l1.filter fun x => out x.line },
    fun _ c => c.less_l1 fun x hx => ⟨x, (List.mem_filter.1 hx).1, rfl⟩, rfl⟩

/-! ### A page supplied (R37, R356, R400) -/

section

variable {s : State} {r : PageSupply}

theorem supplyStep_refused (h : r.ok = false) : s.supplyStep r = .done true s := by
  unfold State.supplyStep
  rw [h]
  rfl

variable (h : r.ok = true)
include h

theorem supplyStep_bad (he : s.pageEntries r.asn r.page r.plane = .bad) : s.supplyStep r = .done false s := by
  unfold State.supplyStep
  rw [h, he]
  rfl

variable {e pe fe : Nat} (he : s.pageEntries r.asn r.page r.plane = .ok e pe fe) (ho : s.firmOut = false)
include he ho

theorem supplyStep_present (hp : nbits pe 0 1 = 0 ∨ nbits fe 57 1 = 1) : s.supplyStep r = .done false s := by
  unfold State.supplyStep
  rw [h, he]
  simp [ho, hp]

/-- A missing page gets its frame: filled, and named in its entry with P set. -/
theorem supplyStep_fills (h0 : nbits pe 0 1 = 1) (h1 : nbits fe 57 1 = 0) {fr : Frame} {s1 : State}
    (hal : s.allocate (frameAddr e r.plane) (frameSize pe) (nbits fe 60 2) = some (fr, s1))
    (hpin : fr.tier = 1 → s1.pinned (stackAt fr.fpa) (fr.fpa % 2 ^ 45) fr.size = true)
    (ha : AtHome s fr.fpa (supplyBytes r pe fe).length) (hx : AtHome s (frameAddr e r.plane) 16)
    (hsa : Settled s fr.fpa (supplyBytes r pe fe).length) (hsx : Settled s (frameAddr e r.plane) 16)
    (hd : frameAddr e r.plane + 16 ≤ fr.fpa ∨ fr.fpa + (supplyBytes r pe fe).length ≤ frameAddr e r.plane) :
    ∃ t, s.supplyStep r = .done false t ∧ CoresLess s t ∧ ∀ b, readByte b t.mem =
      if fr.fpa ≤ b ∧ b < fr.fpa + (supplyBytes r pe fe).length then (supplyBytes r pe fe).getD (b - fr.fpa) 0
      else if frameAddr e r.plane ≤ b ∧ b < frameAddr e r.plane + 16 then
        (leBytes 16 (entryWith fe fr.fpa (s.pageCmp fr.fpa))).getD (b - frameAddr e r.plane) 0
      else readByte b s.mem := by
  obtain ⟨hen, hsz, htr, hsame⟩ := State.allocate_some hal
  have hg : Serves s (s1.forget fr.fpa fr.size) := hsame.serves.trans (State.forget_serves ..)
  have hl2 (u : Nat) : ((s1.forget fr.fpa fr.size).stack u).l2 = (s.stack u).l2 := (s1.forget_stack _ _ u).2.trans (hsame.stack u).l2
  have hmem : (s1.forget fr.fpa fr.size).mem = s.mem := hsame.mem
  have hat {a n : Nat} (x : AtHome s a n) : AtHome (s1.forget fr.fpa fr.size) a n :=
    atHome_of_serves x hg (by unfold MemInv; rw [hmem]; exact x.1)
  have hw := State.fwPut_wrote (hat ha) (settled_of_serves hsa hg hl2)
  have hlen := leBytes_length 16 (entryWith fe fr.fpa (s.pageCmp fr.fpa))
  have hv := State.fwPut_wrote (s := (s1.forget fr.fpa fr.size).fwPut fr.fpa (supplyBytes r pe fe)) (a := frameAddr e r.plane)
    (l := leBytes 16 (entryWith fe fr.fpa (s.pageCmp fr.fpa))) (by rw [hlen]; exact hw.atHome (hat hx))
    (by rw [hlen]; exact hw.settled _ _ (hat hx) (settled_of_serves hsx hg hl2))
  have hfirm := State.dropTabs_firmOut (hv.firmOut.trans (hw.firmOut.trans (hsame.firmOut.trans ho))) r.asn
  refine ⟨_, ?_, (hg.trans (hw.serves.trans hv.serves)).cores.trans ((CoresLess.of_eq rfl).trans (State.dropKeys_less (State.dropTabs _ r.asn)
    fun key => key == pageKey r.asn r.page * 16 + r.plane)), fun b => ?_⟩
  · unfold State.supplyStep
    rw [h, he]
    have hp : ¬ (nbits pe 0 1 = 0 ∨ nbits fe 57 1 = 1) := by omega
    have hn : ¬ (fr.tier = 1 ∧ s1.pinned (stackAt fr.fpa) (fr.fpa % 2 ^ 45) fr.size = false) := fun e => Bool.false_ne_true (e.2.symm.trans (hpin e.1))
    simp only [Bool.not_true, Bool.false_eq_true, if_false, ho, if_neg hp, hal, if_neg hn, hen, hsame.pageCmp]
    exact if_neg (by
      rw [Bool.not_eq_true]
      exact hfirm)
  · have := lands_two hw.lands hv.lands (by rw [hlen]; exact hd) b
    rw [hlen, hmem] at this
    exact this

end

end Sys2Proof.Machine
end

section
/-!
PROOF. Contexts that are saved (O41).
-/

namespace Sys2Proof.Machine

/-! ### Runs that end (R217, R226) -/

theorem Core.settleRuns_ctxs (c : Core) : c.settleRuns.ctxs = c.ctxs := by
  have h (l : List Run) (d : Core) : (l.foldl (fun c r => if r.rows.n = 0 then c else c.record r.ctx r.opc r.rows r.mask) d).ctxs = d.ctxs := by
    induction l generalizing d with
    | nil => rfl
    | cons r l ih =>
      rw [List.foldl_cons, ih]
      split <;> rfl
  exact h ..

theorem Core.endRunOf_ctx (c : Core) (k j : Nat) : (c.endRunOf k).ctx j = c.ctx j := by
  unfold Core.ctx Core.endRunOf
  simp only [Core.settleRuns_ctxs]

theorem Arch.endRun_sr (a : Arch) (i : Nat) : (a.endRun i).sr = a.sr := by
  unfold Arch.endRun
  split <;> rfl

/-- The registers of a context whose runs of A, B, X and K have ended (R226). -/
def Arch.runsEnded (a : Arch) : Arch := ([4, 5, 6, 7] : List Nat).foldl (fun a i => a.endRun i) a

theorem Arch.runsEnded_sr (a : Arch) : a.runsEnded.sr = a.sr := by
  simp only [Arch.runsEnded, List.foldl_cons, List.foldl_nil, Arch.endRun_sr]

/-! ### Bytes written where no stack holds copies -/

/-- Where no stack holds a copy of a line nothing is stored, and none holds one then. -/
def KeepsEmpty (s t : State) : Prop :=
  (∀ u, (s.stack u).remote = []) → t.mem = s.mem ∧ ∀ u, (t.stack u).remote = []

theorem KeepsEmpty.refl (s : State) : KeepsEmpty s s := fun h => ⟨rfl, h⟩

theorem KeepsEmpty.trans {s t u : State} (h : KeepsEmpty s t) (g : KeepsEmpty t u) : KeepsEmpty s u := fun e => by
  obtain ⟨hm, hr⟩ := h e
  obtain ⟨gm, gr⟩ := g hr
  exact ⟨gm.trans hm, gr⟩

theorem State.homeAccess_keepsEmpty (s : State) (line : Nat) (wr : Bool) : KeepsEmpty s (s.homeAccess line wr) := fun h => by
  have hq := State.homeAccess_empty (line := line) (h _) wr
  exact ⟨hq.mem, fun u => hq.serves.remote_nil (h u)⟩

theorem State.flushOwn_keepsEmpty (s : State) (a n : Nat) : KeepsEmpty s (s.flushOwn a n) := by
  unfold State.flushOwn
  refine foldl_rel KeepsEmpty.refl KeepsEmpty.trans (fun s line h => ?_) _ s
  have hc : s.copyOf (stackAt a) line = none := by simp [State.copyOf, h]
  rw [hc]
  exact ⟨State.dropWords_mem .., fun u => (State.dropWords_serves ..).remote_nil (h u)⟩

/-- A write of bytes at home stores none outside their range. -/
theorem State.homePut_out {s : State} (hi : MemInv s) (hr : ∀ u, (s.stack u).remote = []) {a b : Nat} {l : List Byte}
    (hb : b < a ∨ a + l.length ≤ b) : readByte b (s.homePut a l).mem = readByte b s.mem := by
  have hm : (if uncached a = true then s else s.flushOwn a l.length).mem = s.mem := by
    split
    · rfl
    · exact (State.flushOwn_keepsEmpty s a l.length hr).1
  unfold State.homePut
  dsimp only
  split
  · exact congrArg (readByte b) hm
  · change readByte b (writeBytes a l (if uncached a = true then s else s.flushOwn a l.length).mem) = _
    rw [hm, readByte_writeBytes_out hb hi]

/-- A write of the firmware changes no byte of this package outside its range. -/
theorem State.fwPut_out {s : State} (hi : MemInv s) (hr : ∀ u, (s.stack u).remote = []) {a b : Nat} {l : List Byte}
    (hb : b < a ∨ a + l.length ≤ b) : readByte b (s.fwPut a l).mem = readByte b s.mem := by
  unfold State.fwPut
  split
  · obtain ⟨hm, hr'⟩ := foldl_rel KeepsEmpty.refl KeepsEmpty.trans (fun s x => State.homeAccess_keepsEmpty s x true) (linesOf a l.length) s hr
    rw [State.homePut_out (by unfold MemInv; rw [hm]; exact hi) hr' hb, hm]
  · rw [foldl_mem (fun _ _ => State.ask_mem ..)]

/-! ### Saves (R62) -/

theorem State.fwPut_less_free (s : State) (f a : Nat) (l : List Byte) : CoresLess s (State.fwPut { s with free := f } a l) :=
  .trans (t := { s with free := f }) (.of_eq rfl) (State.fwPut_less ..)

theorem State.fwPut_out_free {s : State} (hi : MemInv s) (hr : ∀ u, (s.stack u).remote = []) (f : Nat) {a b : Nat} {l : List Byte}
    (hb : b < a ∨ a + l.length ≤ b) : readByte b (State.fwPut { s with free := f } a l).mem = readByte b s.mem :=
  State.fwPut_out (s := { s with free := f }) hi hr hb

theorem State.writeArea_less (s : State) (area : Nat) (x : Ctx) (v : Saved) : CoresLess s (s.writeArea area x v) := by
  unfold State.writeArea
  by_cases h : inCsr area = true
  · rw [if_pos h]
    exact .refl s
  · rw [if_neg h]
    exact State.fwPut_less_free ..

/-- A save area's bytes are all that its writing changes. -/
theorem State.writeArea_out {s : State} (hi : MemInv s) (hr : ∀ u, (s.stack u).remote = []) {area b : Nat} {x : Ctx} {v : Saved}
    (hb : b < area ∨ area + x.saveBytes ≤ b) : readByte b (s.writeArea area x v).mem = readByte b s.mem := by
  unfold State.writeArea
  by_cases h : inCsr area = true
  · rw [if_pos h]
  · rw [if_neg h]
    refine State.fwPut_out_free hi hr _ ?_
    rw [List.length_take]
    omega

/-- The state in which a context's area is written: its runs have ended (R226). -/
def State.runsEnded (s : State) (n k : Nat) : State :=
  s.updCore n fun c => (c.endRunOf k).updCtx k fun x => x.changeAll Arch.runsEnded

theorem Ctx.changeAll_saveTo (x : Ctx) (f : Arch → Arch) : (x.changeAll f).saveTo = x.saveTo := rfl

theorem Ctx.changeAll_saveBytes (x : Ctx) (f : Arch → Arch) : (x.changeAll f).saveBytes = x.saveBytes := by
  unfold Ctx.saveBytes Ctx.poolBytes Ctx.changeAll
  rfl

theorem State.runsEnded_ctx (s : State) (n k : Nat) : (s.runsEnded n k).ctx n k = (s.ctx n k).changeAll Arch.runsEnded := by
  unfold State.runsEnded State.ctx
  rw [core_updCore, Core.ctx_updCtx, Core.endRunOf_ctx]

/-- The area of a context written, where it has one. -/
def State.areaWritten (s : State) (n k : Nat) : State :=
  match (s.ctx n k).saveTo with
  | some a => s.writeArea a (s.ctx n k) ((s.core n).savedOf n k)
  | none => s

theorem State.areaWritten_less (s : State) (n k : Nat) : CoresLess s (s.areaWritten n k) := by
  unfold State.areaWritten
  split
  · exact State.writeArea_less ..
  · exact .refl s

theorem State.areaWritten_out {s : State} {n k b : Nat} (hi : MemInv s) (hr : ∀ u, (s.stack u).remote = [])
    (hb : ∀ a, (s.ctx n k).saveTo = some a → b < a ∨ a + (s.ctx n k).saveBytes ≤ b) :
    readByte b (s.areaWritten n k).mem = readByte b s.mem := by
  unfold State.areaWritten
  split
  · next a h => exact State.writeArea_out hi hr (hb a h)
  · rfl

theorem State.finish_cores (s : State) (q : HostCmd) (cmd st res : Nat) (data : List Byte) : (s.finish q cmd st res data).cores = s.cores := by
  unfold State.finish State.finishDrop
  split <;> rfl

theorem State.savedDone_cores (s : State) (n k : Nat) (late : Bool) : (s.savedDone n k late).cores = s.cores := by
  unfold State.savedDone
  refine foldl_rel (R := fun s t => t.cores = s.cores) (fun _ => rfl) (fun h g => g.trans h) (fun s w => ?_) _ _
  split
  · exact State.finish_cores ..
  · rfl

theorem State.notifyFault_cores (s : State) (n k area : Nat) (e : Esc) : (s.notifyFault n k area e).cores = s.cores := by
  unfold State.notifyFault
  split <;> rfl

/-- A context that has been saved. -/
def Ctx.left (x : Ctx) : Ctx :=
  { x with st := .saved, esc := none, leave := none
           agent := match x.agent with | some (.frame p q) => some (.frame p q) | _ => none }

/-- The core of a context that has been saved, its area written. -/
def State.leftBy (s : State) (n k : Nat) (l : List Saved) : State :=
  State.updCtx { s.updCore n (fun c => c.leave k) with saved := l } n k Ctx.left

/-- What a save ends with: the fault notification, or the commands that wait for it. -/
def State.saveTold (s : State) (n k fpa : Nat) (e : Option Esc) (late : Bool) : State :=
  (match e with | some e => s.notifyFault n k fpa e | none => s).savedDone n k late

theorem State.saveTold_mem (s : State) (n k fpa : Nat) (e : Option Esc) (late : Bool) : (s.saveTold n k fpa e late).mem = s.mem := by
  unfold State.saveTold
  rw [State.savedDone_mem]
  split
  · exact State.notifyFault_mem ..
  · rfl

theorem State.saveTold_core (s : State) (n k fpa : Nat) (e : Option Esc) (late : Bool) (m : Nat) :
    (s.saveTold n k fpa e late).core m = s.core m := by
  unfold State.saveTold State.core
  rw [State.savedDone_cores]
  split
  · rw [State.notifyFault_cores]
  · rfl

/-- A completed save: the area is written, the core is left, and the context is Saved. -/
theorem saveComplete_next (n k : Nat) (s : State) : ∃ l fpa e late, execSaveComplete n k s =
    .next ((((s.runsEnded n k).areaWritten n k).leftBy n k l).saveTold n k fpa e late) := ⟨_, _, _, _, rfl⟩

theorem State.leftBy_core (s : State) (n k : Nat) (l : List Saved) :
    (s.leftBy n k l).core n = ((s.core n).leave k).updCtx k Ctx.left := by
  have hc : State.core { s.updCore n (fun c => c.leave k) with saved := l } n = (s.core n).leave k :=
    core_updCore s n fun c => c.leave k
  unfold State.leftBy
  rw [core_updCtx, hc]

/-- What the engines still hold of a context that has left. -/
theorem Core.leave_flights {c : Core} {k : Nat} {f : Flight} (h : f ∈ (c.leave k).flights) : f.ctx ≠ k := by
  simpa using (List.mem_filter.1 h).2

theorem Core.leave_queue {c : Core} {k : Nat} {e : Entry} (h : e ∈ (c.leave k).queue) : e.ctx ≠ k := by
  simpa using (List.mem_filter.1 h).2

theorem Core.leave_ctx (c : Core) (k j : Nat) : (c.leave k).ctx j = c.ctx j := rfl

theorem saveComplete_saves (n k : Nat) (s : State) : ∃ t, execSaveComplete n k s = .next t ∧ (t.ctx n k).st = .saved ∧
    (MemInv s → (∀ u, (s.stack u).remote = []) → (∀ a, (s.ctx n k).saveTo = some a → a % 4096 = 0) → ∀ b,
      (∀ a, (s.ctx n k).saveTo = some a → b < a ∨ a + (s.ctx n k).saveBytes ≤ b) → readByte b t.mem = readByte b s.mem) ∧
    (∀ f ∈ (t.core n).flights, f.ctx ≠ k) ∧ (∀ e ∈ (t.core n).queue, e.ctx ≠ k) ∧
    (t.ctx n k).arch.sr = (s.ctx n k).arch.sr := by
  obtain ⟨l, fpa, e, late, he⟩ := saveComplete_next n k s
  have hc : ((((s.runsEnded n k).areaWritten n k).leftBy n k l).saveTold n k fpa e late).core n =
      ((((s.runsEnded n k).areaWritten n k).core n).leave k).updCtx k Ctx.left := by
    rw [State.saveTold_core, State.leftBy_core]
  have hx : ((((s.runsEnded n k).areaWritten n k).leftBy n k l).saveTold n k fpa e late).ctx n k =
      ((s.ctx n k).changeAll Arch.runsEnded).left := by
    rw [← State.runsEnded_ctx, ← (State.areaWritten_less (s.runsEnded n k) n k).ctx]
    unfold State.ctx
    rw [hc, Core.ctx_updCtx, Core.leave_ctx]
  refine ⟨_, he, by rw [hx]; rfl, fun hi hr _ b hb => ?_, fun f hf => ?_, fun e he => ?_, ?_⟩
  · rw [State.saveTold_mem]
    refine State.areaWritten_out (s := s.runsEnded n k) hi hr ?_
    rw [State.runsEnded_ctx, Ctx.changeAll_saveTo, Ctx.changeAll_saveBytes]
    exact hb
  · rw [hc, Core.updCtx_flights] at hf
    exact Core.leave_flights hf
  · rw [hc, Core.updCtx_queue] at he
    exact Core.leave_queue he
  · rw [hx]
    exact Arch.runsEnded_sr _

/-! ### The obligation -/

/-- Settles O41: a refill and the spill space change one context; the paging agent's answers write only bytes at home and leave the
contexts that wait for them, which then go on; a save writes its area alone where no stack holds copies. -/
theorem pagingAndAgentEvents : Obligations.PagingAndAgentEvents := by
  unfold Obligations.PagingAndAgentEvents
  intro n k ep s _ _
  refine ⟨rqRefill_adds n k s, fun w ha hs => spillSpace_places ha hs, fun op i q spec primer seq ha hst hp ho => ⟨?_, ?_⟩,
    fun q seq ha hst ho => planeAnswer_applied ha hst ho, fun r ha hs hst hn => ⟨?_, ?_, ?_⟩, saveComplete_saves n k s⟩
  · exact planeAnswer_refused ha hst hp ho
  · intro a e0 eq hq hs h0 h1 hb hh hq' hf
    exact planeAnswer_applies ha hst hp ho hq hs h0 h1 hb hh hq' hf
  · intro hr
    obtain ⟨t, he, hm, hg⟩ := pagingComplete_resumes ha hs hst hn (supplyStep_refused hr) (.refl s)
    exact ⟨t, he, fun _ => by rw [hm], hg⟩
  · intro hr hb
    obtain ⟨t, he, hm, hg⟩ := pagingComplete_resumes ha hs hst hn (supplyStep_bad hr hb) (.refl s)
    exact ⟨t, he, fun _ => by rw [hm], hg⟩
  · intro e pe fe hr hok ho
    refine ⟨fun hp => ?_, fun fr s1 h0 h1 hal hpin hat hax hsa hsx hd => ?_⟩
    · obtain ⟨t, he, hm, hg⟩ := pagingComplete_resumes ha hs hst hn (supplyStep_present hr hok ho hp) (.refl s)
      exact ⟨t, he, fun _ => by rw [hm], hg⟩
    · obtain ⟨hen, hsz, htr, -⟩ := State.allocate_some hal
      obtain ⟨u, hu, hless, hmem⟩ := supplyStep_fills hr hok ho h0 h1 hal hpin hat hax hsa hsx hd
      obtain ⟨t, he, hm, hg⟩ := pagingComplete_resumes ha hs hst hn hu hless
      exact ⟨htr, hsz, hen, t, he, hg, fun b => by rw [hm]; exact hmem b⟩

end Sys2Proof.Machine
end

section
/-!
SUPPORT. The S words that wait, fork contexts, ask the paging agent and use channels (R60, R153 to R156, R171 to R174).
-/

namespace Sys2Proof.Machine

/-! ### S words -/

/-- A true predicate lets an S word take its effect (R68). -/
theorem sWord_next {p : BitVec 3} {s : State} (h : s.qual p = true) (f : State → State) : sWord p f s = .next (f s) := by
  simp [sWord, h]

theorem next_of_sWord {o : Out1} {p : BitVec 3} {f : State → State} {s t : State} (ho : o = sWord p f s) (hp : s.qual p = true)
    (hf : f s = t) : o = .next t := by rw [ho, sWord_next hp, hf]

theorem wordVal_eq_append (hdr raw : Word) : wordVal hdr raw = (hdr ++ raw : BitVec 64) := by
  have h : raw.toNat < 2 ^ 32 := raw.isLt
  apply BitVec.eq_of_toNat_eq
  rw [BitVec.toNat_append, ← Nat.shiftLeft_add_eq_or_of_lt h, Nat.shiftLeft_eq, wordVal, BitVec.toNat_ofNat]
  exact Nat.mod_eq_of_lt (by have := hdr.isLt; omega)

/-- A fault of an S word whose value is the word itself (R322). -/
theorem raiseWord_raises {s : State} (h : s.act.entry.slot = .s) (cause : Nat) : RaisesWord cause 0 s (s.raiseWord cause) := by
  refine ⟨updCtx_onlyCtx .., (me_updMe s _).trans ?_⟩
  rw [h, wordVal_eq_append]
  rfl

theorem raises_of_sWord {o : Out1} {p : BitVec 3} {f : State → State} {s : State} {cause : Nat} (ho : o = sWord p f s) (hp : s.qual p = true)
    (hs : s.act.entry.slot = .s) (hf : f s = s.raiseWord cause) : ∃ t, o = .next t ∧ RaisesWord cause 0 s t :=
  ⟨_, next_of_sWord ho hp hf, raiseWord_raises hs cause⟩

/-- A change of the running context and of its core's event counters alone. -/
theorem updMyCore_blocksMe (s : State) (src : Nat) (k : Option Nat) (n : Nat) (f : Ctx → Ctx) :
    BlocksMe s (s.updMyCore fun o => (o.count src k n).updCtx s.act.ctx f) ∧
    (s.updMyCore fun o => (o.count src k n).updCtx s.act.ctx f).me = f s.me := by
  refine ⟨⟨updCore_onlyCore .., ?_, fun j hj => ?_⟩, ?_⟩
  · rw [myCore_updMyCore]; rfl
  · unfold State.ctx
    rw [State.updMyCore, core_updCore, Core.ctx_updCtx_ne _ hj]
    rfl
  · rw [me_updMyCore, Core.ctx_updCtx]
    rfl

theorem updMe_onlyCtx (s : State) (f : Ctx → Ctx) : OnlyCtx s.act.core s.act.ctx s (s.updMe f) := updCtx_onlyCtx ..

theorem onlyCore_trans {n : Nat} {s t u : State} (h : OnlyCore n s t) (g : OnlyCore n t u) : OnlyCore n s u := by
  obtain ⟨h0, hm, hc⟩ := h
  obtain ⟨g0, gm, gc⟩ := g
  exact ⟨by rw [g0, h0], fun a => (gm a).trans (hm a), fun m hn => (gc m hn).trans (hc m hn)⟩

theorem BlocksMe.trans {s t u : State} (h : BlocksMe s t) (g : BlocksMe t u) : BlocksMe s u := by
  have ha : t.act = s.act := by rw [h.1.1]
  obtain ⟨ho, hme, hj⟩ := h
  obtain ⟨go, gme, gj⟩ := g
  rw [ha] at go gj
  exact ⟨onlyCore_trans ho go, by rw [gme, hme], fun j hn => (gj j hn).trans (hj j hn)⟩

theorem updMe_blocksMe (s : State) (f : Ctx → Ctx) : BlocksMe s (s.updMe f) :=
  ⟨(updCtx_onlyCtx s s.act.core s.act.ctx f).1, by rw [myCore_updMe]; rfl, fun _ hj => ctx_updCtx_ne _ (.inr hj) _⟩

theorem block_blocksMe (s : State) (c : Cause) : BlocksMe s (s.block c) := (updMyCore_blocksMe ..).1

@[simp] theorem block_me (s : State) (c : Cause) : (s.block c).me = { s.me with st := .blocked c, probe := 0, on := none } :=
  (updMyCore_blocksMe ..).2

/-! ### Waits and the life of contexts (R60, R153 to R155) -/

/-- The object that a membership register names (R59). -/
theorem dmlObj_eq (d : Dword) : dmlObj d = { peer := d.toNat / 2 ^ 52, obj := d.toNat / 2 ^ 32 % 2 ^ 12 } := by
  have := d.isLt
  simp only [dmlObj, fld, nbits, DomRef.mk.injEq, and_true]
  omega

theorem syncd_zero {s : State} {p : BitVec 3} (h : BitVec 1) (hp : s.qual p = true) : execSyncd h p 0 s = .next s := sWord_next hp _

theorem syncd_blocks {s : State} {p v : BitVec 3} (h : BitVec 1) (hp : s.qual p = true) (hv : v ≠ 0)
    (hd : fld (s.arch.dml v.toNat) 0 3 ≠ 0) :
    ∃ t, execSyncd h p v s = .next t ∧ BlocksMe s t ∧
      t.me = { s.me with st := .blocked .sync, probe := 0, on := none
                         sync := some { obj := dmlObj (s.arch.dml v.toNat), lv := v, seq := s.act.entry.seq, sent := false } } := by
  refine ⟨_, (sWord_next hp _).trans (by rw [if_neg hv, if_neg hd]), BlocksMe.trans (updMe_blocksMe s _) (block_blocksMe _ .sync), ?_⟩
  rw [block_me, me_updMe]

theorem syncd_raises {s : State} {p v : BitVec 3} (h : BitVec 1) (hp : s.qual p = true) (hs : s.act.entry.slot = .s) (hv : v ≠ 0)
    (hd : fld (s.arch.dml v.toNat) 0 3 = 0) : ∃ t, execSyncd h p v s = .next t ∧ RaisesWord 17 0 s t :=
  raises_of_sWord rfl hp hs ((if_neg hv).trans (if_pos hd))

theorem yield_blocks {s : State} {p : BitVec 3} (h : BitVec 1) (hp : s.qual p = true) :
    ∃ t, execYield h p s = .next t ∧ BlocksMe s t ∧ t.me = { s.me with st := .ready, waitCnt := 0 } :=
  ⟨_, sWord_next hp _, updMyCore_blocksMe ..⟩

theorem retire_retires {s : State} {p : BitVec 3} (h : BitVec 1) (hp : s.qual p = true) :
    ∃ t, execRetire h p s = .next t ∧ OnlyCtx s.act.core s.act.ctx s t ∧ t.me = { s.me with st := .retired } :=
  ⟨_, sWord_next hp _, updCtx_onlyCtx .., me_updMe s _⟩

/-- Settles O13, word by word; `State.block` changes the running context and its core's counters alone. -/
theorem waitAndLifeWords : Obligations.WaitAndLifeWords := by
  unfold Obligations.WaitAndLifeWords
  intro h p v s hp hs
  have hf : fld (s.arch.dml v.toNat) 0 3 = (s.arch.dml v.toNat).toNat % 8 := by simp [fld, nbits]
  refine ⟨syncd_zero h hp, fun hv hd => ?_, fun hv hd => syncd_raises h hp hs hv (hf.trans hd), yield_blocks h hp, retire_retires h hp⟩
  rw [← dmlObj_eq]
  exact syncd_blocks h hp hv (hf ▸ hd)

/-! ### FORK (R49, R53, R156) -/

theorem Core.reservedOf_some {c : Core} {b : Bind} {k : Nat} (h : c.reservedOf b = some k) : k < 4 ∧ ∃ y, (c.ctx k).bnd = some y := by
  have hk := List.mem_of_find?_eq_some h
  have hp := List.find?_some h
  refine ⟨by simpa using hk, ?_⟩
  cases hb : (c.ctx k).bnd with
  | none => simp [hb] at hp
  | some y => exact ⟨y, rfl⟩

theorem State.sendFor_only (s : State) (o : Option Nat) (t cls weight dst : Nat) (m : Out) :
    ∃ stk, s.sendFor o t cls weight dst m = { s with stk := stk } := by
  unfold State.sendFor
  split
  · exact ⟨_, rfl⟩
  · exact ⟨_, rfl⟩

/-- Changes of membership sent only wait at stations (R61). -/
theorem State.sendMbr_only (s : State) (n k : Nat) (inc : Bool) (l : List DomRef) : ∃ stk, s.sendMbr n k inc l = { s with stk := stk } := by
  induction l generalizing s with
  | nil => exact ⟨_, rfl⟩
  | cons o r ih =>
    obtain ⟨x, hx⟩ := s.sendFor_only (some n) (stackOf n) 0 (arbWeight (s.ctx n k).arch.csr.arbw 0) o.peer
      (.event (.mbrChange o inc (ctxRef n k)))
    obtain ⟨y, hy⟩ := ih { s with stk := x }
    exact ⟨y, by rw [State.sendMbr, State.sendFrom, hx, hy]⟩

theorem Arch.reset_getS (r : BitVec 5) : Arch.reset.getS r = 0 := by
  unfold Arch.getS
  split
  · rfl
  · simp [Arch.reset]

/-- The scalars of a context that `FORK` starts (R49, R156). -/
theorem forkArch_getS (a : Arch) (y : Bind) (arg entry : Dword) (r : BitVec 5) : (forkArch a y arg entry).getS r =
    if r = 1 then BitVec.ofNat 64 y.inst else if r = 2 then BitVec.ofNat 64 y.icount
    else if r = 3 then BitVec.ofNat 64 y.iix else if r = 4 then arg else 0 := by
  change ((((Arch.reset.setS 1 _).setS 2 _).setS 3 _).setS 4 arg).getS r = _
  simp only [(setS_writes _ _ _).1, Arch.reset_getS]
  by_cases h1 : r = 1
  · subst h1; rfl
  by_cases h2 : r = 2
  · subst h2; rfl
  by_cases h3 : r = 3
  · subst h3; rfl
  simp only [h1, h2, h3, if_false, false_and, ne_eq]
  simp

/-- What stands in the slot of a context that `FORK` starts (R49, R53, R156). -/
def forkCtx (s : State) (k : Nat) (y : Bind) (arg entry : Dword) : Ctx :=
  { Ctx.reset with
    st := .ready, bnd := some y, arch := forkArch s.arch y arg entry, seq := (s.ctx s.act.core k).seq, from_ := s.myCore.cyc + 1
    incs := s.arch.domains.length, parent := s.act.ctx }

/-- The state in which `FORK` has started a context, whose domains are still to be told. -/
def State.forked (s : State) (k : Nat) (y : Bind) (arg entry : Dword) : State :=
  (s.updCtx s.act.core k fun _ => forkCtx s k y arg entry).updMe fun x => { x with incs := x.incs + s.arch.domains.length }

theorem State.forked_core_ne (s : State) (k : Nat) (y : Bind) (arg entry : Dword) {m : Nat} (h : m ≠ s.act.core) :
    (s.forked k y arg entry).core m = s.core m :=
  (core_updCtx_ne _ h ..).trans (core_updCtx_ne _ h ..)

section

variable {s : State} {k : Nat} (h : k % 4 ≠ s.act.ctx % 4) (y : Bind) (arg entry : Dword)
include h

theorem State.forked_ctx : (s.forked k y arg entry).ctx s.act.core k = forkCtx s k y arg entry :=
  (ctx_updCtx_ne _ (.inr h) _).trans (ctx_updCtx ..)

theorem State.forked_arch : (s.forked k y arg entry).arch = s.arch := by
  have h1 : (s.updCtx s.act.core k fun _ => forkCtx s k y arg entry).me = s.me := ctx_updCtx_ne s (.inr h.symm) _
  unfold State.arch State.forked
  rw [me_updMe, h1]

end

theorem execFork_some {s : State} {p : BitVec 3} (h : BitVec 1) (a b : BitVec 5) {c : BitVec 5} {mine y : Bind} {k : Nat}
    (hp : s.qual p = true) (hc : fld (s.getS c) 0 2 = 0) (hm : s.me.bnd = some mine) (hk : s.myCore.reservedOf mine = some k)
    (hy : (s.ctx s.act.core k).bnd = some y) : execFork h p a b c s =
      .next (((s.forked k y (s.getS b) (s.getS c)).sendMbr s.act.core k true s.arch.domains).setS a (BitVec.ofNat 64 y.iix)) := by
  have hy' : (s.myCore.ctx k).bnd = some y := hy
  refine (sWord_next hp _).trans ?_
  simp only [hc, ne_eq, not_true_eq_false, if_false, hm, hk, hy', Option.getD_some]
  unfold State.forked forkCtx
  rw [← hy]
  rfl

theorem fork_starts {s : State} {p : BitVec 3} (h : BitVec 1) (a b : BitVec 5) {c : BitVec 5} {mine : Bind} {k : Nat}
    (hp : s.qual p = true) (hc : fld (s.getS c) 0 2 = 0) (hm : s.me.bnd = some mine) (hk : s.myCore.reservedOf mine = some k)
    (hne : k ≠ s.act.ctx % 4) :
    ∃ t y, execFork h p a b c s = .next t ∧ SameMem s t ∧ (∀ m, m ≠ s.act.core → t.core m = s.core m) ∧
      (s.ctx s.act.core k).bnd = some y ∧ t.ctx s.act.core k = forkCtx s k y (s.getS b) (s.getS c) ∧
      WritesScalar a (BitVec.ofNat 64 y.iix) s.arch t.arch := by
  obtain ⟨h4, y, hy⟩ := Core.reservedOf_some hk
  have hk4 : k % 4 ≠ s.act.ctx % 4 := by omega
  obtain ⟨stk, hs⟩ := (s.forked k y (s.getS b) (s.getS c)).sendMbr_only s.act.core k true s.arch.domains
  refine ⟨_, y, execFork_some h a b hp hc hm hk hy, ?_⟩
  rw [hs]
  refine ⟨fun _ => rfl, fun m hn => ?_, hy, ?_, ?_⟩
  · exact (core_updCtx_ne _ hn ..).trans (State.forked_core_ne s k y _ _ hn)
  · exact (ctx_updCtx_ne _ (.inr hk4) _).trans (State.forked_ctx hk4 ..)
  · rw [State.setS, arch_onArch, ← State.forked_arch hk4 y (s.getS b) (s.getS c)]
    exact setS_writes ..

theorem fork_none {s : State} {p : BitVec 3} (h : BitVec 1) (a b : BitVec 5) {c : BitVec 5} {mine : Bind}
    (hp : s.qual p = true) (hc : fld (s.getS c) 0 2 = 0) (hm : s.me.bnd = some mine) (hk : s.myCore.reservedOf mine = none) :
    ∃ t, execFork h p a b c s = .next t ∧ OnlyMine s t ∧ WritesScalar a (BitVec.allOnes 64) s.arch t.arch := by
  refine ⟨s.setS a (BitVec.allOnes 64), (sWord_next hp _).trans ?_, onArch_onlyMine .., ?_⟩
  · simp [hc, hm, hk]
  · rw [State.setS, arch_onArch]
    exact setS_writes ..

theorem fork_raises {s : State} {p : BitVec 3} (h : BitVec 1) (a b : BitVec 5) {c : BitVec 5} (hp : s.qual p = true)
    (hs : s.act.entry.slot = .s) (hc : fld (s.getS c) 0 2 ≠ 0) : ∃ t, execFork h p a b c s = .next t ∧ RaisesWord 17 0 s t :=
  raises_of_sWord rfl hp hs (if_pos hc)

/-- Settles O14: with a Reserved context its slot holds `forkCtx`, and the messages to its domains only wait at stations. -/
theorem forkWord : Obligations.ForkWord := by
  unfold Obligations.ForkWord
  intro h p a b c s mine hp hs hm
  have hf : fld (s.getS c) 0 2 = (s.getS c).toNat % 4 := by simp [fld, nbits]
  refine ⟨fun hc k hk hne => ?_, fun hc hk => fork_none h a b hp (hf.trans hc) hm hk, fun hc => ?_⟩
  · obtain ⟨t, y, he, hsm, hcore, hy, hx, hw⟩ := fork_starts h a b hp (hf.trans hc) hm hk hne
    refine ⟨t, y, he, hsm, hcore, hy, ?_⟩
    rw [hx]
    exact ⟨rfl, rfl, rfl, rfl, fun r => forkArch_getS .., rfl, rfl, hw⟩
  · exact fork_raises h a b hp hs (hf ▸ hc)

/-! ### Plane words (R171, R359) -/

theorem mem_insertSched_of_mem {t : Nat} {i : Instr} {l : List (Nat × Instr)} {x : Nat × Instr} (h : x ∈ l) : x ∈ insertSched t i l := by
  induction l with
  | nil => simp at h
  | cons y r ih =>
    unfold insertSched
    split
    · exact List.mem_cons_of_mem _ h
    · rcases List.mem_cons.1 h with rfl | h
      · exact List.mem_cons_self ..
      · exact List.mem_cons_of_mem _ (ih h)

/-- A context as its plane instruction asks the agent (R171, R359). -/
def Ctx.asking (op psi q : Nat) (spec primer : Dword) (seq : Nat) (x : Ctx) : Ctx :=
  { x with agent := some (.plane op psi q spec primer seq)
           ckpts := x.ckpts.map fun k => if k.seq = seq then { k with agent := true } else k }

theorem askAgent_eq (s : State) (op psi q : Nat) (spec primer : Dword) : s.askAgent op psi q spec primer =
    ((s.updMe (Ctx.asking op psi q spec primer s.act.entry.seq)).block .plane).after Config.latPlane
      (.planeAgentAnswer s.act.core s.act.ctx) := rfl

theorem askAgent_asks (s : State) (op psi q : Nat) (spec primer : Dword) :
    AsksAgent op psi q spec primer s (s.askAgent op psi q spec primer) := by
  let u := s.updMe (Ctx.asking op psi q spec primer s.act.entry.seq)
  obtain ⟨⟨-, hm, hc⟩, hme, hj⟩ := BlocksMe.trans (updMe_blocksMe s _) (block_blocksMe u .plane)
  have hx : (s.askAgent op psi q spec primer).me =
      { s.me.asking op psi q spec primer s.act.entry.seq with st := .blocked .plane, probe := 0, on := none } :=
    (block_me u .plane).trans (by rw [me_updMe])
  rw [askAgent_eq] at hx ⊢
  exact ⟨rfl, hm, hc, hme, hj, by rw [hx]; rfl, ⟨_, mem_insertSched ..⟩, fun x hx => mem_insertSched_of_mem hx⟩

theorem asks_of_sWord {o : Out1} {p : BitVec 3} {f : State → State} {s : State} {op psi q : Nat} {spec primer : Dword}
    (ho : o = sWord p f s) (hp : s.qual p = true) (hf : f s = s.askAgent op psi q spec primer) :
    ∃ t, o = .next t ∧ AsksAgent op psi q spec primer s t :=
  ⟨_, next_of_sWord ho hp hf, askAgent_asks ..⟩

/-- A plane set number above 4095 sets bits 63:12 (R343). -/
theorem fld_planeSet (x : Dword) : fld x 12 52 = 0 ↔ x.toNat < 4096 := by
  have := x.isLt
  simp only [fld, nbits]
  omega

section

variable {s : State} {p : BitVec 3} {a : BitVec 5} (h : BitVec 1) (hp : s.qual p = true) (b c : BitVec 5) (w r : BitVec 1) (q : BitVec 4)
include hp

theorem plane_asks (ha : (s.getS a).toNat < 4096) :
    (specBad (s.getS b) = false → ∃ t, execPcrt h p a b c q s = .next t ∧
      AsksAgent 0 (s.getS a).toNat q.toNat (s.getS b) (s.getS c) s t) ∧
    (∃ t, execPdel h p a q s = .next t ∧ AsksAgent 1 (s.getS a).toNat q.toNat 0 0 s t) ∧
    ∃ t, execPprt h p a w r q s = .next t ∧
      AsksAgent 2 (s.getS a).toNat q.toNat (BitVec.ofNat 64 (r.toNat * 2 ^ 9 + w.toNat * 2 ^ 10)) 0 s t := by
  have hf := (fld_planeSet (s.getS a)).2 ha
  exact ⟨fun hb => asks_of_sWord rfl hp (if_neg (by simp [hf, hb])), asks_of_sWord rfl hp (if_neg (not_not.2 hf)),
    asks_of_sWord rfl hp (if_neg (not_not.2 hf))⟩

theorem plane_raises (hs : s.act.entry.slot = .s) (ha : 4096 ≤ (s.getS a).toNat) :
    (∃ t, execPcrt h p a b c q s = .next t ∧ RaisesWord 17 0 s t) ∧
    (∃ t, execPdel h p a q s = .next t ∧ RaisesWord 17 0 s t) ∧ ∃ t, execPprt h p a w r q s = .next t ∧ RaisesWord 17 0 s t := by
  have hf : fld (s.getS a) 12 52 ≠ 0 := fun e => absurd ((fld_planeSet _).1 e) (Nat.not_lt.2 ha)
  exact ⟨raises_of_sWord rfl hp hs (if_pos (.inl hf)), raises_of_sWord rfl hp hs (if_pos hf), raises_of_sWord rfl hp hs (if_pos hf)⟩

end

/-- Settles O15: each word asks the agent where its operands are inside their layouts. -/
theorem planeWords : Obligations.PlaneWords := by
  unfold Obligations.PlaneWords
  intro h p a b c w r q s hp hs
  exact ⟨plane_asks h hp b c w r q, plane_raises h hp b c w r q hs⟩

/-! ### Channel words (R172 to R174, R373) -/

theorem Ctx.chan_setChan_ne (x : Ctx) {e j : Nat} (h : j % 8 ≠ e % 8) (c : Chan) : (x.setChan e c).chan j = x.chan j := by
  simp [Ctx.chan, Ctx.setChan, Vector.getElem_set_ne, Ne.symm h]

theorem State.core_congr {s t : State} (h : t.cores = s.cores) (n : Nat) : t.core n = s.core n := by
  unfold State.core
  rw [h]

theorem blockOn_blocks (s : State) (rd : Bool) (e : Nat) : BlocksMe s (s.blockOn rd e) ∧
    (s.blockOn rd e).me = { s.me with st := .blocked .channel, probe := 0, on := some (rd, e) } :=
  ⟨BlocksMe.trans (block_blocksMe s .channel) (updMe_blocksMe ..), (me_updMe ..).trans (by rw [block_me])⟩

/-- A message of the running context to a peer that can be reached waits at its stack's station (R289). -/
theorem State.sendMine_injects {s : State} {dst : Nat} (hg : s.gone.contains dst = false) (m : Out) :
    ∃ w, Injects (stackOf s.act.core) s (s.sendMine dst m) [{ core := some s.act.core, cls := 0, weight := w, dst := dst, msg := m }] ∧
      (s.sendMine dst m).cores = s.cores := by
  unfold State.sendMine State.sendFrom
  refine ⟨arbWeight (s.ctx s.act.core s.act.ctx).arch.csr.arbw 0, ?_, State.sendFor_cores ..⟩
  unfold State.sendFor
  rw [if_neg (by simpa using hg)]
  exact ⟨rfl, fun _ => rfl, stack_updStack .., fun u hu => stack_updStack_ne _ hu _⟩

/-- The acknowledgement of a word to a bound end that can be reached waits at the stack's station (R174). -/
theorem State.ackTo_injects {s : State} (e : Nat) {b : EndRef} (hg : s.gone.contains b.who.peer = false) :
    ∃ w, Injects (stackOf s.act.core) s (s.ackTo e b)
      [{ core := some s.act.core, cls := 0, weight := w, dst := b.who.peer
         msg := .cell (chanCell b { who := ctxRef s.act.core s.act.ctx, ep := e } 8 0 (s.me.chan e).route []) }] ∧
      (s.ackTo e b).cores = s.cores :=
  State.sendMine_injects hg _

/-- The state in which a word has been read from an endpoint that then holds `r`, and is still to be acknowledged. -/
def State.readWord (s : State) (d : BitVec 5) (e : Nat) (v : Dword) (r : List Dword) : State :=
  (s.updMe fun c => c.setChan e { s.me.chan e with recv := r }).setS d v

theorem State.readWord_me (s : State) (d : BitVec 5) (e : Nat) (v : Dword) (r : List Dword) : (s.readWord d e v r).me =
    (s.me.setChan e { s.me.chan e with recv := r }).change s.act.entry.seq fun a => a.setS d v := by
  unfold State.readWord State.setS
  rw [me_onArch, me_updMe]
  rfl

theorem State.readWord_core_ne (s : State) (d : BitVec 5) (e : Nat) (v : Dword) (r : List Dword) {m : Nat} (h : m ≠ s.act.core) :
    (s.readWord d e v r).core m = s.core m :=
  (core_updCtx_ne _ h ..).trans (core_updCtx_ne s h ..)

theorem State.sendWord_cores {s : State} {n k e : Nat} {v : Dword} {b : EndRef} (hb : ((s.ctx n k).chan e).bound = some b) :
    (s.sendWord n k e v).cores = (s.updCtx n k fun c => c.setChan e
      { (s.ctx n k).chan e with sent := ((s.ctx n k).chan e).sent + 1, snum := ((s.ctx n k).chan e).snum + 1 }).cores := by
  unfold State.sendWord
  dsimp only
  rw [hb]
  exact State.sendFor_cores ..

theorem State.sendWord_act (s : State) (n k e : Nat) (v : Dword) : (s.sendWord n k e v).act = s.act := by
  unfold State.sendWord
  dsimp only
  split
  · rfl
  · unfold State.sendFrom State.sendFor
    split <;> rfl

section

variable {s : State} {p e : BitVec 3} {a : BitVec 5} (h : BitVec 1) (hp : s.qual p = true) {b : EndRef}
include hp

theorem chbind_binds (hb : bindBad (s.getS a) = false) : ∃ t, execChbind h p e a s = .next t ∧ OnlyCtx s.act.core s.act.ctx s t ∧
    (t.me.chan e.toNat).bound = some (bindEnd (s.getS a)) ∧ (t.me.chan e.toNat).recv = [] ∧ (t.me.chan e.toNat).sent = 0 ∧
    (∀ j, j % 8 ≠ e.toNat → t.me.chan j = s.me.chan j) ∧ t.me = { s.me with chans := t.me.chans } := by
  refine ⟨_, next_of_sWord rfl hp (if_neg (by simp [hb])), updMe_onlyCtx .., ?_⟩
  rw [me_updMe, Ctx.chan_setChan]
  exact ⟨rfl, rfl, rfl, fun j hj => Ctx.chan_setChan_ne _ (by omega) _, rfl⟩

theorem execChrd_some {d : BitVec 5} {v : Dword} {r : List Dword} (hb : (s.me.chan e.toNat).bound = some b)
    (hr : (s.me.chan e.toNat).recv = v :: r) : execChrd h p d e s = .next ((s.readWord d e.toNat v r).ackTo e.toNat b) := by
  refine next_of_sWord rfl hp ?_
  dsimp only
  split
  · next h0 => cases hb.symm.trans h0
  · next h0 => cases hr.symm.trans h0
  · next h0 h1 =>
    cases hb.symm.trans h0
    cases hr.symm.trans h1
    rfl

/-- A word read is acknowledged to the bound end (R174). -/
theorem chrd_reads {d : BitVec 5} {v : Dword} {r : List Dword} (hb : (s.me.chan e.toNat).bound = some b)
    (hr : (s.me.chan e.toNat).recv = v :: r) (hg : s.gone.contains b.who.peer = false) :
    ∃ t w, execChrd h p d e s = .next t ∧ SameMem s t ∧ (∀ m, m ≠ s.act.core → t.core m = s.core m) ∧
      WritesScalar d v s.arch t.arch ∧ t.me.chan e.toNat = { s.me.chan e.toNat with recv := r } ∧
      (t.stack (stackOf s.act.core)).inject = (s.stack (stackOf s.act.core)).inject ++
        [{ core := some s.act.core, cls := 0, weight := w, dst := b.who.peer
           msg := .cell (chanCell b { who := ctxRef s.act.core s.act.ctx, ep := e.toNat } 8 0 (s.me.chan e.toNat).route []) }] := by
  obtain ⟨w, hi, hcores⟩ := State.ackTo_injects (s := s.readWord d e.toNat v r) e.toNat (b := b) hg
  have hme : ((s.readWord d e.toNat v r).ackTo e.toNat b).me = (s.readWord d e.toNat v r).me := by
    obtain ⟨ho, -⟩ := hi
    rw [ho]
    exact State.ctx_congr hcores ..
  have hc : (s.readWord d e.toNat v r).me.chan e.toNat = { s.me.chan e.toNat with recv := r } := by
    rw [State.readWord_me]
    exact Ctx.chan_setChan ..
  refine ⟨_, w, execChrd_some h hp hb hr, hi.2.1, fun m hm => ?_, ?_, hme ▸ hc, ?_⟩
  · rw [State.core_congr hcores, State.readWord_core_ne _ _ _ _ _ hm]
  · unfold State.arch
    rw [hme, State.readWord_me]
    exact setS_writes ..
  · rw [← show ((s.readWord d e.toNat v r).me.chan e.toNat).route = (s.me.chan e.toNat).route by rw [hc]]
    exact congrArg Stack.inject hi.2.2.1

/-- An endpoint never bound raises cause 17 (R343). -/
theorem chrd_unbound (hs : s.act.entry.slot = .s) (d : BitVec 5) (hb : (s.me.chan e.toNat).bound = none) :
    ∃ t, execChrd h p d e s = .next t ∧ RaisesWord 17 0 s t :=
  raises_of_sWord rfl hp hs (by simp only [hb])

theorem chwr_unbound (hs : s.act.entry.slot = .s) (hb : (s.me.chan e.toNat).bound = none) :
    ∃ t, execChwr h p a e s = .next t ∧ RaisesWord 17 0 s t :=
  raises_of_sWord rfl hp hs (by simp only [hb, Option.isNone_none, if_true])

theorem chrd_blocks (d : BitVec 5) (hb : (s.me.chan e.toNat).bound.isSome = true) (hr : (s.me.chan e.toNat).recv = []) :
    ∃ t, execChrd h p d e s = .next t ∧ BlocksMe s t ∧
      t.me = { s.me with st := .blocked .channel, probe := 0, on := some (true, e.toNat) } := by
  obtain ⟨b, hb⟩ := Option.isSome_iff_exists.1 hb
  exact ⟨_, (sWord_next hp _).trans (by simp only [hb, hr]), blockOn_blocks s true e.toNat⟩

theorem chwr_blocks (hb : (s.me.chan e.toNat).bound.isSome = true) (hd : (s.me.chan e.toNat).deadReader = false)
    (hn : 16 ≤ (s.me.chan e.toNat).sent) (hy : s.arch.csr.syncmode.getLsbD 0 = false) :
    ∃ t, execChwr h p a e s = .next t ∧ BlocksMe s t ∧
      t.me = { s.me with st := .blocked .channel, probe := 0, on := some (false, e.toNat) } := by
  obtain ⟨b, hb⟩ := Option.isSome_iff_exists.1 hb
  have hc : (s.me.chan e.toNat).cannotTake (s.arch.csr.syncmode.getLsbD 0) = true := by
    rw [hy]
    simp [Chan.cannotTake, hd, hn]
  refine ⟨_, next_of_sWord rfl hp ?_, blockOn_blocks s false e.toNat⟩
  exact (if_neg (by simp [hb])).trans ((if_neg (by simp [hd])).trans (if_pos hc))

/-- A word with room is sent under the next number (R376). -/
theorem chwr_sends (hb : (s.me.chan e.toNat).bound = some b) (hd : (s.me.chan e.toNat).deadReader = false)
    (hs : (s.me.chan e.toNat).spill = []) (hn : (s.me.chan e.toNat).sent < 16) :
    execChwr h p a e s = .next (s.sendWord s.act.core s.act.ctx e.toNat (s.getS a)) := by
  have hc (m : Bool) : (s.me.chan e.toNat).cannotTake m = false := by cases m <;> simp [Chan.cannotTake, hs, hn, spillWords]
  exact (sWord_next hp _).trans (by simp [hb, hd, hs, hc, Nat.not_le.2 hn])

end

/-- Settles O16: a word read or sent changes its endpoint, and its cell only waits at the station of the core's stack. -/
theorem channelWords : Obligations.ChannelWords := by
  unfold Obligations.ChannelWords
  intro h p e a d s hp hs
  refine ⟨fun hb => chbind_binds h hp hb, fun b v r hb hr hg => chrd_reads h hp hb hr hg, fun hb hr => chrd_blocks h hp d hb hr,
    fun b hb hd hsp hn hg => ?_, fun hb hd hn hy => chwr_blocks h hp hb hd hn hy,
    fun hb => ⟨chrd_unbound h hp hs d hb, chwr_unbound h hp hs hb⟩⟩
  obtain ⟨hc, w, -, hm, hi, -⟩ := State.sendWord_injects (n := s.act.core) (k := s.act.ctx) (v := s.getS a) hb hg
  have hcores := State.sendWord_cores (n := s.act.core) (k := s.act.ctx) (v := s.getS a) hb
  have hact := State.sendWord_act s s.act.core s.act.ctx e.toNat (s.getS a)
  refine ⟨_, w, chwr_sends h hp hb hd hsp hn, hm, fun m hn => ?_, ?_, ?_, congrArg Stack.inject hi⟩
  · rw [State.core_congr hcores, core_updCtx_ne _ hn]
  · unfold State.arch State.me
    rw [hact, State.ctx_congr hcores, ctx_updCtx]
    rfl
  · unfold State.me
    rw [hact]
    exact hc

end Sys2Proof.Machine
end

section
/-!
SUPPORT. The state after reset (R315), the choice of the current context (R55, R56) and late data (R57, R81, R388).
-/

namespace Sys2Proof.Machine

/-! ### Reset (R205, R312, R315) -/

theorem reset_core (n : Nat) : State.reset.core n = Core.reset n := rfl

theorem Core.reset_ctx (n k : Nat) : (Core.reset n).ctx k = Ctx.reset := by simp [Core.ctx, Core.reset]

theorem reset_stack (t : Nat) : State.reset.stack t = Stack.reset := by simp [State.stack, State.reset]

/-- Settles O60: every core, context and base die is the reset one. -/
theorem resetState : Obligations.ResetState := by
  unfold Obligations.ResetState
  refine ⟨reset_mem_wf, rfl, fun n => ⟨rfl, rfl, rfl, rfl, rfl, rfl, rfl, rfl, fun k => ?_⟩, fun t => ?_,
    rfl, rfl, rfl, rfl, rfl, rfl, rfl, rfl, rfl, rfl, rfl⟩
  · rw [State.ctx, reset_core, Core.reset_ctx]
    rfl
  · rw [reset_stack]
    exact ⟨rfl, rfl⟩

/-! ### The choice of the current context (R55, R56) -/

theorem Core.mem_ready {c : Core} {j : Nat} : j ∈ c.ready ↔ j < 4 ∧ (c.ctx j).st = .ready := by simp [Core.ready]

/-- The largest of a start and the values of a list. -/
theorem foldl_max_spec (g : Nat → Nat) (l : List Nat) (a : Nat) :
    a ≤ l.foldl (fun m k => max m (g k)) a ∧ (∀ j ∈ l, g j ≤ l.foldl (fun m k => max m (g k)) a) ∧
    (l.foldl (fun m k => max m (g k)) a = a ∨ ∃ j ∈ l, g j = l.foldl (fun m k => max m (g k)) a) := by
  induction l generalizing a with
  | nil => exact ⟨le_refl _, by simp, .inl rfl⟩
  | cons x r ih =>
    obtain ⟨h0, hr, ha⟩ := ih (max a (g x))
    rw [List.foldl_cons]
    refine ⟨(le_max_left ..).trans h0, List.forall_mem_cons.2 ⟨(le_max_right ..).trans h0, hr⟩, ?_⟩
    rcases ha with ha | ⟨j, hj, ha⟩
    · rcases le_total (g x) a with hx | hx
      · exact .inl (ha.trans (max_eq_left hx))
      · exact .inr ⟨x, List.mem_cons_self .., (max_eq_right hx).symm.trans ha.symm⟩
    · exact .inr ⟨j, List.mem_cons_of_mem _ hj, ha⟩

/-- The highest launch priority among the ready contexts. -/
def Core.topPrio (c : Core) : Nat := c.ready.foldl (fun m k => max m (c.ctx k).prio) 0

theorem Core.prio_le_top {c : Core} {j : Nat} (h : j ∈ c.ready) : (c.ctx j).prio ≤ c.topPrio := by
  obtain ⟨-, hle, -⟩ := foldl_max_spec (fun k => (c.ctx k).prio) c.ready 0
  exact hle j h

theorem Core.exists_topPrio {c : Core} {i : Nat} (h : i ∈ c.ready) : ∃ j ∈ c.ready, (c.ctx j).prio = c.topPrio := by
  obtain ⟨-, -, h0 | h0⟩ := foldl_max_spec (fun k => (c.ctx k).prio) c.ready 0
  · have ht : c.topPrio = 0 := h0
    exact ⟨i, h, Nat.le_antisymm (prio_le_top h) (ht ▸ Nat.zero_le _)⟩
  · exact h0

/-- Whether a context is ready and of the highest priority among those. -/
def Core.isTop (c : Core) (k : Nat) : Bool := c.ready.contains k && (c.ctx k).prio == c.topPrio

theorem Core.isTop_iff {c : Core} {k : Nat} : c.isTop k = true ↔ k ∈ c.ready ∧ (c.ctx k).prio = c.topPrio := by simp [Core.isTop]

/-- Context `i` places after the one last current, from its next on (R55). -/
def Core.after (c : Core) (i : Nat) : Nat := (c.last + i + 1) % 4

theorem Core.after_place (c : Core) {j : Nat} (h : j < 4) : c.after ((j + 3 - c.last % 4) % 4) = j := by
  unfold Core.after
  omega

theorem Core.place_after (c : Core) {i : Nat} (h : i < 4) : (c.after i + 3 - c.last % 4) % 4 = i := by
  unfold Core.after
  omega

/-- The ready context of lowest number that has waited too long (R55). -/
def Core.overdue (c : Core) : Option Nat := (List.range 4).find? fun k => (c.ctx k).st == .ready && decide (4096 ≤ (c.ctx k).waitCnt)

/-- The next context of the highest priority (R55). -/
def Core.nextTop (c : Core) : Option Nat := ((List.range 4).find? fun i => c.isTop (c.after i)).map c.after

theorem Core.choose_eq (c : Core) : c.choose = c.overdue.or c.nextTop := by
  have h1 : (c.ready.find? fun k => decide (4096 ≤ (c.ctx k).waitCnt)) = c.overdue := by
    rw [Core.ready, List.find?_filter, Core.overdue]
    simp only [Bool.decide_and, Bool.decide_eq_true]
  have h2 : (([1, 2, 3, 4].map fun d => (c.last + d) % 4).find? fun k => c.ready.contains k && (c.ctx k).prio == c.topPrio) =
      c.nextTop := List.find?_map (f := c.after) (p := c.isTop) (l := List.range 4)
  unfold Core.choose
  rw [h1, ← h2]
  cases c.overdue <;> rfl

theorem Core.overdue_eq_none {c : Core} (h : ∀ j ∈ c.ready, (c.ctx j).waitCnt < 4096) : c.overdue = none := by
  rw [Core.overdue, List.find?_eq_none]
  intro j hj hp
  simp only [List.mem_range] at hj
  simp only [Bool.and_eq_true, beq_iff_eq, decide_eq_true_eq] at hp
  exact absurd hp.2 (Nat.not_le.2 (h j (mem_ready.2 ⟨hj, hp.1⟩)))

theorem Core.overdue_some {c : Core} {k : Nat} (h : c.overdue = some k) : k ∈ c.ready ∧ 4096 ≤ (c.ctx k).waitCnt ∧
    ∀ j, j < k → j ∈ c.ready → (c.ctx j).waitCnt < 4096 := by
  obtain ⟨hp, hk, hlt⟩ := List.find?_range_eq_some.1 h
  simp only [Bool.and_eq_true, beq_iff_eq, decide_eq_true_eq] at hp
  refine ⟨mem_ready.2 ⟨List.mem_range.1 hk, hp.1⟩, hp.2, fun j hj hr => ?_⟩
  have := hlt j hj
  simpa [(mem_ready.1 hr).2] using this

theorem Core.nextTop_some {c : Core} {k : Nat} (h : c.nextTop = some k) : c.isTop k = true ∧
    ∀ j, c.isTop j = true → (k + 3 - c.last % 4) % 4 ≤ (j + 3 - c.last % 4) % 4 := by
  obtain ⟨i, hi, rfl⟩ := Option.map_eq_some_iff.1 h
  obtain ⟨hp, hk, hlt⟩ := List.find?_range_eq_some.1 hi
  refine ⟨hp, fun j hj => ?_⟩
  have h4 := (mem_ready.1 (isTop_iff.1 hj).1).1
  rw [place_after c (List.mem_range.1 hk)]
  by_contra hn
  have := hlt _ (Nat.not_le.1 hn)
  rw [after_place c h4, hj] at this
  simp at this

theorem Core.nextTop_isSome {c : Core} {i : Nat} (h : i ∈ c.ready) : ∃ k, c.nextTop = some k := by
  obtain ⟨j, hj, hp⟩ := exists_topPrio h
  have h4 := (mem_ready.1 hj).1
  have hs : ((List.range 4).find? fun i => c.isTop (c.after i)).isSome = true := by
    rw [List.find?_isSome]
    exact ⟨_, List.mem_range.2 (Nat.mod_lt _ (by decide)), by rw [after_place c h4]; exact isTop_iff.2 ⟨hj, hp⟩⟩
  obtain ⟨k, hk⟩ := Option.isSome_iff_exists.1 hs
  exact ⟨_, by rw [nextTop, hk]; rfl⟩

theorem Core.choose_isSome {c : Core} {i : Nat} (h : i ∈ c.ready) : ∃ k, c.choose = some k := by
  obtain ⟨k, hk⟩ := nextTop_isSome h
  rw [choose_eq, hk]
  cases c.overdue with
  | none => exact ⟨k, rfl⟩
  | some j => exact ⟨j, rfl⟩

/-- What is chosen has waited too long, as no ready context of a lower number has; or none has, and it is the next of the highest
priority. -/
theorem Core.choose_some {c : Core} {k : Nat} (h : c.choose = some k) :
    c.overdue = some k ∨ (∀ j ∈ c.ready, (c.ctx j).waitCnt < 4096) ∧ c.nextTop = some k := by
  rw [choose_eq] at h
  cases ho : c.overdue with
  | some j => exact .inl (by rwa [ho] at h)
  | none =>
    refine .inr ⟨fun j hj => ?_, by rwa [ho] at h⟩
    have hj4 := mem_ready.1 hj
    have := List.find?_eq_none.1 ho j (List.mem_range.2 hj4.1)
    simpa [hj4.2] using this

theorem Core.choose_mem {c : Core} {k : Nat} (h : c.choose = some k) : k ∈ c.ready := by
  rcases choose_some h with ho | ⟨-, ht⟩
  · exact (overdue_some ho).1
  · exact (isTop_iff.1 (nextTop_some ht).1).1

theorem Core.choose_eq_none {c : Core} : c.choose = none ↔ ∀ j, j ∉ c.ready := by
  refine ⟨fun h j hj => ?_, fun h => ?_⟩
  · obtain ⟨k, hk⟩ := choose_isSome hj
    exact absurd (hk.symm.trans h) (by simp)
  · by_contra hn
    obtain ⟨k, hk⟩ := Option.ne_none_iff_exists'.1 hn
    exact h k (choose_mem hk)

/-- What is chosen does not depend on the clock or the counters. -/
theorem Core.choose_congr {c d : Core} (hx : d.ctxs = c.ctxs) (hl : d.last = c.last) : d.choose = c.choose := by
  unfold Core.choose Core.ready Core.ctx
  rw [hx, hl]

theorem contextSwitch_chooses (n : Nat) (s : State) :
    ∃ t, execContextSwitch n s = .next t ∧ OnlyCore n s t ∧ (t.core n).cur = none ∧ (t.core n).ctxs = (s.core n).ctxs ∧
      (t.core n).clk = match (s.core n).choose with | some k => .switching 2 k | none => .freewheel false := by
  refine ⟨_, rfl, updCore_onlyCore .., ?_⟩
  rw [core_updCore]
  unfold Core.switch
  cases (s.core n).choose <;> exact ⟨rfl, rfl, rfl⟩

theorem waitCounterRaise_chooses {n k : Nat} {s : State} (hc : (s.core n).cur = some k) (h4 : k < 4) (hs : (s.ctx n k).st = .current) :
    ∃ t, execWaitCounterRaise n s = .next t ∧ OnlyCore n s t ∧ (t.ctx n k).st = .ready ∧ (t.core n).cur = none ∧
      ∃ j, ((s.core n).updCtx k fun x => { x with st := .ready, waitCnt := 0 }).choose = some j ∧ (t.core n).clk = .switching 2 j := by
  have hu : ((s.core n).updCtx k fun x => if x.st = .current then { x with st := .ready, waitCnt := 0 } else x) =
      (s.core n).updCtx k fun x => { x with st := .ready, waitCnt := 0 } := congrArg ((s.core n).setCtx k) (if_pos hs)
  have hr : k ∈ ((s.core n).updCtx k fun x => { x with st := .ready, waitCnt := 0 }).ready := Core.mem_ready.2 ⟨h4, by rw [Core.ctx_updCtx]⟩
  obtain ⟨j, hj⟩ := Core.choose_isSome hr
  refine ⟨_, rfl, updCore_onlyCore .., ?_⟩
  unfold State.ctx
  rw [core_updCore, hc]
  dsimp only
  rw [hu, Core.switch, hj]
  exact ⟨(Core.mem_ready.1 hr).2, rfl, j, rfl, rfl⟩

/-- A core whose clock has run again after standing (R56). -/
def Core.caughtUp (c : Core) : Core := { c.count 6 none c.stopped with cyc := c.cyc + c.stopped, stopped := 0 }

theorem freewheelWake_resumes {n k : Nat} {s : State} (hk : (s.core n).choose = some k) :
    ∃ t, execFreewheelWake n s = .next t ∧ OnlyCore n s t ∧
      (t.core n).cyc = (s.core n).cyc + (s.core n).stopped ∧ (t.core n).stopped = 0 ∧
      (k = (s.core n).last → (t.core n).cur = some k ∧ (t.core n).clk = .running ∧ (t.ctx n k).st = .current) ∧
      (k ≠ (s.core n).last → (t.core n).clk = .switching 2 k) := by
  have hc : (s.core n).caughtUp.choose = some k := (Core.choose_congr rfl rfl).trans hk
  have he : execFreewheelWake n s = .next (s.updCore n fun c => match c.caughtUp.choose with
      | none => { c.caughtUp with clk := .freewheel false }
      | some k => if k = c.last then c.caughtUp.makeCurrent k
        else { c.caughtUp.count 3 none 1 with clk := .switching 2 k, cur := none }) := rfl
  refine ⟨_, he, updCore_onlyCore .., ?_⟩
  unfold State.ctx
  rw [core_updCore, hc]
  dsimp only
  split
  · next hl => exact ⟨rfl, rfl, fun _ => ⟨rfl, rfl, by rw [Core.makeCurrent, Core.ctx_updCtx]⟩, fun hn => absurd hl hn⟩
  · next hl => exact ⟨rfl, rfl, fun h => absurd h hl, fun _ => rfl⟩

/-- Settles O38, by the choice as the first of two searches through the contexts in order. -/
theorem contextChoice : Obligations.ContextChoice := by
  unfold Obligations.ContextChoice
  refine ⟨fun c => ?_, fun n s => ⟨contextSwitch_chooses n s, fun k hc h4 hs => waitCounterRaise_chooses hc h4 hs,
    fun k hk => freewheelWake_resumes hk⟩⟩
  simp only [← Core.mem_ready]
  refine ⟨Core.choose_eq_none, fun k hk => ⟨Core.choose_mem hk, ?_, fun hw j hj => ?_⟩⟩
  · rintro ⟨j, hj, hw⟩
    rcases Core.choose_some hk with ho | ⟨hn, -⟩
    · exact (Core.overdue_some ho).2
    · exact absurd hw (Nat.not_le.2 (hn j hj))
  · rcases Core.choose_some hk with ho | ⟨-, ht⟩
    · exact absurd ho (by rw [Core.overdue_eq_none hw]; simp)
    · obtain ⟨hp, hmin⟩ := Core.nextTop_some ht
      have hkp := (Core.isTop_iff.1 hp).2
      exact ⟨(Core.prio_le_top hj).trans hkp.ge, fun he => hmin j (Core.isTop_iff.2 ⟨hj, he.trans hkp⟩)⟩

end Sys2Proof.Machine
end

section
/-!
SUPPORT. Data that misses its push cycle (R57, R81, R86, R388).
-/

namespace Sys2Proof.Machine

@[simp] theorem Arch.kqueue_setKqueue (a : Arch) (k : BitVec 3) (v : KQueue) : (a.setKqueue k v).kqueue k = v := by
  simp [Arch.kqueue, Arch.setKqueue]

theorem lowBits_zero (w : Nat) : lowBits w 0 = 0 := by
  rw [lowBits, BitVec.ofNat_eq_ofNat, BitVec.toNat_zero, Nat.zero_mod]

theorem Core.count_ctx (c : Core) (src : Nat) (o : Option Nat) (d k : Nat) : (c.count src o d).ctx k = c.ctx k := rfl

theorem Ctx.wake_arch (x : Ctx) : x.wake.arch = x.arch := by
  unfold Ctx.wake
  split <;> rfl

/-- A change of a core that leaves its contexts leaves each of them. -/
theorem ctx_updCore_of_ctxs (s : State) (n k : Nat) {f : Core → Core} (h : (f (s.core n)).ctxs = (s.core n).ctxs) :
    (s.updCore n f).ctx n k = s.ctx n k := by
  unfold State.ctx Core.ctx
  rw [core_updCore, h]

/-- The row pushed stands at the tail of the flight's context. -/
theorem State.pushRow_rows (s : State) (n : Nat) (f : Flight) (q : BitVec 5) (x : Row) (w : Option Nat) :
    (((s.pushRow n f q x w).ctx n f.ctx).arch.queue q).rows = ((s.ctx n f.ctx).arch.queue q).rows ++
      [{ id := (s.core n).nextId, data := lowBits (rowWidth ((s.ctx n f.ctx).arch.queue q).wd) x, wait := w }] := by
  unfold State.pushRow State.onArchAt
  rw [ctx_updCtx]
  dsimp only [Ctx.change]
  rw [Arch.queue_setQueue, ctx_updCore_of_ctxs s n f.ctx rfl]
  rfl

theorem State.pushScale_kqueue (s : State) (n : Nat) (f : Flight) (k : BitVec 3) (e : KEntry) :
    ((s.pushScale n f k e).ctx n f.ctx).arch.kqueue k = ((s.ctx n f.ctx).arch.kqueue k).push e := by
  unfold State.pushScale State.onArchAt
  rw [ctx_updCtx]
  dsimp only [Ctx.change]
  rw [Arch.kqueue_setKqueue]

/-- A landing without its data leaves an absent row that names its flight (R81). -/
theorem landingPush_absent {n id : Nat} {s : State} {f : Flight} {q : BitVec 5} {x : Row} (hf : (s.core n).flight id = some f)
    (hi : f.id = id) (hk : f.kind = .land q x false false) : ∃ t, exec (.landingPush n id) s = .next t ∧ SameMem s t ∧
      ((t.ctx n f.ctx).arch.queue q).rows = ((s.ctx n f.ctx).arch.queue q).rows ++
        [{ id := (s.core n).nextId, data := 0, wait := some id }] := by
  have he : exec (.landingPush n id) s = .next ((s.updCore n fun c => c.count 8 (some f.ctx) 1).pushAbsent n f) := by
    change execLandingPush n id s = _
    simp only [execLandingPush, hf, hk]
  refine ⟨_, he, ?_⟩
  simp only [State.pushAbsent, hk]
  refine ⟨fun _ => rfl, ?_⟩
  rw [ctx_updCore_of_ctxs _ n f.ctx rfl, State.pushRow_rows, lowBits_zero, ctx_updCore_of_ctxs s n f.ctx rfl, core_updCore, hi]
  rfl

/-- A scale word without its data leaves an absent entry that names its flight (R86). -/
theorem scalePush_absent {n id : Nat} {s : State} {f : Flight} {k : BitVec 3} {e : KEntry} (hf : (s.core n).flight id = some f)
    (hi : f.id = id) (hk : f.kind = .scale k e false false) : ∃ t, exec (.scalePush n id) s = .next t ∧ SameMem s t ∧
      (t.ctx n f.ctx).arch.kqueue k = ((s.ctx n f.ctx).arch.kqueue k).push { e with data := 0, wait := some id } := by
  have he : exec (.scalePush n id) s = .next (s.pushAbsent n f) := by
    change execScalePush n id s = _
    simp only [execScalePush, hf, hk]
  refine ⟨_, he, ?_⟩
  simp only [State.pushAbsent, hk]
  refine ⟨fun _ => rfl, ?_⟩
  rw [ctx_updCore_of_ctxs _ n f.ctx rfl, State.pushScale_kqueue, hi]

theorem Core.thaw_ctxs (c : Core) (id now : Nat) : (c.thaw id now).ctxs = c.ctxs := by
  unfold Core.thaw
  split
  · split <;> rfl
  · rfl

theorem Core.thaw_flights (c : Core) (id now : Nat) : (c.thaw id now).flights = c.flights := by
  unfold Core.thaw
  split
  · split <;> rfl
  · rfl

/-- A core frozen on the flight runs again (R57). -/
theorem Core.thaw_running {c : Core} {id since : Nat} (now : Nat) (h : c.clk = .frozen id since .running) : (c.thaw id now).clk = .running := by
  unfold Core.thaw
  rw [h]
  exact congrArg Core.clk (if_pos rfl)

section
variable {n : Nat} {s : State} {f : Flight} {q : BitVec 5} {x : Row} {r l : Bool}

/-- The row that stands absent receives the data, cut to the queue's width. -/
theorem State.fillAbsent_rows (hk : f.kind = .land q x r l) :
    (((s.fillAbsent n f).ctx n f.ctx).arch.queue q).rows = ((s.ctx n f.ctx).arch.queue q).rows.map (fun y =>
      if y.wait = some f.id then { y with data := lowBits (rowWidth ((s.ctx n f.ctx).arch.queue q).wd) x, wait := none } else y) := by
  unfold State.fillAbsent
  rw [ctx_updCore_of_ctxs _ n f.ctx (Core.thaw_ctxs ..), ctx_updCtx, hk]
  dsimp only [Ctx.changeAll]
  rw [Arch.queue_setQueue, ctx_updCore_of_ctxs s n f.ctx rfl]
  rfl

theorem State.fillAbsent_flights (s : State) (n : Nat) (f : Flight) :
    ((s.fillAbsent n f).core n).flights = (s.core n).flights.filter fun g => g.id != f.id := by
  unfold State.fillAbsent
  rw [core_updCore, Core.thaw_flights, core_updCtx, core_updCore]
  rfl

theorem State.fillAbsent_clk {since : Nat} (h : (s.core n).clk = .frozen f.id since .running) : ((s.fillAbsent n f).core n).clk = .running := by
  unfold State.fillAbsent
  rw [core_updCore]
  refine Core.thaw_running (since := since) _ ?_
  rw [core_updCtx, core_updCore]
  exact h

end

/-- A late landing fills its row, ends its flight and lets the core run (R57). -/
theorem lateArrival_fills {n id : Nat} {s : State} {f : Flight} {q : BitVec 5} {x : Row} {r : Bool} (hf : (s.core n).flight id = some f)
    (hi : f.id = id) (ha : f.acq = none) (hk : f.kind = .land q x r true) : ∃ t, exec (.landingLateArrival n id) s = .next t ∧ SameMem s t ∧
      ((t.ctx n f.ctx).arch.queue q).rows = ((s.ctx n f.ctx).arch.queue q).rows.map (fun y =>
        if y.wait = some id then { y with data := lowBits (rowWidth ((s.ctx n f.ctx).arch.queue q).wd) x, wait := none } else y) ∧
      (∀ g ∈ (t.core n).flights, g.id ≠ id) ∧
      (∀ since, (s.core n).clk = .frozen id since .running → (t.core n).clk = .running) := by
  subst hi
  have he : exec (.landingLateArrival n f.id) s = .next (s.fillAbsent n f) := by
    change execLandingLateArrival n f.id s = _
    simp only [execLandingLateArrival, hf, State.arrive, hk, State.acquired, ha, if_true]
  refine ⟨_, he, fun _ => rfl, State.fillAbsent_rows hk, fun g hg => ?_, fun since h => State.fillAbsent_clk h⟩
  rw [State.fillAbsent_flights, List.mem_filter] at hg
  simpa using hg.2

/-- A freeze that times out gets zero for its row, and cause 65 waits (R388). -/
theorem freezeTimeout_fills {n id : Nat} {s : State} {f : Flight} {q : BitVec 5} {x : Row} {r : Bool} {since : Nat}
    (hf : (s.core n).flight id = some f) (hi : f.id = id) (hk : f.kind = .land q x r true) (hc : (s.core n).clk = .frozen id since .running) :
    ∃ t v, exec (.freezeTimeout n) s = .next t ∧ SameMem s t ∧ (t.core n).clk = .running ∧ (65, v) ∈ (t.ctx n f.ctx).asyncs ∧
      ((t.ctx n f.ctx).arch.queue q).rows = ((s.ctx n f.ctx).arch.queue q).rows.map (fun y =>
        if y.wait = some id then { y with data := 0, wait := none } else y) := by
  subst hi
  have hz : f.zeroed = { f with kind := .land q 0 r true } := by rw [Flight.zeroed, hk]
  have he : ∃ v, exec (.freezeTimeout n) s = .next ((s.fillAbsent n { f with kind := .land q 0 r true }).raiseAsync n f.ctx 65 v) := by
    change ∃ v, execFreezeTimeout n s = _
    simp only [execFreezeTimeout, hc, hf, hz]
    exact ⟨_, rfl⟩
  obtain ⟨v, he⟩ := he
  refine ⟨_, v, he, fun _ => rfl, ?_, ?_, ?_⟩
  · rw [State.raiseAsync, core_updCtx]
    exact State.fillAbsent_clk (f := { f with kind := .land q 0 r true }) hc
  · rw [State.raiseAsync, ctx_updCtx]
    exact List.mem_append_right _ (List.mem_singleton.2 rfl)
  · have hr := State.fillAbsent_rows (n := n) (s := s) (f := { f with kind := .land q 0 r true }) rfl
    rw [lowBits_zero] at hr
    rw [State.raiseAsync, ctx_updCtx, ← hr]
    dsimp only
    split
    · rfl
    · rw [Ctx.wake_arch]

/-- Settles O34, by what a push without data, a late arrival and a timeout leave in the queue of the flight. -/
theorem lateData : Obligations.LateData := by
  unfold Obligations.LateData
  exact fun n id s f hf hi ha => ⟨fun q x hk => landingPush_absent hf hi hk, fun k e hk => scalePush_absent hf hi hk,
    fun q x r hk => lateArrival_fills hf hi ha hk, fun q x r since hk hc => freezeTimeout_fills hf hi hk hc⟩

end Sys2Proof.Machine
end

section
/-!
SUPPORT. What the events of domain objects leave of the objects and of the contexts that wait on them (R59 to R61, R370, R371).
-/

namespace Sys2Proof.Machine

/-! ### Domain objects as the state's changes leave them -/

/-- Every domain object stands as it did. -/
def SameDoms (s t : State) : Prop := ∀ o, t.domAt o = s.domAt o

theorem SameDoms.refl (s : State) : SameDoms s s := fun _ => rfl

theorem SameDoms.trans {s t u : State} (h : SameDoms s t) (g : SameDoms t u) : SameDoms s u := fun o => (g o).trans (h o)

theorem sameDoms_of_stk {s t : State} (h : t.stk = s.stk) : SameDoms s t := by
  intro o
  unfold State.domAt State.stack
  rw [h]

/-- A change of a base die that leaves its list of objects leaves every object. -/
theorem updStack_sameDoms (s : State) (t : Nat) {f : Stack → Stack} (hf : ∀ x, (f x).doms = x.doms) : SameDoms s (s.updStack t f) := by
  intro o
  unfold State.domAt
  rw [stack_updStack_eq]
  split
  · split
    · rw [hf]
    · rfl
  · rfl

theorem State.fromDom_sameDoms (s : State) (o : DomRef) (peer : Nat) (i : Instr) : SameDoms s (s.fromDom o peer i) := by
  unfold State.fromDom State.send State.sendFor
  split
  · exact .refl s
  · exact updStack_sameDoms s _ fun _ => rfl

/-- What a change of an object makes of it. -/
theorem State.domAt_updDom {s : State} {o : DomRef} {d : Dom} (f : Dom → Dom) (h : s.domAt o = some d) : (s.updDom o f).domAt o = some (f d) := by
  unfold State.domAt at h ⊢
  split at h
  · next ho =>
    rw [if_pos ho, State.updDom, stack_updStack_eq, if_pos (Nat.mod_mod ..)]
    obtain ⟨⟨i, y⟩, hy, rfl⟩ := Option.map_eq_some_iff.1 h
    generalize (s.stack (o.peer % 8)).doms = l at hy
    dsimp only
    rw [List.find?_map, Option.map_map]
    have hk : ((fun d : Nat × Dom => d.1 == o.obj) ∘ fun d => if d.1 = o.obj then (d.1, f d.2) else d) = fun d => d.1 == o.obj := by
      funext d
      dsimp only [Function.comp]
      split <;> rfl
    rw [hk, hy]
    have hi : i = o.obj := by simpa using List.find?_some hy
    simp [hi]
  · simp at h

/-! ### An acquire leaves contexts and objects -/

/-- A core's L1 after the acquire of a stack. -/
def State.l1After (s : State) (t scope n : Nat) (c : Core) : Core :=
  if stackOf n = t then { c with l1 := c.l1.filterMap fun x => s.l1Acquired t scope x } else c

theorem State.l1After_ctxs (s : State) (t scope n : Nat) (c : Core) : (s.l1After t scope n c).ctxs = c.ctxs := by
  unfold State.l1After
  split <;> rfl

theorem State.acquire_ctx (s : State) (t scope n k : Nat) : (s.acquire t scope).ctx n k = s.ctx n k := by
  unfold State.acquire
  split
  · rfl
  · have hm : (s.cores.map fun (n, c) => if stackOf n = t then (n, { c with l1 := c.l1.filterMap fun x => s.l1Acquired t scope x }) else (n, c)) =
        s.cores.map fun c => (c.1, s.l1After t scope c.1 c.2) := by
      refine List.map_congr_left fun c _ => ?_
      dsimp only [State.l1After]
      split <;> rfl
    have hc : (assocGet n (Core.reset n) (s.cores.map fun c => (c.1, s.l1After t scope c.1 c.2))).ctxs =
        (assocGet n (Core.reset n) s.cores).ctxs :=
      assocGet_map (R := fun c d : Core => d.ctxs = c.ctxs) (s.l1After t scope) n rfl (fun c => s.l1After_ctxs t scope n c) s.cores
    unfold State.ctx Core.ctx State.core
    rw [hm]
    exact congrArg (fun v : Vector Ctx 4 => v[k % 4]'(Nat.mod_lt _ (by decide))) hc

theorem State.acquire_sameDoms (s : State) (t scope : Nat) : SameDoms s (s.acquire t scope) := by
  unfold State.acquire
  split
  · exact .refl s
  · exact (updStack_sameDoms s t (f := fun x => { x with
      remote := x.remote.filterMap (afterAcquire t scope), bad := x.bad.filter fun l => !inAcquire t scope l
      stale := (x.stale ++ s.fillsInScope t scope).dedup }) fun _ => rfl).trans (sameDoms_of_stk rfl)


/-! ### The waiters of an object are released (R60) -/

/-- A context whose `SYNCD` has ended: it waits on none, and where it was blocked for that it is ready. -/
def Ctx.Released (x y : Ctx) : Prop := y.sync = none ∧ (x.st = .blocked .sync → y.st = .ready)

/-- Whether a context still waits as before, or has been released. -/
def Ctx.WaitsOrReleased (x y : Ctx) : Prop := y.sync = x.sync ∧ y.st = x.st ∨ x.Released y

/-- A context after the `SYNCD` it waited in has ended (R60). -/
def Ctx.letGo (x : Ctx) (w : SyncWait) (ph : Bool) : Ctx :=
  let y := x.changeAll fun a => a.setPar w.lv ph
  if x.sync = some w then { y.wakeFrom .sync with sync := none }
  else { (if x.sync.isNone then y.wakeFrom .sync else y) with outer := none }

theorem Ctx.letGo_releases {x : Ctx} {w : SyncWait} (ph : Bool) (h : x.sync = some w) : x.Released (x.letGo w ph) := by
  rw [Ctx.letGo, if_pos h]
  exact ⟨rfl, fun hs => Ctx.wakeFrom_st hs⟩

theorem Ctx.letGo_released {x y : Ctx} (w : SyncWait) (ph : Bool) (h : x.Released y) : x.Released (y.letGo w ph) := by
  obtain ⟨hn, hs⟩ := h
  have hw : ¬ y.sync = some w := by rw [hn]; simp
  rw [Ctx.letGo, if_neg hw, hn, Option.isNone_none, if_pos rfl]
  refine ⟨?_, fun hb => ?_⟩
  · obtain ⟨_, _, hy⟩ := (y.changeAll fun a => a.setPar w.lv ph).wakeFrom_only .sync
    rw [hy]
    exact hn
  · have hr : (y.changeAll fun a => a.setPar w.lv ph).st = .ready := hs hb
    rw [Ctx.wakeFrom, if_neg (by rw [hr]; simp)]
    exact hr

theorem State.ctx_mod (s : State) (n : Nat) {j k : Nat} (h : j % 4 = k % 4) : s.ctx n j = s.ctx n k := by
  simp only [State.ctx, Core.ctx, h]

theorem ctx_updCore_updCtx_ne (s : State) {n k m j : Nat} (h : m ≠ n ∨ j % 4 ≠ k % 4) (f : Core → Ctx → Ctx) :
    (s.updCore n fun c => c.updCtx k (f c)).ctx m j = s.ctx m j := ctx_updCtx_ne s h (f (s.core n))

section
variable (s : State) (o : DomRef) (ph : Bool)

/-- The release of a waiter's own `SYNCD` and the acquire of its level. -/
theorem State.releaseOwn_eq {n k : Nat} {w : SyncWait} (h : ((s.ctx n k).syncs.find? fun w => w.obj == o && w.sent) = some w) :
    s.releaseOwn o ph n k = (if w.lv.toNat < 4 then s.updCtx n k fun x => x.letGo w ph
      else ((s.updCtx n k fun x => x.letGo w ph).acquire (stackOf n) w.lv.toNat).updCore n fun c =>
        c.updCtx k fun x => { x with acqUntil := c.time + Config.latAcquire }) := by
  rw [State.releaseOwn, h]
  rfl

theorem State.releaseOwn_sameDoms (n k : Nat) : SameDoms s (s.releaseOwn o ph n k) := by
  cases h : (s.ctx n k).syncs.find? fun w => w.obj == o && w.sent with
  | none => rw [State.releaseOwn, h]; exact .refl s
  | some w =>
    rw [s.releaseOwn_eq o ph h]
    split
    · exact sameDoms_of_stk rfl
    · exact ((sameDoms_of_stk rfl).trans (State.acquire_sameDoms (s.updCtx n k fun x => x.letGo w ph) (stackOf n) w.lv.toNat)).trans
        (sameDoms_of_stk rfl)

/-- The release of one context leaves what others wait on. -/
theorem State.releaseOwn_ctx_ne {n k m j : Nat} (hm : m ≠ n ∨ j % 4 ≠ k % 4) : (s.releaseOwn o ph n k).ctx m j = s.ctx m j := by
  cases h : (s.ctx n k).syncs.find? fun w => w.obj == o && w.sent with
  | none => rw [State.releaseOwn, h]
  | some w =>
    rw [s.releaseOwn_eq o ph h]
    split
    · exact ctx_updCtx_ne s hm _
    · rw [ctx_updCore_updCtx_ne _ hm, State.acquire_ctx, ctx_updCtx_ne s hm]

/-- What the release of a context makes of its wait. -/
theorem State.releaseOwn_ctx {n k : Nat} {w : SyncWait} (h : ((s.ctx n k).syncs.find? fun w => w.obj == o && w.sent) = some w) :
    ((s.releaseOwn o ph n k).ctx n k).sync = ((s.ctx n k).letGo w ph).sync ∧
    ((s.releaseOwn o ph n k).ctx n k).st = ((s.ctx n k).letGo w ph).st := by
  rw [s.releaseOwn_eq o ph h]
  split
  · rw [ctx_updCtx]
    exact ⟨rfl, rfl⟩
  · have hc : ∀ u : State, (u.updCore n fun c => c.updCtx k fun x => { x with acqUntil := c.time + Config.latAcquire }).ctx n k =
        { u.ctx n k with acqUntil := (u.core n).time + Config.latAcquire } := by
      intro u
      rw [State.ctx, core_updCore, Core.ctx_updCtx]
      rfl
    rw [hc, State.acquire_ctx, ctx_updCtx]
    exact ⟨rfl, rfl⟩

/-- A context that waits on the object with its arrival sent is released. -/
theorem State.releaseOwn_releases {n k : Nat} {w : SyncWait} (hw : (s.ctx n k).sync = some w) (ho : w.obj = o) (hs : w.sent = true) :
    (s.ctx n k).Released ((s.releaseOwn o ph n k).ctx n k) := by
  have hf : ((s.ctx n k).syncs.find? fun w => w.obj == o && w.sent) = some w := by
    rw [Ctx.syncs, hw]
    exact List.find?_cons_of_pos (by simp [ho, hs])
  obtain ⟨h1, h2⟩ := s.releaseOwn_ctx o ph hf
  obtain ⟨g1, g2⟩ := Ctx.letGo_releases ph hw
  exact ⟨h1.trans g1, fun hb => h2.trans (g2 hb)⟩

/-- A context released stays so whatever context is released next. -/
theorem State.releaseOwn_released {x : Ctx} {n k m j : Nat} (h : x.Released (s.ctx m j)) : x.Released ((s.releaseOwn o ph n k).ctx m j) := by
  by_cases hm : m ≠ n ∨ j % 4 ≠ k % 4
  · rwa [s.releaseOwn_ctx_ne o ph hm]
  · have hj := not_or.1 hm
    obtain rfl : m = n := not_not.1 hj.1
    have hk : j % 4 = k % 4 := not_not.1 hj.2
    rw [State.ctx_mod _ m hk] at h ⊢
    cases hf : (s.ctx m k).syncs.find? fun w => w.obj == o && w.sent with
    | none => rwa [State.releaseOwn, hf]
    | some w =>
      obtain ⟨h1, h2⟩ := s.releaseOwn_ctx o ph hf
      obtain ⟨g1, g2⟩ := Ctx.letGo_released w ph h
      exact ⟨h1.trans g1, fun hb => h2.trans (g2 hb)⟩

/-- A context that waits on the object with its arrival sent waits on, or is released. -/
theorem State.releaseOwn_waitsOrReleased {x : Ctx} {n k m j : Nat} {w : SyncWait} (hw : x.sync = some w) (ho : w.obj = o) (hs : w.sent = true)
    (h : x.WaitsOrReleased (s.ctx m j)) : x.WaitsOrReleased ((s.releaseOwn o ph n k).ctx m j) := by
  rcases h with ⟨h1, h2⟩ | h
  · by_cases hm : m ≠ n ∨ j % 4 ≠ k % 4
    · rw [s.releaseOwn_ctx_ne o ph hm]
      exact .inl ⟨h1, h2⟩
    · have hj := not_or.1 hm
      obtain rfl : m = n := not_not.1 hj.1
      have hk : j % 4 = k % 4 := not_not.1 hj.2
      rw [State.ctx_mod _ m hk] at h1 h2 ⊢
      obtain ⟨g1, g2⟩ := s.releaseOwn_releases o ph (h1.trans hw) ho hs
      exact .inr ⟨g1, fun hb => g2 (h2.trans hb)⟩
  · exact .inr (s.releaseOwn_released o ph h)

/-- What a waiter of an object is sent or granted at its release. -/
def State.releaseOne (w : CtxRef) : State :=
  if refOwn w then s.releaseOwn o ph (refCore w) w.ctx
  else s.fromDom o w.peer (.domainArrival { o with obj := o.obj + (if ph then 4096 else 0) } w)

theorem State.releaseAll_cons (w : CtxRef) (r : List CtxRef) : s.releaseAll o ph (w :: r) = (s.releaseOne o ph w).releaseAll o ph r := rfl

theorem State.releaseOne_sameDoms (w : CtxRef) : SameDoms s (s.releaseOne o ph w) := by
  unfold State.releaseOne
  split
  · exact s.releaseOwn_sameDoms o ph _ _
  · exact s.fromDom_sameDoms o _ _

theorem State.fromDom_cores (peer : Nat) (i : Instr) : (s.fromDom o peer i).cores = s.cores := by
  obtain ⟨stk, h⟩ := s.sendFor_only none (o.peer % 8) 0 1 peer (.event i)
  rw [State.fromDom, State.send, h]

theorem State.releaseOne_released {x : Ctx} {w : CtxRef} {m j : Nat} (h : x.Released (s.ctx m j)) : x.Released ((s.releaseOne o ph w).ctx m j) := by
  unfold State.releaseOne
  split
  · exact s.releaseOwn_released o ph h
  · rwa [State.ctx_congr (s.fromDom_cores o _ _)]

theorem State.releaseOne_waitsOrReleased {x : Ctx} {w : CtxRef} {m j : Nat} {y : SyncWait} (hy : x.sync = some y) (ho : y.obj = o) (hs : y.sent = true)
    (h : x.WaitsOrReleased (s.ctx m j)) : x.WaitsOrReleased ((s.releaseOne o ph w).ctx m j) := by
  unfold State.releaseOne
  split
  · exact s.releaseOwn_waitsOrReleased o ph hy ho hs h
  · rwa [State.ctx_congr (s.fromDom_cores o _ _)]

end

theorem State.releaseAll_sameDoms (s : State) (o : DomRef) (ph : Bool) (l : List CtxRef) : SameDoms s (s.releaseAll o ph l) := by
  induction l generalizing s with
  | nil => exact .refl s
  | cons w r ih => exact (s.releaseOne_sameDoms o ph w).trans (ih _)

theorem State.releaseAll_released {x : Ctx} {s : State} {m j : Nat} (o : DomRef) (ph : Bool) (l : List CtxRef) (h : x.Released (s.ctx m j)) :
    x.Released ((s.releaseAll o ph l).ctx m j) := by
  induction l generalizing s with
  | nil => exact h
  | cons w r ih => exact ih (s.releaseOne_released o ph h)

theorem refOwn_ctxRef (n k : Nat) : refOwn (ctxRef n k) = true := by
  rw [refOwn, beq_iff_eq]
  unfold ctxRef peerOf
  dsimp only
  omega

theorem refCore_ctxRef {n : Nat} (k : Nat) (h : n < 1536) : refCore (ctxRef n k) = n := by
  unfold refCore ctxRef peerOf stackOf
  dsimp only
  omega

/-- Every listed context of this package that waits on the object with its arrival sent is released (R60). -/
theorem State.releaseAll_releases {x : Ctx} {s : State} {o : DomRef} {n k : Nat} {w : SyncWait} (ph : Bool) (hn : n < 1536) (hx : x.sync = some w)
    (ho : w.obj = o) (hs : w.sent = true) {l : List CtxRef} (hl : ctxRef n k ∈ l) (h : x.WaitsOrReleased (s.ctx n k)) :
    x.Released ((s.releaseAll o ph l).ctx n k) := by
  induction l generalizing s with
  | nil => simp at hl
  | cons y r ih =>
    rw [State.releaseAll_cons]
    rcases List.mem_cons.1 hl with rfl | hr
    · refine State.releaseAll_released o ph r ?_
      rw [State.releaseOne, if_pos (refOwn_ctxRef n k), refCore_ctxRef k hn]
      rcases h with ⟨h1, h2⟩ | h
      · have hk : ∀ u : State, u.ctx n (ctxRef n k).ctx = u.ctx n k := fun u => u.ctx_mod n (Nat.mod_mod k 4)
        obtain ⟨g1, g2⟩ := s.releaseOwn_releases o ph (k := (ctxRef n k).ctx) (by rw [hk, h1, hx]) ho hs
        rw [hk] at g1
        rw [hk, hk] at g2
        exact ⟨g1, fun hb => g2 (h2.trans hb)⟩
      · exact s.releaseOwn_released o ph h
    · exact ih hr (s.releaseOne_waitsOrReleased o ph hx ho hs h)

/-! ### Arrivals, members and breaks -/

/-- The object's phase has flipped, and the listed contexts that wait on it are released (R60). -/
def Flips (o : DomRef) (d : Dom) (s t : State) (l : List CtxRef) : Prop :=
  (∃ x, t.domAt o = some x ∧ x.arr = 0 ∧ x.ph = !d.ph ∧ x.waiters = []) ∧
  ∀ n k w, n < 1536 → k < 4 → ctxRef n k ∈ l → (s.ctx n k).sync = some w → w.obj = o → w.sent = true →
    (t.ctx n k).sync = none ∧ ((s.ctx n k).st = .blocked .sync → (t.ctx n k).st = .ready)

section
variable {s : State} {o : DomRef} {d : Dom}

/-- An object whose arrivals are short of its members, or that is broken, does not settle. -/
theorem State.settleDom_eq (hd : s.domAt o = some d) (h : d.broken.isSome = true ∨ d.arr ≠ d.mbr ∨ d.arr = 0) : s.settleDom o = s := by
  rw [State.settleDom, hd]
  refine if_neg ?_
  rintro ⟨ha, hz, hb⟩
  rcases h with h | h | h
  · rw [hb] at h; simp at h
  · exact h ha
  · exact hz h

/-- An object that is complete flips and releases its waiters. -/
theorem State.settleDom_flips (hd : s.domAt o = some d) (ha : d.arr = d.mbr) (hz : d.arr ≠ 0) (hb : d.broken = none) :
    (s.settleDom o).domAt o = some { d with arr := 0, ph := !d.ph, waiters := [] } ∧ Flips o d s (s.settleDom o) d.waiters := by
  have he : s.settleDom o = (s.updDom o fun d => { d with arr := 0, ph := !d.ph, waiters := [] }).releaseAll o (!d.ph) d.waiters := by
    rw [State.settleDom, hd]
    exact if_pos ⟨ha, hz, hb⟩
  have hx : (s.settleDom o).domAt o = some { d with arr := 0, ph := !d.ph, waiters := [] } := by
    rw [he, State.releaseAll_sameDoms _ o _ _ o, State.domAt_updDom _ hd]
  refine ⟨hx, ⟨_, hx, rfl, rfl, rfl⟩, fun n k w hn _ hl hw ho hs => ?_⟩
  rw [he]
  exact State.releaseAll_releases (!d.ph) hn hw ho hs hl (.inl ⟨rfl, rfl⟩)

variable {who : CtxRef}

/-- The object with one more arrival (R60). -/
def Dom.arrived (who : CtxRef) (d : Dom) : Dom := { d with arr := d.arr + 1, waiters := d.waiters ++ [who] }

theorem domOwn_of_peer (hp : o.peer / 8 = Config.pkg) : domOwn o = true := beq_iff_eq.2 hp

theorem domainArrival_eq (hp : o.peer / 8 = Config.pkg) (hd : s.domAt o = some d) :
    exec (.domainArrival o who) s = .next (match d.broken with
      | some why => ((s.updDom o (Dom.arrived who)).settleDom o).tellBroken o why d.lvl.toNat who
      | none => (s.updDom o (Dom.arrived who)).settleDom o) := by
  change execDomainArrival o who s = _
  rw [execDomainArrival, if_pos (domOwn_of_peer hp), hd]
  rfl

theorem domainArrival_whole (hp : o.peer / 8 = Config.pkg) (hd : s.domAt o = some d) (hb : d.broken = none) :
    exec (.domainArrival o who) s = .next ((s.updDom o (Dom.arrived who)).settleDom o) := by
  rw [domainArrival_eq hp hd, hb]

/-- An arrival short of the member count is counted (R60). -/
theorem domainArrival_counts (hp : o.peer / 8 = Config.pkg) (hd : s.domAt o = some d) (hb : d.broken = none) (hl : d.arr + 1 < d.mbr) :
    ∃ t, exec (.domainArrival o who) s = .next t ∧ SameMem s t ∧ t.cores = s.cores ∧ t.domAt o = some (d.arrived who) := by
  have hx : (s.updDom o (Dom.arrived who)).domAt o = some (d.arrived who) := State.domAt_updDom _ hd
  refine ⟨_, domainArrival_whole hp hd hb, ?_⟩
  rw [State.settleDom_eq hx (.inr (.inl (Nat.ne_of_lt hl)))]
  exact ⟨fun _ => rfl, rfl, hx⟩

/-- The arrival that completes the count flips the phase (R60). -/
theorem domainArrival_flips (hp : o.peer / 8 = Config.pkg) (hd : s.domAt o = some d) (hb : d.broken = none) (hl : d.arr + 1 = d.mbr) :
    ∃ t, exec (.domainArrival o who) s = .next t ∧ Flips o d s t (d.waiters ++ [who]) :=
  ⟨_, domainArrival_whole hp hd hb, (State.settleDom_flips (State.domAt_updDom (Dom.arrived who) hd) hl (Nat.succ_ne_zero _) hb).2⟩

/-- An arrival at a broken object is counted and its context told (R370). -/
theorem domainArrival_told (hp : o.peer / 8 = Config.pkg) (hd : s.domAt o = some d) {y : BreakWhy} (hb : d.broken = some y) (hw : refOwn who = true) :
    ∃ t v, exec (.domainArrival o who) s = .next t ∧ SameMem s t ∧ t.cores = s.cores ∧ t.domAt o = some (d.arrived who) ∧
      (s.now, .brokenWait (refCore who) who.ctx (brokenStatus y v 0 0)) ∈ t.sched ∧
      v = if y.kind = 1 ∨ y.kind = 4 then d.lvl.toNat else 0 := by
  have hx : (s.updDom o (Dom.arrived who)).domAt o = some (d.arrived who) := State.domAt_updDom _ hd
  have hs : (s.updDom o (Dom.arrived who)).settleDom o = s.updDom o (Dom.arrived who) :=
    State.settleDom_eq hx (.inl (by rw [Dom.arrived, hb]; rfl))
  have he : exec (.domainArrival o who) s = .next ((s.updDom o (Dom.arrived who)).after 0 (.brokenWait (refCore who) who.ctx
      (brokenStatus y (if y.kind = 1 ∨ y.kind = 4 then d.lvl.toNat else 0) 0 0))) := by
    rw [domainArrival_eq hp hd, hb, hs]
    exact congrArg _ (if_pos hw)
  exact ⟨_, _, he, fun _ => rfl, rfl, hx, mem_insertSched .., rfl⟩

/-- An increment handled is counted off by the new context and the one that forked it (R61). -/
theorem State.incDone_incs (s : State) {n k : Nat} (h : (s.ctx n k).parent % 4 ≠ k % 4) :
    ((s.incDone n k).ctx n k).incs = (s.ctx n k).incs - 1 ∧
    ((s.incDone n k).ctx n (s.ctx n k).parent).incs = (s.ctx n (s.ctx n k).parent).incs - 1 := by
  unfold State.incDone
  dsimp only
  rw [ctx_updCtx, ctx_updCtx_ne _ (.inr h), ctx_updCtx, ctx_updCtx_ne _ (.inr (Ne.symm h))]
  exact ⟨rfl, rfl⟩

/-- An increment adds a member; a context of this package and its parent count it off (R61). -/
theorem mbrChange_increments (hp : o.peer / 8 = Config.pkg) (hd : s.domAt o = some d) :
    ∃ t, exec (.mbrChange o true who) s = .next t ∧ SameMem s t ∧ t.domAt o = some { d with mbr := d.mbr + 1 } ∧
      (refOwn who = true → ∀ n k, n = refCore who → k = who.ctx → k < 4 → (s.ctx n k).parent % 4 ≠ k → (s.ctx n k).parent < 4 →
        (t.ctx n k).incs = (s.ctx n k).incs - 1 ∧
        (t.ctx n (s.ctx n k).parent).incs = (s.ctx n (s.ctx n k).parent).incs - 1) := by
  have hx : (s.updDom o fun d => { d with mbr := d.mbr + 1 }).domAt o = some { d with mbr := d.mbr + 1 } := State.domAt_updDom _ hd
  have he : exec (.mbrChange o true who) s = .next (if refOwn who then (s.updDom o fun d => { d with mbr := d.mbr + 1 }).incDone (refCore who) who.ctx
      else (s.updDom o fun d => { d with mbr := d.mbr + 1 }).fromDom o who.peer (.mbrChange o true who)) := by
    change execMbrChange o true who s = _
    rw [execMbrChange, if_pos (domOwn_of_peer hp)]
    rfl
  refine ⟨_, he, ?_⟩
  split
  · refine ⟨fun _ => rfl, hx, ?_⟩
    rintro - n k rfl rfl hk hne -
    exact State.incDone_incs (s.updDom o fun d => { d with mbr := d.mbr + 1 }) (by rw [Nat.mod_eq_of_lt hk]; exact hne)
  · next h =>
    refine ⟨fun _ => by rw [State.fromDom_mem]; rfl, ?_, fun hw => absurd hw h⟩
    rw [State.fromDom_sameDoms _ o _ _ o, hx]

/-- A decrement takes a member away, and completes the object where those left have arrived (R61). -/
theorem mbrChange_decrements (hp : o.peer / 8 = Config.pkg) (hd : s.domAt o = some d) :
    ∃ t, exec (.mbrChange o false who) s = .next t ∧
      (d.broken = none → d.arr = d.mbr - 1 → d.arr ≠ 0 → (∃ x, t.domAt o = some x ∧ x.mbr = d.mbr - 1) ∧ Flips o d s t d.waiters) ∧
      ((d.broken.isSome = true ∨ d.arr ≠ d.mbr - 1 ∨ d.arr = 0) → SameMem s t ∧ t.cores = s.cores ∧
        t.domAt o = some { d with mbr := d.mbr - 1 }) := by
  have hx : (s.updDom o fun d => { d with mbr := d.mbr - 1 }).domAt o = some { d with mbr := d.mbr - 1 } := State.domAt_updDom _ hd
  have he : exec (.mbrChange o false who) s = .next ((s.updDom o fun d => { d with mbr := d.mbr - 1 }).settleDom o) := by
    change execMbrChange o false who s = _
    rw [execMbrChange, if_pos (domOwn_of_peer hp)]
    rfl
  refine ⟨_, he, fun hb ha hz => ?_, fun h => ?_⟩
  · obtain ⟨h1, h2⟩ := State.settleDom_flips hx ha hz hb
    exact ⟨⟨_, h1, rfl⟩, h2⟩
  · rw [State.settleDom_eq hx h]
    exact ⟨fun _ => rfl, rfl, hx⟩

/-- What only tells others of an object: memory, the cores and every object stand, and no more peers have gone. -/
def OnlyTells (s t : State) : Prop := t.mem = s.mem ∧ t.cores = s.cores ∧ t.gone = s.gone ∧ SameDoms s t

theorem OnlyTells.refl (s : State) : OnlyTells s s := ⟨rfl, rfl, rfl, .refl s⟩

theorem OnlyTells.trans {s t u : State} (h : OnlyTells s t) (g : OnlyTells t u) : OnlyTells s u := by
  obtain ⟨hm, hc, hg, hd⟩ := h
  obtain ⟨gm, gc, gg, gd⟩ := g
  exact ⟨gm.trans hm, gc.trans hc, gg.trans hg, hd.trans gd⟩

theorem State.fromDom_onlyTells (s : State) (o : DomRef) (peer : Nat) (i : Instr) : OnlyTells s (s.fromDom o peer i) := by
  refine ⟨State.fromDom_mem .., s.fromDom_cores o peer i, ?_, s.fromDom_sameDoms o peer i⟩
  obtain ⟨stk, h⟩ := s.sendFor_only none (o.peer % 8) 0 1 peer (.event i)
  rw [State.fromDom, State.send, h]

theorem State.tellBroken_onlyTells (s : State) (o : DomRef) (why : BreakWhy) (lvl : Nat) (w : CtxRef) : OnlyTells s (s.tellBroken o why lvl w) := by
  unfold State.tellBroken
  split
  · exact ⟨rfl, rfl, rfl, sameDoms_of_stk rfl⟩
  · exact s.fromDom_onlyTells o _ _

/-- Whether a notice marks the object broken (R370, R371). -/
def State.breaks (s : State) (o : DomRef) (why : BreakWhy) (d : Dom) : Bool :=
  d.broken.isNone && (why.kind != 1 || decide (s.killedMembers o < d.mbr))

theorem State.breaks_iff {why : BreakWhy} : s.breaks o why d = true ↔ d.broken = none ∧ (why.kind ≠ 1 ∨ s.killedMembers o < d.mbr) := by
  simp [State.breaks]

theorem State.breakDom_eq (hd : s.domAt o = some d) (why : BreakWhy) : s.breakDom o why =
    if s.breaks o why d then d.waiters.foldl (fun s w => s.tellBroken o why d.lvl.toNat w) (s.updDom o fun d => { d with broken := some why })
    else s := by
  have hb : (d.broken.isSome || (why.kind == 1 && decide (d.mbr ≤ s.killedMembers o))) = !s.breaks o why d := by
    rw [State.breaks, Bool.not_and, Bool.not_or, Option.not_isNone, bne, Bool.not_not, ← decide_not]
    simp only [Nat.not_lt]
  rw [State.breakDom, hd]
  dsimp only
  rw [hb]
  cases s.breaks o why d <;> rfl

/-- A notice leaves memory and the cores, and of an object only what it is told (R370). -/
theorem State.breakDom_marks (hd : s.domAt o = some d) (why : BreakWhy) :
    (s.breakDom o why).mem = s.mem ∧ (s.breakDom o why).cores = s.cores ∧ (s.breakDom o why).gone = s.gone ∧
    (s.breakDom o why).domAt o = some (if s.breaks o why d then { d with broken := some why } else d) := by
  rw [State.breakDom_eq hd]
  split
  · obtain ⟨hm, hc, hg, hx⟩ := foldl_rel OnlyTells.refl OnlyTells.trans (fun s w => s.tellBroken_onlyTells o why d.lvl.toNat w) d.waiters
      (s.updDom o fun d => { d with broken := some why })
    exact ⟨hm, hc, hg, (hx o).trans (State.domAt_updDom _ hd)⟩
  · exact ⟨rfl, rfl, rfl, hd⟩

/-- What leaves for a peer that has not gone waits at its station (R289). -/
theorem State.fromDom_injects (s : State) (o : DomRef) {peer : Nat} (i : Instr) (h : s.gone.contains peer = false) :
    { core := none, cls := 0, weight := 1, dst := peer, msg := .event i } ∈ ((s.fromDom o peer i).stack (o.peer % 8)).inject := by
  rw [State.fromDom, State.send, State.sendFor, h]
  simp only [Bool.false_eq_true, if_false, stack_updStack]
  exact List.mem_append_right _ (List.mem_singleton.2 rfl)

/-- A break notice marks the object with its first reason, and that of a context killed elsewhere is answered (R370, R371). -/
theorem domainBreakNotice_marks (hp : o.peer / 8 = Config.pkg) (hd : s.domAt o = some d) (why : BreakWhy) :
    ∃ t x, exec (.domainBreakNotice o why) s = .next t ∧ SameMem s t ∧ t.cores = s.cores ∧ t.domAt o = some x ∧
      (d.broken = none → (why.kind ≠ 1 ∨ s.killedMembers o < d.mbr) → x.broken = some why) ∧
      (d.broken.isSome = true → x = d) ∧
      (why.kind = 1 → refOwn why.party = false → s.gone.contains why.party.peer = false →
        { core := none, cls := 0, weight := 1, dst := why.party.peer, msg := .event (.domainBreakNotice o why) } ∈
          (t.stack (o.peer % 8)).inject) := by
  have he : exec (.domainBreakNotice o why) s = .next (if why.kind = 1 ∧ refOwn why.party = false then
      (s.breakDom o why).fromDom o why.party.peer (.domainBreakNotice o why) else s.breakDom o why) := by
    change execDomainBreakNotice o why s = _
    rw [execDomainBreakNotice, if_pos (domOwn_of_peer hp)]
  obtain ⟨hm, hc, hg, hx⟩ := State.breakDom_marks hd why
  obtain ⟨gm, gc, -, gx⟩ := (s.breakDom o why).fromDom_onlyTells o why.party.peer (.domainBreakNotice o why)
  refine ⟨_, if s.breaks o why d then { d with broken := some why } else d, he, ?_, ?_, ?_, fun hb hk => ?_, fun hb => ?_, fun h1 h2 h3 => ?_⟩
  · intro a
    split
    · rw [gm, hm]
    · rw [hm]
  · split
    · exact gc.trans hc
    · exact hc
  · split
    · exact (gx o).trans hx
    · exact hx
  · rw [if_pos (State.breaks_iff.2 ⟨hb, hk⟩)]
  · exact if_neg fun h => by rw [(State.breaks_iff.1 h).1] at hb; simp at hb
  · rw [if_pos ⟨h1, h2⟩]
    exact State.fromDom_injects _ o _ (by rwa [hg])

end

/-- Settles O43: each event is that of its object, and the waiters released are followed through the list of them. -/
theorem domainEvents : Obligations.DomainEvents := by
  unfold Obligations.DomainEvents
  exact fun o who why s d hp hd => ⟨domainArrival_counts hp hd, domainArrival_flips hp hd, fun y hb hw => domainArrival_told hp hd hb hw,
    mbrChange_increments hp hd, mbrChange_decrements hp hd, domainBreakNotice_marks hp hd why⟩

end Sys2Proof.Machine
end

section
/-!
SUPPORT. A LAUNCH in a state that lists a core twice (R50 to R53): the first entry is the core, and the placing looks at both.
-/

namespace Sys2Proof.Machine

/-- A core like that after reset, but with retired contexts in its slots. -/
def Core.allRetired (n : Nat) : Core := { Core.reset n with ctxs := Vector.replicate 4 { Ctx.reset with st := .retired } }

/-- The state after reset, with every core of a list listed as it is and a second time with retired contexts. -/
def listedTwice (l : List Nat) : State := { State.reset with cores := l.flatMap fun n => [(n, Core.reset n), (n, Core.allRetired n)] }

/-- Of two entries of a key the first counts. -/
theorem assocGet_pairs {α : Type} (f g : Nat → α) (n : Nat) (l : List Nat) :
    assocGet n (f n) (l.flatMap fun j => [(j, f j), (j, g j)]) = f n := by
  induction l with
  | nil => rfl
  | cons j r ih =>
    by_cases h : j = n
    · subst h
      simp [assocGet]
    · simpa [assocGet, h] using ih

theorem listedTwice_core (l : List Nat) (n : Nat) : (listedTwice l).core n = Core.reset n := assocGet_pairs Core.reset Core.allRetired n l

theorem listedTwice_ctx (l : List Nat) (n k : Nat) : (listedTwice l).ctx n k = Ctx.reset := by
  rw [State.ctx, listedTwice_core, Core.reset_ctx]

/-- The entry of a core that `State.core` does not see. -/
theorem listedTwice_retired {l : List Nat} {n : Nat} (h : n ∈ l) : (n, Core.allRetired n) ∈ (listedTwice l).cores :=
  List.mem_flatMap.2 ⟨n, h, by simp⟩

theorem Core.allRetired_st (n k : Nat) : ((Core.allRetired n).ctx k).st = .retired := by simp [Core.ctx, Core.allRetired]

/-- The parameters of a LAUNCH of a single context, without flags or shape. -/
def soloLaunch : LaunchArgs := launchArgs 0 0x10000 0 0

theorem soloLaunch_cpi : soloLaunch.cpi = 1 := by decide

theorem soloLaunch_pool : soloLaunch.pool = 1 := by decide

theorem soloLaunch_flags : soloLaunch.flags = 0 := by decide

theorem soloLaunch_icnt : soloLaunch.icnt = 1 := by decide

theorem soloLaunch_shape : soloLaunch.shape = 0 := by decide

/-! ### Where a single context is placed (R50, R51) -/

section
variable {s : State}

theorem State.coolest_mem {l : List Nat} {n : Nat} (h : s.coolest l = some n) : n ∈ l := by
  induction l generalizing n with
  | nil => simp [State.coolest] at h
  | cons m r ih =>
    rw [State.coolest] at h
    cases hr : s.coolest r with
    | none => simp [hr] at h; simp [h]
    | some x =>
      rw [hr] at h
      dsimp only at h
      split at h
      · simp at h; simp [h]
      · simp at h; exact List.mem_cons_of_mem _ (ih (hr.trans (by rw [h])))

theorem State.coolest_isSome {l : List Nat} (h : l ≠ []) : ∃ n, s.coolest l = some n := by
  cases l with
  | nil => exact absurd rfl h
  | cons m r =>
    rw [State.coolest]
    cases s.coolest r with
    | none => exact ⟨m, rfl⟩
    | some x =>
      dsimp only
      split
      · exact ⟨_, rfl⟩
      · exact ⟨_, rfl⟩

/-- Out of a window that is not empty a core is taken, and it is of the window (R51). -/
theorem State.pick_mem {win : List Nat} (skips : List (Nat × Nat)) (h : win ≠ []) : ∃ p ∈ win, s.pick win skips = some p := by
  unfold State.pick
  cases hf : win.find? fun n => assocGet n 0 skips == 8 with
  | some p => exact ⟨p, List.mem_of_find?_eq_some hf, rfl⟩
  | none =>
    obtain ⟨p, hp⟩ := State.coolest_isSome (s := s) h
    exact ⟨p, State.coolest_mem hp, hp⟩

theorem State.window_lt {a : LaunchArgs} {l cur n : Nat} {taken : List Nat} (h : n ∈ s.window a l cur taken) : n < 1536 := by
  obtain ⟨i, -, rfl⟩ := List.mem_map.1 (List.mem_filter.1 (List.mem_of_mem_take h)).1
  exact Nat.mod_lt _ (by decide)

theorem State.advance_of_eligible {a : LaunchArgs} {l cur : Nat} (fuel : Nat) (h : s.eligible a l cur = true) :
    s.advance a l (fuel + 1) cur [] = (cur, []) := by
  rw [State.advance, h]
  rfl

/-- A cursor at an eligible core has a window. -/
theorem State.window_ne_nil {a : LaunchArgs} {l cur : Nat} (hc : cur < 1536) (h : s.eligible a l cur = true) : s.window a l cur [] ≠ [] := by
  have hm : cur ∈ ((List.range 1536).map fun i => (cur + i) % 1536).filter fun n => s.eligible a l n && !([] : List Nat).contains n :=
    List.mem_filter.2 ⟨List.mem_map.2 ⟨0, List.mem_range.2 (by decide), Nat.mod_eq_of_lt hc⟩, by rw [h]; rfl⟩
  intro hn
  rcases List.take_eq_nil_iff.1 hn with h0 | h0
  · simp at h0
  · rw [h0] at hm
    simp at hm

theorem State.joinUnit_cores (s : State) (l lv n : Nat) (u : Units) : (s.joinUnit l lv n u).1.cores = s.cores := by
  unfold State.joinUnit
  dsimp only
  split <;> rfl

theorem State.joinUnits_cores (s : State) (a : LaunchArgs) (l n : Nat) (u : Units) (lvs : List Nat) :
    (s.joinUnits a l n u lvs).1.cores = s.cores := by
  induction lvs generalizing s u with
  | nil => rfl
  | cons lv r ih =>
    unfold State.joinUnits
    split
    · exact (ih _ _).trans (s.joinUnit_cores l lv n u)
    · exact ih _ _

/-- Clusters in the mode asked for stay as they are. -/
theorem State.foldl_setFused_same {fused : Bool} (h : ∀ n, (s.core n).fused = fused) (f : Nat → Nat) (l : List Nat) :
    l.foldl (fun s j => s.setFused (f j) fused) s = s := by
  induction l with
  | nil => rfl
  | cons j r ih =>
    have hj : s.setFused (f j) fused = s := if_pos (h (f j))
    rw [List.foldl_cons, hj, ih]

/-- Every core is as after reset. -/
def Fresh (s : State) : Prop := ∀ n, s.core n = Core.reset n

theorem Core.reset_freeSlots (n : Nat) : (Core.reset n).freeSlots = [0, 1, 2, 3] := rfl

theorem Fresh.clusterMode (h : Fresh s) (n : Nat) : s.clusterMode n = none := by
  unfold State.clusterMode
  simp only [h _]
  rfl

theorem Fresh.eligible (h : Fresh s) (l n : Nat) : s.eligible soloLaunch l n = true := by
  have hp : (Core.reset n).poolUsed = 0 := rfl
  have hf : (Core.reset n).flagsUsed l &&& 0 = 0 := BitVec.and_zero
  unfold State.eligible
  dsimp only
  rw [h n, h.clusterMode, Core.reset_freeSlots, hp, soloLaunch_cpi, soloLaunch_pool, soloLaunch_flags, hf]
  rfl

/-- The first slot of the core taken holds the new context. -/
theorem Fresh.place_ofLaunch (h : Fresh s) (q : HostCmd) (l i p : Nat) (u : Units) :
    ((s.place soloLaunch q l i p u).1.ctx p 0).ofLaunch l = true := by
  have hs : Fresh (s.joinUnits soloLaunch l p u [1, 2, 3, 4]).1 := fun n => (State.core_congr (s.joinUnits_cores soloLaunch l p u _) n).trans (h n)
  have hf := State.foldl_setFused_same (fused := soloLaunch.fuse) (fun n => congrArg Core.fused (hs n)) (fun j => p / 8 * 8 + j) (List.range 8)
  unfold State.place
  dsimp only
  rw [hf, State.ctx, core_updCore, hs p, Core.reset_freeSlots, soloLaunch_cpi]
  have hz : (List.range 1).zip (List.take 1 [0, 1, 2, 3]) = [(0, 0)] := rfl
  rw [hz, List.foldl_cons, List.foldl_nil, Core.ctx_updCtx]
  exact beq_self_eq_true l

/-- The context is placed on some core of the package. -/
theorem Fresh.placeAll_one (h : Fresh s) (hc : s.fw.cursor = 0) (ht : s.fw.taken = []) (q : HostCmd) (l : Nat) :
    ∃ p, p < 1536 ∧ ((s.placeAll soloLaunch q l 1 0 []).1.ctx p 0).ofLaunch l = true := by
  have he := h.eligible l 0
  obtain ⟨p, hp, hk⟩ := State.pick_mem (s := s) s.fw.skips (State.window_ne_nil (by decide) he)
  refine ⟨p, State.window_lt hp, ?_⟩
  have ha : s.advance soloLaunch l 3072 0 [] = (0, []) := State.advance_of_eligible 3071 he
  rw [State.placeAll_succ, hc, ht, ha]
  dsimp only
  rw [hk]
  dsimp only [State.placeAll]
  refine Fresh.place_ofLaunch ?_ q l 0 p []
  exact h

/-- A sum of natural numbers is no less than what it starts from. -/
theorem le_foldl_add (f : Nat → Nat) (l : List Nat) (t : Nat) : t ≤ l.foldl (fun t n => t + f n) t := by
  induction l generalizing t with
  | nil => exact le_refl t
  | cons n r ih => exact (Nat.le_add_right t (f n)).trans (ih _)

theorem Fresh.room (h : Fresh s) (l : Nat) : soloLaunch.icnt ≤ s.roomAll soloLaunch l := by
  have h0 : s.roomFor soloLaunch l 0 = 4 := by
    unfold State.roomFor
    dsimp only
    rw [if_pos (h.eligible l 0), h 0, Core.reset_freeSlots, soloLaunch_cpi, soloLaunch_pool]
    rfl
  rw [soloLaunch_icnt, State.roomAll, List.range_succ_eq_map, List.foldl_cons, h0]
  exact le_trans (by decide : 1 ≤ 0 + 4) (le_foldl_add _ _ _)

theorem State.fabricDom_shapeless (s : State) (l : Nat) : s.fabricDom soloLaunch l = s := by
  have hs : (soloLaunch.shape.getLsbD 3 && soloLaunch.fhome / 8 == Config.pkg) = false := by
    rw [soloLaunch_shape]
    rfl
  unfold State.fabricDom
  rw [hs]
  rfl

/-- A launch placed on a slot that some entry of its core shows retired waits (log 54). -/
theorem State.launchCmd_waits {q : HostCmd} {l : Nat} (hl : s.launchNumber = l) (hr : soloLaunch.icnt ≤ s.roomAll soloLaunch l)
    (hp : ∀ skips n rs, s.placedOnRunning (({ s with fw := { s.fw with skips := skips, taken := [], launches := n }, launches := rs } : State).placeAll
      soloLaunch q l 1 0 []).1 l = true) :
    s.launchCmd q 0 0x10000 0 0 = { s with fw := { s.fw with waiting := s.fw.waiting ++ [.launch q 0 0x10000 0 0] } } := by
  have ha : launchArgs 0 0x10000 0 0 = soloLaunch := rfl
  have hb : launchBad 0x10000 0 = false := by decide
  unfold State.launchCmd
  dsimp only
  rw [ha, hl, hb, if_neg (Nat.not_lt.2 hr), State.fabricDom_shapeless, soloLaunch_icnt, if_pos (hp _ _ _)]
  rfl

end

/-- LAUNCH in a package that has booted. -/
theorem exec_launch_of_accepts {s : State} (h : Accepts s) (q : HostCmd) (d0 d1 d2 d3 : Dword) :
    exec (.launch q d0 d1 d2 d3) s = .next (s.launchCmd q d0 d1 d2 d3) := by
  have he : exec (.launch q d0 d1 d2 d3) s = command q (fun s => s.launchCmd q d0 d1 d2 d3) s := rfl
  rw [he, command_next h.1]

/-- The second entries show a retired context wherever a launch places one. -/
theorem listedTwice_placedOnRunning {u t : State} {l p : Nat} (hu : u = listedTwice (List.range 1536)) (hp : p < 1536)
    (ht : (t.ctx p 0).ofLaunch l = true) : u.placedOnRunning t l = true := by
  subst hu
  refine List.any_eq_true.2 ⟨_, listedTwice_retired (List.mem_range.2 hp), List.any_eq_true.2 ⟨0, List.mem_range.2 (by decide), ?_⟩⟩
  dsimp only
  rw [ht, Core.allRetired_st]
  rfl

/-- In `listedTwice` the launch waits, though no core has a retired context. -/
theorem listedTwice_launch_waits (q : HostCmd) {s : State} (hs : s = listedTwice (List.range 1536)) :
    s.launchCmd q 0 0x10000 0 0 = { s with fw := { s.fw with waiting := s.fw.waiting ++ [.launch q 0 0x10000 0 0] } } := by
  have hf : Fresh s := by
    rw [hs]
    exact listedTwice_core _
  have hc : s.fw.cursor = 0 := by rw [hs]; rfl
  refine State.launchCmd_waits rfl (hf.room _) fun skips n rs => ?_
  obtain ⟨p, hp, ht⟩ := Fresh.placeAll_one (s := { s with fw := { s.fw with skips := skips, taken := [], launches := n }, launches := rs })
    hf hc rfl q s.launchNumber
  exact listedTwice_placedOnRunning hs hp ht

/-- Refutes O53, in the clause of a LAUNCH that waits. `listedTwice` lists every core a second time with retired contexts. The placing
looks at every entry and so waits (log 54), but the core of a number is its first entry, of which no context is retired. -/
theorem not_firmwareContexts : ¬ Obligations.FirmwareContexts := by
  unfold Obligations.FirmwareContexts
  intro h
  obtain ⟨s, hs⟩ : ∃ s, s = listedTwice (List.range 1536) := ⟨_, rfl⟩
  let q : HostCmd := { peer := 0, seq := 0 }
  have hA : Accepts s := by
    rw [hs]
    exact ⟨rfl, rfl⟩
  have hf : Fresh s := by
    rw [hs]
    exact listedTwice_core _
  obtain ⟨hlaunch, -⟩ := (h q s).2 hA
  obtain ⟨-, -, hw⟩ := hlaunch 0 0x10000 0 0
  obtain ⟨t, he, ht⟩ := hw (by decide) (hf.room _)
  rw [exec_launch_of_accepts hA, listedTwice_launch_waits q hs] at he
  obtain rfl := Host.Outcome.next.inj he
  rcases ht with ⟨-, n, k, -, hr⟩ | ⟨hc, -⟩
  · rw [hs, listedTwice_ctx] at hr
    exact absurd hr (by decide)
  · exact absurd (congrArg List.length hc) (by simp)

end Sys2Proof.Machine
end

section
/-!
SUPPORT. Rows that `MMA` and `MMAC` enter into the array (R95, R207, R208, R214, R215, O31).
-/

namespace Sys2Proof.Machine

/-! ### What a word of the array leaves of its core -/

/-- A core with the active set, the rows, the chain, the results due and the clock as they were. -/
structure Core.KeepsArray (c d : Core) : Prop where
  active : d.active = c.active
  rows : d.rows = c.rows
  chainN : d.chainN = c.chainN
  oos : d.oos = c.oos
  flights : d.flights = c.flights
  cyc : d.cyc = c.cyc

theorem Core.KeepsArray.refl (c : Core) : c.KeepsArray c := ⟨rfl, rfl, rfl, rfl, rfl, rfl⟩

theorem Core.KeepsArray.trans {a b c : Core} (h : a.KeepsArray b) (g : b.KeepsArray c) : a.KeepsArray c :=
  ⟨g.active.trans h.active, g.rows.trans h.rows, g.chainN.trans h.chainN, g.oos.trans h.oos, g.flights.trans h.flights, g.cyc.trans h.cyc⟩

theorem Core.runs_keepsArray (c : Core) (l : List Run) : c.KeepsArray { c with runs := l } := ⟨rfl, rfl, rfl, rfl, rfl, rfl⟩

theorem Core.record_keepsArray (c : Core) (k opc : Nat) (rows : RowCount) (mask : BitVec 4) : c.KeepsArray (c.record k opc rows mask) :=
  ⟨rfl, rfl, rfl, rfl, rfl, rfl⟩

theorem Core.settleRuns_keepsArray (c : Core) : c.KeepsArray c.settleRuns := by
  have h (l : List Run) (d : Core) :
      d.KeepsArray (l.foldl (fun c r => if r.rows.n = 0 then c else c.record r.ctx r.opc r.rows r.mask) d) := by
    induction l generalizing d with
    | nil => exact .refl d
    | cons r l ih =>
      rw [List.foldl_cons]
      split
      · exact ih d
      · exact (Core.record_keepsArray ..).trans (ih _)
  exact (Core.runs_keepsArray ..).trans (h ..)

theorem Core.endRunOf_keepsArray (c : Core) (k : Nat) : c.KeepsArray (c.endRunOf k) :=
  (Core.runs_keepsArray ..).trans (Core.settleRuns_keepsArray _)

theorem Core.joinRun_flights (c : Core) (k seq opc : Nat) (held : Bool) : (c.joinRun k seq opc held).1.flights = c.flights := by
  unfold Core.joinRun
  dsimp only
  split <;> rfl

theorem Core.joinRun_ctxs (c : Core) (k seq opc : Nat) (held : Bool) : (c.joinRun k seq opc held).1.ctxs = c.ctxs := by
  unfold Core.joinRun
  dsimp only
  split <;> rfl

/-- The running word goes on, and nothing differs but its core, whose array stands as it did. -/
structure ArrayKept (s t : State) : Prop where
  core : OnlyCore s.act.core s t
  array : s.myCore.KeepsArray t.myCore

theorem ArrayKept.refl (s : State) : ArrayKept s s := ⟨.refl _ s, .refl _⟩

theorem ArrayKept.act {s t : State} (h : ArrayKept s t) : t.act = s.act := by rw [h.core.1]

theorem ArrayKept.trans {s t u : State} (h : ArrayKept s t) (g : ArrayKept t u) : ArrayKept s u := by
  refine ⟨onlyCore_trans h.core ?_, h.array.trans g.array⟩
  have hg := g.core
  rwa [h.act] at hg

theorem updMyCore_arrayKept {s : State} {f : Core → Core} (h : s.myCore.KeepsArray (f s.myCore)) : ArrayKept s (s.updMyCore f) :=
  ⟨updCore_onlyCore .., by rwa [myCore_updMyCore]⟩

theorem onArch_arrayKept (s : State) (f : Arch → Arch) : ArrayKept s (s.onArch f) :=
  ⟨(onArch_onlyMine s f).1.1, by rw [myCore_onArch]; exact ⟨rfl, rfl, rfl, rfl, rfl, rfl⟩⟩

/-! ### Sources (R80, R83) -/

/-- A source read changes registers of the running context alone. -/
theorem State.src_arrayKept (s : State) (pk : Bool) (q : BitVec 5) (w : Nat) : ArrayKept s (s.src pk q w).2 := by
  have hr := ArrayKept.refl s
  have ha := onArch_arrayKept s
  unfold State.src
  dsimp only
  by_cases hz : q = 30
  · rw [if_pos hz]
    exact hr
  · rw [if_neg hz]
    by_cases hq : q = 29
    · rw [if_pos hq]
      cases pk
      · exact ha _
      · exact hr
    · rw [if_neg hq]
      split <;> split
      · exact hr
      · exact ha _
      · exact hr
      · exact ha _

/-- What a source gives, and what it leaves of the registers, come from the registers. -/
theorem State.src_congr {s t : State} (ha : t.act = s.act) (hr : t.arch = s.arch) (pk : Bool) (q : BitVec 5) (w : Nat) :
    (t.src pk q w).1 = (s.src pk q w).1 ∧ (t.src pk q w).2.arch = (s.src pk q w).2.arch := by
  unfold State.src
  dsimp only
  rw [ha, hr]
  repeat' split
  all_goals simp only [arch_onArch, hr, and_self]

/-! ### A row entered -/

/-- The core in which the running word has entered a row (R207, R208, R217). -/
def Core.enters (c : Core) (a : Act) (opc : Nat) (t : BitVec 3) (out : Row) : Core :=
  let j := (c.countWord 9 a.ctx a.entry.seq 3).joinRun a.ctx a.entry.seq opc a.entry.held
  { j.1 with rowFrom := c.cyc + rowInterval c.active t
             rows := c.rows ++ [{ ctx := a.ctx, seq := a.entry.seq, instr := a.entry.instr, iss := c.cyc, out := out, run := j.2, act := true }] }

theorem Core.enters_flights (c : Core) (a : Act) (opc : Nat) (t : BitVec 3) (out : Row) : (c.enters a opc t out).flights = c.flights :=
  Core.joinRun_flights ..

theorem Core.enters_ctx (c : Core) (a : Act) (opc : Nat) (t : BitVec 3) (out : Row) (k : Nat) : (c.enters a opc t out).ctx k = c.ctx k := by
  unfold Core.enters Core.ctx
  simp only [Core.joinRun_ctxs]
  rfl

/-- A row has entered the array with output `out`, and the registers hold `a` (R207, R208). -/
def RowEnters (s u : State) (t : BitVec 3) (out : Row) (a : Arch) : Prop :=
  ∃ r, OnlyCore s.act.core s u ∧ u.myCore.flights = s.myCore.flights ∧ u.arch = a ∧
    u.myCore.rows = s.myCore.rows ++ [r] ∧ r.ctx = s.act.ctx ∧ r.seq = s.act.entry.seq ∧ r.instr = s.act.entry.instr ∧
    r.iss = s.myCore.cyc ∧ r.out = out ∧ u.myCore.rowFrom = s.myCore.cyc + rowInterval s.myCore.active t

/-- A row that enters once the word has read its sources. -/
theorem enters_rowEnters {s v : State} (h : ArrayKept s v) (opc : Nat) (t : BitVec 3) (out : Row) :
    RowEnters s (v.updMyCore fun c => c.enters v.act opc t out) t out v.arch := by
  have hc : OnlyCore v.act.core v (v.updMyCore fun c => c.enters v.act opc t out) := updCore_onlyCore ..
  have hu : (v.updMyCore fun c => c.enters v.act opc t out).myCore = v.myCore.enters v.act opc t out := myCore_updMyCore ..
  rw [RowEnters, hu, ← h.array.rows, ← h.array.cyc, ← h.array.active, ← h.array.flights]
  rw [h.act] at hc ⊢
  refine ⟨_, onlyCore_trans h.core hc, Core.enters_flights .., ?_, rfl, rfl, rfl, rfl, rfl, rfl, rfl⟩
  unfold State.arch
  rw [me_updMyCore, Core.enters_ctx]
  rfl

/-- The activation row and, for `MMAC`, the accumulator row that a word reads, and the state after it has (R95). -/
def State.rowSources (s : State) (q : BitVec 5) (t : BitVec 3) (acc : Option (BitVec 5)) : Row × Option Row × State :=
  let x := s.src false q (64 * fmtBits (fmtOf t))
  match acc with
  | none => (x.1, none, x.2)
  | some c => let y := x.2.src false c 2048; (x.1, some y.1, y.2)

theorem State.rowSources_arrayKept (s : State) (q : BitVec 5) (t : BitVec 3) (acc : Option (BitVec 5)) :
    ArrayKept s (s.rowSources q t acc).2.2 := by
  cases acc with
  | none => exact State.src_arrayKept ..
  | some c => exact (State.src_arrayKept ..).trans (State.src_arrayKept ..)

theorem State.rowSources_congr {s v : State} (ha : v.act = s.act) (hr : v.arch = s.arch) (q : BitVec 5) (t : BitVec 3)
    (acc : Option (BitVec 5)) : (v.rowSources q t acc).1 = (s.rowSources q t acc).1 ∧
      (v.rowSources q t acc).2.1 = (s.rowSources q t acc).2.1 ∧ (v.rowSources q t acc).2.2.arch = (s.rowSources q t acc).2.2.arch := by
  obtain ⟨h1, h2⟩ := State.src_congr ha hr false q (64 * fmtBits (fmtOf t))
  cases acc with
  | none => exact ⟨h1, rfl, h2⟩
  | some c =>
    have hx : (v.src false q (64 * fmtBits (fmtOf t))).2.act = (s.src false q (64 * fmtBits (fmtOf t))).2.act := by
      rw [(State.src_arrayKept v ..).act, (State.src_arrayKept s ..).act, ha]
    obtain ⟨h3, h4⟩ := State.src_congr hx h2 false c 2048
    exact ⟨h1, congrArg some h3, h4⟩

/-- Outside a chain a row's activations are those of its queue, and no row is forwarded (R219, R220). -/
theorem State.enterRow_eq {s : State} (hl : s.myCore.active.lost = none) (hc : s.myCore.chainN = 0) (opc : Nat) (q : BitVec 5) (t : BitVec 3)
    (acc : Option (BitVec 5)) : s.enterRow opc q t acc = (s.rowSources q t acc).2.2.updMyCore fun c =>
      c.enters s.act opc t (matRow s.myCore.active t (s.rowSources q t acc).1 (s.rowSources q t acc).2.1) := by
  have hf : s.myCore.follower = false := by simp [Core.follower, hc]
  have hw : s.myCore.forwards = false := by simp [Core.forwards, hc]
  have hact : s.activation q (64 * fmtBits (fmtOf t)) = s.src false q (64 * fmtBits (fmtOf t)) := by
    unfold State.activation
    rw [hf, if_neg (by simp)]
  unfold State.enterRow
  rw [hl, hw]
  dsimp only
  rw [if_neg Bool.false_ne_true, hact]
  cases acc <;> rfl

/-- A word that passes its checks with the array in service goes on to what it does; where it is an original word, the run before it
has ended (R217, R332, R339, R391). -/
theorem mWord_clean {s : State} {i : Instr} (hi : Clean s i 0) (ho : s.myCore.oos = false) (f : State → State) :
    ∃ v, ArrayKept s v ∧ v.arch = s.arch ∧ mWord false i f s = .next (f v) := by
  obtain ⟨h1, h2, h3⟩ := hi
  let v := if s.act.entry.orig then s.updMyCore fun c => c.endRunOf s.act.ctx else s
  have hv : ArrayKept s v ∧ v.arch = s.arch := by
    unfold v
    split
    · refine ⟨updMyCore_arrayKept (Core.endRunOf_keepsArray ..), ?_⟩
      unfold State.arch
      rw [me_updMyCore, Core.endRunOf_ctx]
      rfl
    · exact ⟨.refl s, rfl⟩
  obtain ⟨hk, hr⟩ := hv
  have hoo : v.myCore.oos = false := hk.array.oos.trans ho
  refine ⟨v, hk, hr, ?_⟩
  have hm : mWord false i f s = .next (v.issueChecked false i 0 fun s =>
    if s.myCore.oos then s.raise 50 (lossVal 3 s.myCore.failed s.myCore.ply) else f s) := rfl
  rw [hm, State.issueChecked, hr, h1, h2, h3, hoo]
  rfl

/-- A word that enters a row, where its checks pass (R207, R214). -/
theorem mWord_rowEnters {s : State} {i : Instr} (hi : Clean s i 0) (ho : s.myCore.oos = false) (hl : s.myCore.active.lost = none)
    (hc : s.myCore.chainN = 0) (opc : Nat) (q : BitVec 5) (t : BitVec 3) (acc : Option (BitVec 5)) :
    ∃ u, mWord false i (fun s => s.enterRow opc q t acc) s = .next u ∧
      RowEnters s u t (matRow s.myCore.active t (s.rowSources q t acc).1 (s.rowSources q t acc).2.1) (s.rowSources q t acc).2.2.arch := by
  obtain ⟨v, hk, hr, he⟩ := mWord_clean hi ho fun s => s.enterRow opc q t acc
  have hs := State.rowSources_arrayKept v q t acc
  obtain ⟨h1, h2, h3⟩ := State.rowSources_congr hk.act hr q t acc
  refine ⟨_, he, ?_⟩
  rw [State.enterRow_eq (hk.array.active ▸ hl) (hk.array.chainN.trans hc), hk.array.active, h1, h2, ← h3, ← hs.act]
  exact enters_rowEnters (hk.trans hs) opc t _

/-- Settles O31: a clean word reads its sources, which are those before an end of the run, and enters a row. -/
theorem activationRows : Obligations.ActivationRows := by
  unfold Obligations.ActivationRows
  intro h p t q c s x y ho hl hc i out a hi hq
  obtain ⟨rfl, rfl, rfl⟩ | ⟨rfl, rfl, rfl⟩ := hi
  · obtain ⟨u, he, r, hr⟩ := mWord_rowEnters hq ho hl hc 3 q t none
    exact ⟨u, r, he, hr⟩
  · obtain ⟨u, he, r, hr⟩ := mWord_rowEnters hq ho hl hc 4 q t (some c)
    exact ⟨u, r, he, hr⟩

end Sys2Proof.Machine
end

section
/-!
SUPPORT. What an engine's accesses to the slices and copies of its stack leave as it was, where the stack holds copies of no line
(R255, R258, R265, R275).
-/

namespace Sys2Proof.Machine

/-! ### What waits at the stations of base dies -/

/-- What waits at every station waits there still. -/
structure KeepsInject (s t : State) : Prop where
  inject : ∀ u, (t.stack u).inject = (s.stack u).inject

theorem KeepsInject.refl (s : State) : KeepsInject s s := ⟨fun _ => rfl⟩

theorem KeepsInject.trans {s t u : State} (h : KeepsInject s t) (g : KeepsInject t u) : KeepsInject s u :=
  ⟨fun v => (g.inject v).trans (h.inject v)⟩

/-- Changes that leave the base dies alone may follow. -/
theorem KeepsInject.then {s t u : State} (h : KeepsInject s t) (e : u.stk = t.stk) : KeepsInject s u :=
  h.trans ⟨fun v => by unfold State.stack; rw [e]⟩

theorem updStack_keepsInject (s : State) (t : Nat) (f : Stack → Stack) (h : ∀ x, (f x).inject = x.inject) : KeepsInject s (s.updStack t f) := by
  refine ⟨fun u => ?_⟩
  rw [stack_updStack_eq]
  split
  · exact h _
  · rfl

theorem State.scheduleSwap_keepsInject (s : State) (t g k : Nat) : KeepsInject s (s.scheduleSwap t g k) := by
  have h : KeepsInject s (s.updStack t fun x =>
      { x with swaps := x.swaps ++ [{ group := g, home := BitVec.ofNat 4 k, running := false, ends := 0, held := [] }] }) :=
    updStack_keepsInject s t _ fun _ => rfl
  unfold State.scheduleSwap
  dsimp only
  split
  · exact h.then rfl
  · exact h

theorem State.noteFill_keepsInject (s : State) (line : Nat) : KeepsInject s (s.noteFill line) := by
  unfold State.noteFill
  dsimp only
  split
  · exact .refl s
  · split
    · exact .refl s
    · next g k _ =>
      have h := updStack_keepsInject s (stackAt (line * 128))
        (fun x => { x with remap := assocSet g (((s.stack (stackAt (line * 128))).remapOf g).bump k) x.remap }) fun _ => rfl
      split
      · exact h.trans (State.scheduleSwap_keepsInject ..)
      · exact h

theorem State.slotMade_keepsInject (s : State) (line : Nat) (wr : Bool) : KeepsInject s (s.slotMade line wr) := by
  unfold State.slotMade
  split
  · exact State.noteFill_keepsInject ..
  · refine .trans (updStack_keepsInject s _ _ ?_) (State.noteFill_keepsInject ..)
    exact fun _ => rfl

theorem State.askRemap_keepsInject (s : State) (line : Nat) : KeepsInject s (s.askRemap line) := by
  unfold State.askRemap
  dsimp only
  split
  · exact .refl s
  · split
    · exact .refl s
    · exact ((KeepsInject.refl s).then (u := s.freeVal.2) rfl).trans (updStack_keepsInject _ _ _ fun _ => rfl)

theorem State.slotAccess_keepsInject (s : State) (line : Nat) (wr : Bool) : KeepsInject s (s.slotAccess line wr) := by
  unfold State.slotAccess
  dsimp only
  split
  · exact (State.askRemap_keepsInject ..).trans (updStack_keepsInject _ _ _ fun _ => rfl)
  · exact (State.askRemap_keepsInject ..).trans (State.slotMade_keepsInject ..)

theorem State.dropWords_keepsInject (s : State) (t line : Nat) (m : BitVec 32) : KeepsInject s (s.dropWords t line m) := by
  have h : KeepsInject s (s.updStack t fun x =>
      { x with remote := x.remote.filterMap fun l => if l.line = line then l.without m else some l
               bad := x.bad.filter fun l => l != line }) := updStack_keepsInject s t _ fun _ => rfl
  unfold State.dropWords
  split
  · exact h.then rfl
  · exact .refl s

theorem State.l2Evict_keepsInject {s : State} {t line : Nat} (h : s.copyOf t line = none) (b : By) : KeepsInject s (s.l2Evict t b line) := by
  have hs : KeepsInject s (if (nearAt t (line * 128) && (s.stack t).l2w.contains line) = true then s.slotAccess line true else s) := by
    split
    · exact State.slotAccess_keepsInject ..
    · exact .refl s
  unfold State.l2Evict
  rw [h]
  refine .trans (hs.trans (updStack_keepsInject _ t _ ?_)) (State.dropWords_keepsInject ..)
  exact fun _ => rfl

theorem State.copyOf_none {s : State} {t : Nat} (h : (s.stack t).remote = []) (line : Nat) : s.copyOf t line = none := by
  simp [State.copyOf, h]

theorem State.l2Touch_keepsInject {s : State} {t : Nat} (h : (s.stack t).remote = []) (b : By) (line : Nat) (wr : Bool) :
    KeepsInject s (s.l2Touch t b line wr) := by
  unfold State.l2Touch
  dsimp only
  split
  · exact .refl s
  · split
    · exact updStack_keepsInject s t _ fun _ => rfl
    · have hv : KeepsInject s (match (cacheTouch 16 l2Set s.freeVal.1.toNat line (s.freeVal.2.stack t).l2).2 with
          | some w => s.freeVal.2.l2Evict t b w | none => s.freeVal.2) := by
        split
        · exact .trans (t := s.freeVal.2) ((KeepsInject.refl s).then rfl) (State.l2Evict_keepsInject (State.copyOf_none (s := s.freeVal.2) h _) b)
        · exact (KeepsInject.refl s).then rfl
      split
      · refine .trans (hv.trans (updStack_keepsInject _ t _ ?_)) (State.slotAccess_keepsInject ..)
        exact fun _ => rfl
      · refine hv.trans (updStack_keepsInject _ t _ ?_)
        exact fun _ => rfl

/-! ### Accesses that touch no byte -/

/-- An access leaves bytes, commands and what waits at stations as they were, and homes serve on. -/
structure Touched (s t : State) : Prop where
  only : ∃ k c d f, t = { s with stk := k, cores := c, sched := d, free := f }
  serves : Serves s t
  inject : KeepsInject s t

theorem Touched.refl (s : State) : Touched s s := ⟨⟨_, _, _, _, rfl⟩, .refl s, .refl s⟩

theorem Touched.trans {s t u : State} (h : Touched s t) (g : Touched t u) : Touched s u := by
  refine ⟨?_, h.serves.trans g.serves, h.inject.trans g.inject⟩
  obtain ⟨_, _, _, _, rfl⟩ := h.only
  obtain ⟨_, _, _, _, rfl⟩ := g.only
  exact ⟨_, _, _, _, rfl⟩

theorem Touched.mem {s t : State} (h : Touched s t) : t.mem = s.mem := by obtain ⟨_, _, _, _, rfl⟩ := h.only; rfl

theorem Touched.cmds {s t : State} (h : Touched s t) : t.cmds = s.cmds := by obtain ⟨_, _, _, _, rfl⟩ := h.only; rfl

theorem Touched.reqs {s t : State} (h : Touched s t) : t.reqs = s.reqs := by obtain ⟨_, _, _, _, rfl⟩ := h.only; rfl

theorem Touched.gone {s t : State} (h : Touched s t) : t.gone = s.gone := by obtain ⟨_, _, _, _, rfl⟩ := h.only; rfl

theorem Touched.remote {s t : State} (h : Touched s t) {u : Nat} (e : (s.stack u).remote = []) : (t.stack u).remote = [] :=
  h.serves.remote_nil e

theorem Touched.atHome {s t : State} (h : Touched s t) {a n : Nat} (g : AtHome s a n) : AtHome t a n :=
  atHome_of_serves g h.serves (by unfold MemInv; rw [h.mem]; exact g.1)

theorem State.dropWords_touched (s : State) (t line : Nat) (m : BitVec 32) : Touched s (s.dropWords t line m) := by
  obtain ⟨k, c, e⟩ := State.dropWords_only s t line m
  exact ⟨⟨k, c, _, _, e⟩, State.dropWords_serves .., State.dropWords_keepsInject ..⟩

/-- What an engine touches of its own stack's slices (R265, R267). -/
theorem State.engineTouch_touched {s : State} {c : Cmd} (h : (s.stack c.stack).remote = []) (a : Nat) (wr : Bool) :
    Touched s (s.engineTouch c a wr) := by
  unfold State.engineTouch
  split
  · next hn =>
    obtain ⟨ho, hs⟩ : ownFpa a = true ∧ stackAt a = c.stack := by simpa [nearAt] using hn
    have hl : stackAt (lineOf a * 128) = c.stack := (stackAt_line a).trans hs
    have hown : ownFpa (lineOf a * 128) = true := by
      unfold ownFpa lineOf at *
      rw [beq_iff_eq] at *
      omega
    have he : s.l2Touch c.stack By.none_ (lineOf a) wr = s.homeAccess (lineOf a) wr := by
      unfold State.homeAccess
      rw [if_pos hown, hl]
    have hq : Quiet s (s.l2Touch c.stack By.none_ (lineOf a) wr) := by
      rw [he]
      exact State.homeAccess_empty (by rw [hl]; exact h) wr
    exact ⟨hq.only, hq.serves, State.l2Touch_keepsInject h ..⟩
  · exact .refl s

theorem State.engineReads_touched {s : State} {c : Cmd} (h : (s.stack c.stack).remote = []) (va : Dword) :
    Touched s (s.engineReads c va) := by
  unfold State.engineReads
  split
  · exact State.engineTouch_touched h _ false
  · exact .refl s

/-- Where a stack holds copies of no line, those of bytes go without a write-back (R398). -/
theorem State.recall_touched {s : State} {t : Nat} (h : (s.stack t).remote = []) (b : By) (a n : Nat) : Touched s (s.recall t b a n) := by
  unfold State.recall
  split
  · exact .refl s
  · refine foldl_rel (R := fun s u => (s.stack t).remote = [] → Touched s u) (fun s _ => .refl s)
      (fun h g e => (h e).trans (g ((h e).remote e))) (fun s line e => ?_) _ s h
    rw [State.copyOf_none e]
    exact State.dropWords_touched ..

/-- Where a stack holds copies of no line and no write-back is on its way, bytes may be written at once (R398). -/
theorem State.engClear_touched {s : State} {c : Cmd} (h : (s.stack c.stack).remote = [])
    (hb : ∀ r ∈ s.reqs, ∀ u w l, r.kind ≠ .back u w l) (a n : Nat) :
    (s.engClear c a n).1 = true ∧ Touched s (s.engClear c a n).2 := by
  have ht := State.recall_touched h (s.byCtx c.core c.ctx) a n
  refine ⟨List.all_eq_true.2 fun line _ => ?_, ht⟩
  have hn : (s.recall c.stack (s.byCtx c.core c.ctx) a n).backOut c.stack line = false := by
    unfold State.backOut
    rw [ht.reqs, List.any_eq_false]
    intro r hr
    split
    · next e => exact absurd e (hb r hr _ _ _)
    · exact Bool.false_ne_true
  rw [hn]
  rfl

end Sys2Proof.Machine
end

section
/-!
SUPPORT. Bytes that a copy or gather engine sends (R197, R198, R201, R255, R275, R282).
-/

namespace Sys2Proof.Machine

/-! ### Bytes written at their home -/

theorem State.storeWords_only (s : State) (l : RLine) (m : BitVec 32) :
    ∃ x p, s.storeWords l m = { s with mem := x, poison := p } := by
  have h (k : List Nat) (s : State) : ∃ x, k.foldl (fun s w => s.store (l.line * 128 + 4 * w)
      ((List.range 4).map fun i => l.byte (4 * w + i))) s = { s with mem := x } := by
    induction k generalizing s with
    | nil => exact ⟨_, rfl⟩
    | cons w r ih => exact ih (s.store ..)
  unfold State.storeWords
  dsimp only
  split
  · exact ⟨_, _, rfl⟩
  · obtain ⟨x, e⟩ := h (maskWords m) s
    rw [e]
    split <;> exact ⟨_, _, rfl⟩

/-- A write at home changes bytes, marks of poison and copies alone, and the caches hold no more than before. -/
structure Put (s t : State) : Prop where
  only : ∃ m p k c, t = { s with mem := m, poison := p, stk := k, cores := c }
  serves : Serves s t

theorem Put.refl (s : State) : Put s s := ⟨⟨_, _, _, _, rfl⟩, .refl s⟩

theorem Put.trans {s t u : State} (h : Put s t) (g : Put t u) : Put s u := by
  refine ⟨?_, h.serves.trans g.serves⟩
  obtain ⟨_, _, _, _, rfl⟩ := h.only
  obtain ⟨_, _, _, _, rfl⟩ := g.only
  exact ⟨_, _, _, _, rfl⟩

/-- Bytes stored and lines marked. -/
theorem put_mem (s : State) (m : List Host.Cell) (p : List Nat) : Put s { s with mem := m, poison := p } :=
  ⟨⟨_, _, _, _, rfl⟩, ⟨fun _ => .refl _, .of_eq rfl⟩⟩

theorem State.flushOwn_put (s : State) (a n : Nat) : Put s (s.flushOwn a n) := by
  refine foldl_rel .refl .trans (fun s line => ?_) _ s
  have hd (t : State) : Put t (t.dropWords (stackAt a) line (wordMask line a n)) := by
    obtain ⟨k, c, e⟩ := State.dropWords_only t (stackAt a) line (wordMask line a n)
    exact ⟨⟨_, _, k, c, e⟩, State.dropWords_serves ..⟩
  split
  · exact hd s
  · next l _ =>
    obtain ⟨x, p, e⟩ := s.storeWords_only l (l.dirty &&& wordMask line a n)
    exact .trans (by rw [e]; exact put_mem ..) (hd _)

theorem State.homePut_put (s : State) (a : Nat) (l : List Byte) : Put s (s.homePut a l) := by
  have hf : Put s (if uncached a then s else s.flushOwn a l.length) := by
    split
    · exact .refl s
    · exact State.flushOwn_put ..
  unfold State.homePut
  dsimp only
  split
  · exact hf.trans (put_mem ..)
  · exact hf.trans (put_mem ..)

/-- Bytes that land are told as events alone (R201). -/
theorem State.arrivals_only (s : State) (a n : Nat) : ∃ d, s.arrivals a n = { s with sched := d } := by
  unfold State.arrivals
  split
  · exact ⟨_, rfl⟩
  · next o x _ =>
    refine foldl_rel (R := fun s t => ∃ d, t = { s with sched := d }) (fun s => ⟨s.sched, rfl⟩) (fun h g => ?_) (fun s w => ?_) _ s
    · obtain ⟨_, rfl⟩ := h
      obtain ⟨_, rfl⟩ := g
      exact ⟨_, rfl⟩
    · dsimp only
      split <;> exact ⟨_, rfl⟩

/-! ### Bytes sent to their home -/

/-- Bytes of a command go from its stack to their place: at a home there they stand, elsewhere a cell with them waits at the stack's
station; the stack holds copies of no line still. -/
structure Sends (c : Cmd) (du b : Nat) (l : List Byte) (s t : State) : Prop where
  remote : (t.stack c.stack).remote = []
  near : nearAt c.stack b = true → AtHome s b l.length → Lands b l s t
  far : nearAt c.stack b = false → SameMem s t ∧ (s.gone.contains (peerAt b) = false →
    ∃ tag, { core := none, cls := 1, weight := c.weight, dst := peerAt b
             msg := .cell (ringCell (peerAt b) (peerOf c.stack) du 9 b tag l) } ∈ (t.stack c.stack).inject)

/-- Accesses that touch no byte may go before. -/
theorem Sends.of_touched {c : Cmd} {du b : Nat} {l : List Byte} {s t u : State} (h : Touched s t) (g : Sends c du b l t u) :
    Sends c du b l s u := by
  refine ⟨g.remote, fun hn ha x => ?_, fun hn => ?_⟩
  · rw [← h.mem]
    exact g.near hn (h.atHome ha) x
  · obtain ⟨hm, hi⟩ := g.far hn
    exact ⟨fun x => (hm x).trans (by rw [h.mem]), fun hg => hi (h.gone ▸ hg)⟩

/-- Accesses that touch no byte may follow. -/
theorem Sends.touched {c : Cmd} {du b : Nat} {l : List Byte} {s t u : State} (h : Sends c du b l s t) (g : Touched t u) :
    Sends c du b l s u := by
  refine ⟨g.remote h.remote, fun hn ha x => ?_, fun hn => ?_⟩
  · rw [g.mem]
    exact h.near hn ha x
  · obtain ⟨hm, hi⟩ := h.far hn
    exact ⟨fun x => by rw [g.mem]; exact hm x, fun hg => by rw [g.inject.inject]; exact hi hg⟩

/-- Changes of commands may follow. -/
theorem Sends.updCmd {c : Cmd} {du b : Nat} {l : List Byte} {s t : State} (h : Sends c du b l s t) (id : Nat) (f : Cmd → Cmd) :
    Sends c du b l s (t.updCmd id f) := ⟨h.remote, h.near, h.far⟩

/-- What can be sent waits at its stack's station (R289). -/
theorem State.sendFor_waits (s : State) (o : Option Nat) (t cls weight dst : Nat) (m : Out) :
    ((s.sendFor o t cls weight dst m).stack t).remote = (s.stack t).remote ∧ (s.sendFor o t cls weight dst m).cmds = s.cmds ∧
    (s.gone.contains dst = false →
      { core := o, cls := cls, weight := weight, dst := dst, msg := m } ∈ ((s.sendFor o t cls weight dst m).stack t).inject) := by
  unfold State.sendFor
  split
  · next hg => exact ⟨rfl, rfl, fun h => absurd hg (by rw [h]; decide)⟩
  · rw [stack_updStack]
    exact ⟨rfl, rfl, fun _ => List.mem_append_right _ (List.mem_singleton_self _)⟩

/-- A request waits at its stack's station under a tag of its own (R282). -/
theorem State.request_waits (s : State) (t cls weight dst : Nat) (kd : ReqKind) (mk : Nat → RingCell) :
    ((s.request none t cls weight dst kd mk).stack t).remote = (s.stack t).remote ∧
    (s.request none t cls weight dst kd mk).cmds = s.cmds ∧ (s.gone.contains dst = false →
      ∃ tag, { core := none, cls := cls, weight := weight, dst := dst, msg := .cell (mk tag) } ∈
        ((s.request none t cls weight dst kd mk).stack t).inject) := by
  obtain ⟨hr, hc, hi⟩ := State.sendFor_waits
    { s with tags := s.tags + 1
             reqs := s.reqs ++ [{ tag := BitVec.ofNat 16 (s.tags % 2 ^ 16), cell := mk (s.tags % 2 ^ 16), kind := kd, again := false }] }
    none t cls weight dst (.cell (mk (s.tags % 2 ^ 16)))
  exact ⟨hr, hc, fun hg => ⟨_, hi hg⟩⟩

section

variable {s : State} {c : Cmd} (h : (s.stack c.stack).remote = [])
include h

theorem State.homePut_arrivals_sends {b : Nat} (hn : nearAt c.stack b = true) (du : Nat) (l : List Byte) :
    Sends c du b l s ((s.homePut b l).arrivals b l.length) ∧ ((s.homePut b l).arrivals b l.length).cmds = s.cmds := by
  have hp := s.homePut_put b l
  have hc : (s.homePut b l).cmds = s.cmds := by obtain ⟨_, _, _, _, e⟩ := hp.only; rw [e]
  obtain ⟨d, e⟩ := (s.homePut b l).arrivals_only b l.length
  rw [e]
  refine ⟨⟨hp.serves.remote_nil h, fun _ ha => ?_, fun hf => absurd hn (by rw [hf]; decide)⟩, hc⟩
  rw [State.homePut_eq ha]
  exact lands_store ha.1 b l

theorem State.engAsk_sends {b : Nat} (hn : nearAt c.stack b ≠ true) (hc : c.cls ≠ 2) (du : Nat) (kd : ReqKind) (l : List Byte) :
    Sends c du b l s (s.engAsk c b 9 du kd l) ∧ (s.engAsk c b 9 du kd l).cmds = s.cmds := by
  obtain ⟨hr, hcm, hi⟩ := s.request_waits c.stack 1 c.weight (peerAt b) kd fun tag => ringCell (peerAt b) (peerOf c.stack) du 9 b tag l
  unfold State.engAsk
  rw [if_neg hc]
  exact ⟨⟨hr.trans h, fun hf => absurd hf hn, fun _ => ⟨fun x => by rw [State.request_mem], hi⟩⟩, hcm⟩

/-- What a copy or gather engine sends goes to its place (R198, R255, R282). -/
theorem State.sendBytes_sends (hc : c.cls ≠ 2) (b : Nat) (l : List Byte) :
    Sends c (if c.cls = 1 then 194 else 195) b l s (s.sendBytes c b l) ∧ (s.sendBytes c b l).cmds = s.cmds := by
  unfold State.sendBytes
  by_cases hn : nearAt c.stack b = true
  · rw [if_pos hn]
    exact State.homePut_arrivals_sends h hn _ l
  · rw [if_neg hn]
    exact State.engAsk_sends h hn hc _ _ l

end

end Sys2Proof.Machine
end

section
/-!
SUPPORT. One cycle of a copy or gather command: the chunk that it moves (R197 to R199).
-/

namespace Sys2Proof.Machine

/-! ### Bytes and places met one after another -/

theorem engBytes_bytes (l : List Byte) : engBytes (l.map .byte) = (l, none) := by
  induction l with
  | nil => rfl
  | cons v r ih => rw [List.map_cons, engBytes, ih]

theorem engPlaces_places (b m : Nat) {next : Option Nat} (h : next = none ∨ next = some b) :
    engPlaces ((List.range' b m).map .place) next = (m, none) := by
  induction m generalizing b next with
  | zero => rfl
  | succ m ih => rw [List.range'_succ, List.map_cons, engPlaces, if_pos h, ih (b + 1) (.inr rfl)]

theorem firstPlace_places (b : Nat) {m : Nat} (h : 0 < m) : firstPlace ((List.range' b m).map .place) = b := by
  obtain ⟨k, rfl⟩ := Nat.exists_eq_succ_of_ne_zero h.ne'
  rfl

/-- What an engine meets at each of a chunk's addresses, where all of them are bytes. -/
theorem map_range_bytes {f : Nat → Eng} {l : List Byte} (h : ∀ i, i < l.length → f i = .byte (l.getD i 0)) :
    (List.range l.length).map f = l.map .byte := by
  refine List.ext_getElem (by simp) fun i hi _ => ?_
  have hi' : i < l.length := by simpa using hi
  rw [List.getElem_map, List.getElem_range, h i hi', List.getElem_map, List.getD_eq_getElem _ _ hi']

/-- What an engine meets at each of a chunk's addresses, where they are places that follow one another. -/
theorem map_range_places {f : Nat → Eng} {b m : Nat} (h : ∀ i, i < m → f i = .place (b + i)) :
    (List.range m).map f = (List.range' b m).map .place := by
  rw [List.range'_eq_map_range, List.map_map]
  exact List.map_congr_left fun i hi => h i (List.mem_range.1 hi)

/-! ### A chunk moved -/

/-- A command alone in a list, changed. -/
theorem map_only (c : Cmd) (f : Cmd → Cmd) : ([c].map fun x => if x.id = c.id then f x else x) = [f c] := by simp

/-- What a step that moves bytes `l` to `b` makes of its command: `f` of it, and the lines that it has read are forgotten but for two. -/
def Cmd.forgets (f : Cmd → Cmd) (d : Cmd) : Cmd := { f d with buf := d.buf.drop (d.buf.length - 2) }

section

variable {s : State} {c : Cmd} (hc : s.cmds = [c]) (h : (s.stack c.stack).remote = [])
  (hb : ∀ r ∈ s.reqs, ∀ u w l, r.kind ≠ .back u w l) (h2 : c.cls ≠ 2) {b : Nat} {l : List Byte} (hl : 0 < l.length)
include hc h hb h2 hl

/-- A chunk whose bytes are read and whose places follow one another is sent to them (R198). -/
theorem State.moveChunk_sends (sa : Dword) (f : Nat → Nat → Cmd → Cmd) :
    Sends c (if c.cls = 1 then 194 else 195) b l s (s.moveChunk c sa (l.map .byte) ((List.range' b l.length).map .place) f) ∧
    (s.moveChunk c sa (l.map .byte) ((List.range' b l.length).map .place) f).cmds = [c.forgets (f l.length b)] := by
  obtain ⟨hok, hclear⟩ := State.engClear_touched h hb b l.length
  have hread := hclear.trans (State.engineReads_touched (hclear.remote h) sa)
  have ht := hread.trans (State.engineTouch_touched (hread.remote h) b true)
  obtain ⟨hs, hm⟩ := State.sendBytes_sends (ht.remote h) h2 b l
  have he : s.moveChunk c sa (l.map .byte) ((List.range' b l.length).map .place) f =
      (((((s.engClear c b l.length).2.engineReads c sa).engineTouch c b true).sendBytes c b l).updCmd c.id (Cmd.forgets (f l.length b))) := by
    unfold State.moveChunk
    simp only [engBytes_bytes, engPlaces_places b l.length (.inl rfl), firstPlace_places b hl, Nat.min_self, List.take_length]
    rw [if_neg hl.ne', if_pos hok]
    rfl
  rw [he]
  refine ⟨(hs.of_touched ht).updCmd .., ?_⟩
  unfold State.updCmd
  rw [hm, ht.cmds, hc, map_only c]

end

/-- In this cycle the next chunk of a command moves: `left` bytes are left of the region or entry from address `sa` on, and cells go to
data unit `du` (R198, R199). -/
def ChunkMoves (s : State) (c : Cmd) (sa : Dword) (left du : Nat) (t : State) : Prop :=
  let da := c.dst + BitVec.ofNat 64 c.moved
  let m := chunkLen left sa da
  ∀ (b : Nat) (l : List Byte), 0 < m → l.length = m → s.engWalk c sa = none → s.engWalk c da = none →
    (∀ i, i < m → s.engByte c (sa + BitVec.ofNat 64 i) = .byte (l.getD i 0) ∧
      s.engPlace c (da + BitVec.ofNat 64 i) = .place (b + i)) →
    (∃ d, t.cmds = [d] ∧ d.moved = c.moved + m ∧ (c.cls ≠ 1 → d.entry = c.entry ∧ d.off = c.off + m)) ∧
    (nearAt c.stack b = true → AtHome s b m → Lands b l s t) ∧
    (nearAt c.stack b = false → (∀ y ∈ linesOf b m, s.copyOf c.stack y = none) → SameMem s t ∧ (s.gone.contains (peerAt b) = false →
      ∃ tag, { core := none, cls := 1, weight := c.weight, dst := peerAt b,
               msg := .cell (ringCell (peerAt b) (peerOf c.stack) du 9 b tag l) } ∈ (t.stack c.stack).inject))

/-- A chunk sent, with what its command becomes. -/
theorem chunkMoves_of_sends {s t : State} {c : Cmd} {sa : Dword} {left du : Nat}
    (h : ∀ (b : Nat) (l : List Byte), 0 < l.length → l.length = chunkLen left sa (c.dst + BitVec.ofNat 64 c.moved) →
      s.engWalk c sa = none → s.engWalk c (c.dst + BitVec.ofNat 64 c.moved) = none →
      (List.range l.length).map (fun i => s.engByte c (sa + BitVec.ofNat 64 i)) = l.map .byte →
      (List.range l.length).map (fun i => s.engPlace c (c.dst + BitVec.ofNat 64 c.moved + BitVec.ofNat 64 i)) =
        (List.range' b l.length).map .place →
      Sends c du b l s t ∧ ∃ d, t.cmds = [d] ∧ d.moved = c.moved + l.length ∧
        (c.cls ≠ 1 → d.entry = c.entry ∧ d.off = c.off + l.length)) :
    ChunkMoves s c sa left du t := by
  intro b l hm hl hws hwd hx
  obtain ⟨hs, hd⟩ := h b l (hl ▸ hm) hl hws hwd (map_range_bytes fun i hi => (hx i (hl ▸ hi)).1)
    (map_range_places fun i hi => (hx i (hl ▸ hi)).2)
  rw [← hl]
  exact ⟨hd, hs.near, fun hn _ => hs.far hn⟩

/-! ### A cycle of a CPY (R198) -/

/-- Where the regions are apart, a byte is read from its source. -/
theorem State.cpyByte_apart (s : State) {c : Cmd} {n j : Nat} (h : n ≤ (c.src + BitVec.ofNat 64 j - c.dst).toNat) (fuel : Nat) :
    s.cpyByte c n fuel j = s.engByte c (c.src + BitVec.ofNat 64 j) := by
  cases fuel with
  | zero => rfl
  | succ k =>
    unfold State.cpyByte
    exact if_pos (.inl h)

section

variable {s : State} {c : Cmd} (hc : s.cmds = [c]) (h : (s.stack c.stack).remote = [])
  (hb : ∀ r ∈ s.reqs, ∀ u w l, r.kind ≠ .back u w l)
include hc

theorem State.finished_eq : (s.updCmd c.id fun c => { c with finished := true }) = { s with cmds := [{ c with finished := true }] } := by
  unfold State.updCmd
  rw [hc, map_only c]

include h hb

/-- A `CPY` whose regions are apart moves its next chunk. -/
theorem State.copyStep_moves (h1 : c.cls = 1) (hn : c.moved < fld c.cnt 0 40)
    (ha : ∀ j, j < fld c.cnt 0 40 → fld c.cnt 0 40 ≤ (c.src + BitVec.ofNat 64 j - c.dst).toNat) :
    ChunkMoves s c (c.src + BitVec.ofNat 64 c.moved) (fld c.cnt 0 40 - c.moved) 194 (s.copyStep c) := by
  refine chunkMoves_of_sends fun b l hl hlen hws hwd hsv hdv => ?_
  have hsrc : (List.range l.length).map (fun i => s.cpyByte c (fld c.cnt 0 40) (fld c.cnt 0 40) (c.moved + i)) = l.map .byte := by
    rw [← hsv]
    refine List.map_congr_left fun i hi => ?_
    have hi' : i < l.length := List.mem_range.1 hi
    have hle : l.length ≤ fld c.cnt 0 40 - c.moved := by
      rw [hlen]
      exact Nat.min_le_left ..
    rw [s.cpyByte_apart (ha _ (by omega)), BitVec.ofNat_add, BitVec.add_assoc]
  obtain ⟨hs, hm⟩ := State.moveChunk_sends hc h hb (by rw [h1]; decide) (b := b) hl (c.src + BitVec.ofNat 64 c.moved) fun m a d =>
    { d with old := (d.old.filter fun o => decide (d.moved + m ≤ o.1)) ++ s.keepOld d (fld c.cnt 0 40) m a, moved := d.moved + m }
  have he : s.copyStep c = s.moveChunk c (c.src + BitVec.ofNat 64 c.moved) (l.map .byte) ((List.range' b l.length).map .place) fun m a d =>
      { d with old := (d.old.filter fun o => decide (d.moved + m ≤ o.1)) ++ s.keepOld d (fld c.cnt 0 40) m a, moved := d.moved + m } := by
    unfold State.copyStep
    dsimp only
    rw [if_neg (Nat.not_le.2 hn), hws, hwd, ← hlen, hsrc, hdv]
    rfl
  rw [he]
  rw [if_pos h1] at hs
  exact ⟨hs, _, hm, rfl, fun h => absurd h1 h⟩

/-- A `GATH` whose list entry is read moves its next chunk (R199). -/
theorem State.gatherStep_moves (h1 : c.cls ≠ 1) (h2 : c.cls ≠ 2) (hn : c.entry < fld c.cnt 0 20) {e : List Byte}
    (hw : s.engWalk c (c.src + BitVec.ofNat 64 (16 * c.entry)) = none)
    (he : engBytes ((List.range 16).map fun i => s.engByte c (c.src + BitVec.ofNat 64 (16 * c.entry) + BitVec.ofNat 64 i)) = (e, none))
    (ho : c.off < leNat ((e.drop 8).take 4)) :
    ChunkMoves s c (BitVec.ofNat 64 (leNat (e.take 8) + c.off)) (leNat ((e.drop 8).take 4) - c.off) 195 (s.gatherStep c) := by
  refine chunkMoves_of_sends fun b l hl hlen hws hwd hsv hdv => ?_
  obtain ⟨hs, hm⟩ := State.moveChunk_sends hc h hb h2 (b := b) hl (BitVec.ofNat 64 (leNat (e.take 8) + c.off)) fun m _ d =>
    { d with moved := d.moved + m, off := d.off + m }
  rw [if_neg h1] at hs
  generalize hr : s.moveChunk c (BitVec.ofNat 64 (leNat (e.take 8) + c.off)) (l.map .byte) ((List.range' b l.length).map .place)
    (fun m _ d => { d with moved := d.moved + m, off := d.off + m }) = r at hs hm
  have hg : s.gatherStep c = if c.off = 0 ∧ (r.cmd c.id).map (·.moved) ≠ some c.moved
      then r.engineReads c (c.src + BitVec.ofNat 64 (16 * c.entry)) else r := by
    unfold State.gatherStep
    dsimp only
    rw [if_neg (Nat.not_le.2 hn), hw]
    dsimp only
    rw [he]
    dsimp only
    rw [if_neg (Nat.not_le.2 ho), hws, hwd, ← hlen, hsv, hdv]
    exact hr ▸ rfl
  have ht : Touched r (s.gatherStep c) := by
    rw [hg]
    split
    · exact State.engineReads_touched hs.remote _
    · exact .refl r
  exact ⟨hs.touched ht, _, ht.cmds.trans hm, rfl, fun _ => ⟨rfl, rfl⟩⟩

end

/-! ### The engines of a package with one command -/

section

variable {s : State} {c : Cmd} (hc : s.cmds = [c])
include hc

/-- One started command, which waits for nothing, has its cycle. -/
theorem State.runEngines_one (hf : c.finished = false) (hs : c.stopped = none) (hj : c.coll = none) (hst : c.started = true)
    (hn : c.since ≤ s.now) : s.runEngines = if c.cls = 1 then s.copyStep c else s.gatherStep c := by
  have hfil : ({ s with cmds := s.cmds.filter fun c => !c.finished || s.cellsOut c || s.engineOut c.id } : State) = s := by
    rw [hc, List.filter_cons_of_pos (by rw [hf]; rfl), List.filter_nil, ← hc]
  have hcmd : s.cmd c.id = some c := by
    unfold State.cmd
    rw [hc, List.find?_cons_of_pos (by simp)]
  unfold State.runEngines
  rw [hfil, hc, List.foldl_cons, List.foldl_nil, hcmd]
  dsimp only
  rw [hf, hs, hj, hst, decide_eq_true hn]
  rfl

theorem State.copyStep_finishes (hn : fld c.cnt 0 40 ≤ c.moved) : s.copyStep c = { s with cmds := [{ c with finished := true }] } := by
  unfold State.copyStep
  dsimp only
  rw [if_pos hn, State.finished_eq hc]

theorem State.gatherStep_finishes (hn : fld c.cnt 0 20 ≤ c.entry) : s.gatherStep c = { s with cmds := [{ c with finished := true }] } := by
  unfold State.gatherStep
  rw [if_pos hn, State.finished_eq hc]

/-- A used-up list entry gives way to the next. -/
theorem State.gatherStep_next (hn : c.entry < fld c.cnt 0 20) {e : List Byte}
    (hw : s.engWalk c (c.src + BitVec.ofNat 64 (16 * c.entry)) = none)
    (he : engBytes ((List.range 16).map fun i => s.engByte c (c.src + BitVec.ofNat 64 (16 * c.entry) + BitVec.ofNat 64 i)) = (e, none))
    (ho : leNat ((e.drop 8).take 4) ≤ c.off) : s.gatherStep c = { s with cmds := [{ c with entry := c.entry + 1, off := 0 }] } := by
  unfold State.gatherStep
  dsimp only
  rw [if_neg (Nat.not_le.2 hn), hw]
  dsimp only
  rw [he]
  dsimp only
  rw [if_pos ho]
  unfold State.updCmd
  rw [hc, map_only c]

end

end Sys2Proof.Machine
end

section
/-!
SUPPORT. Arrival words (R201), and the events of copy and gather engines (O45).
-/

namespace Sys2Proof.Machine

/-! ### Numbers of bytes in memory (R3) -/

theorem readBytes_append (m : List Host.Cell) (a j k : Nat) : readBytes m a (j + k) = readBytes m a j ++ readBytes m (a + j) k := by
  induction j generalizing a with
  | zero => rw [Nat.zero_add]; rfl
  | succ j ih =>
    rw [Nat.succ_add, readBytes, readBytes, ih, List.cons_append, Nat.add_assoc, Nat.add_comm 1 j]

theorem readBytes_eq_map (m : List Host.Cell) (a n : Nat) : readBytes m a n = (List.range n).map fun i => readByte (a + i) m := by
  induction n with
  | zero => rfl
  | succ n ih => rw [readBytes_append, ih, List.range_succ, List.map_append]; rfl

theorem leNat_append (l m : List Byte) : leNat (l ++ m) = leNat l + 256 ^ l.length * leNat m := by
  induction l with
  | nil => simp [leNat]
  | cons v r ih => rw [List.cons_append, leNat, ih, leNat, List.length_cons, Nat.pow_succ']; ring

theorem leNat_lt (l : List Byte) : leNat l < 256 ^ l.length := by
  induction l with
  | nil => exact Nat.one_pos
  | cons v r ih =>
    have hv : v.toNat < 256 := v.isLt
    rw [leNat, List.length_cons, Nat.pow_succ']
    omega

theorem leBytes_leNat (l : List Byte) : leBytes l.length (leNat l) = l := by
  induction l with
  | nil => rfl
  | cons v r ih =>
    have hv : v.toNat < 256 := v.isLt
    rw [leNat, List.length_cons, leBytes, Nat.add_mul_mod_self_left, Nat.mod_eq_of_lt hv, Nat.add_mul_div_left _ _ (by decide),
      Nat.div_eq_of_lt hv, Nat.zero_add, ih, BitVec.ofNat_toNat, BitVec.setWidth_eq]

theorem leBytes_append (j k x : Nat) {y : Nat} (h : x < 256 ^ j) : leBytes (j + k) (x + 256 ^ j * y) = leBytes j x ++ leBytes k y := by
  induction j generalizing x with
  | zero =>
    obtain rfl : x = 0 := by simpa using h
    simp [leBytes]
  | succ j ih =>
    have hx : x / 256 < 256 ^ j := Nat.div_lt_of_lt_mul (by rwa [← Nat.pow_succ'])
    rw [Nat.succ_add, leBytes, leBytes, Nat.pow_succ', Nat.mul_assoc, Nat.add_mul_mod_self_left, Nat.add_mul_div_left _ _ (by decide),
      ih _ hx, List.cons_append]

theorem memNat_lt (s : State) (a n : Nat) : memNat s a n < 256 ^ n := by
  have h := leNat_lt ((List.range n).map fun i => readByte (a + i) s.mem)
  rwa [List.length_map, List.length_range] at h

theorem State.readNat_eq (s : State) (a n : Nat) : s.readNat a n = memNat s a n := by
  unfold State.readNat memNat
  rw [readBytes_eq_map]

theorem memNat_add (s : State) (a j k : Nat) : memNat s a (j + k) = memNat s a j + 256 ^ j * memNat s (a + j) k := by
  rw [← State.readNat_eq, State.readNat, readBytes_append, leNat_append]
  simp only [← State.readNat_eq, State.readNat, readBytes_eq_map, List.length_map, List.length_range]

/-- The bytes that stand there written again change nothing. -/
theorem lands_again {s t : State} {a : Nat} {l : List Byte} {n : Nat} (h : Lands a (l ++ leBytes n (memNat s (a + l.length) n)) s t) :
    Lands a l s t := by
  have hm : leBytes n (memNat s (a + l.length) n) = (List.range n).map fun i => readByte (a + l.length + i) s.mem := by
    have he := leBytes_leNat ((List.range n).map fun i => readByte (a + l.length + i) s.mem)
    rwa [List.length_map, List.length_range] at he
  intro b
  rw [h b, hm, List.length_append, List.length_map, List.length_range]
  by_cases h1 : a ≤ b ∧ b < a + l.length
  · rw [if_pos h1, if_pos (by omega), List.getD_append _ _ _ _ (by omega)]
  · rw [if_neg h1]
    split
    · next h2 =>
      rw [List.getD_append_right _ _ _ _ (by omega), List.getD_eq_getElem _ _ (by simp; omega), List.getElem_map, List.getElem_range]
      congr 1
      omega
    · rfl

/-! ### Scratchpads (R41, R176, R254, R365) -/

/-- An address beyond the windows of the two tiers is in no page of the pool (R41, R264). -/
theorem State.inPool_beyond (s : State) {a : Nat} (h : 0x40000000000 ≤ a % 2 ^ 45) : s.inPool a = false := by
  have hh : homePage (a % 2 ^ 45) = none := by
    unfold homePage groupCount
    rw [if_neg (by omega), if_neg (by omega)]
  unfold State.inPool
  dsimp only
  rw [hh]
  dsimp only
  rw [decide_eq_false (Nat.not_lt.2 h), Bool.and_false]

/-- Bytes written at an address that no cache holds and that lies beyond the tiers are stored. -/
theorem State.homePut_beyond (s : State) {a : Nat} (h : 0x1F0000000000 ≤ a % 2 ^ 45) (l : List Byte) :
    s.homePut a l = { s.store a l with poison := clearPoison a l.length s.poison } := by
  have hu : uncached a = true := decide_eq_true h
  have hp : s.portDown a = false := by
    unfold State.portDown
    rw [s.inPool_beyond (Nat.le_trans (by decide) h), Bool.and_false, Bool.false_and]
  unfold State.homePut
  dsimp only
  rw [hu, hp, if_pos rfl, if_neg Bool.false_ne_true]

/-- The windows of scratchpads lie beyond the tiers. -/
theorem spAddr_beyond (n a : Nat) {j : Nat} (h : j < 16) : 0x1F0000000000 ≤ (spAddr n a + j) % 2 ^ 45 := by
  unfold spAddr
  omega

/-! ### Arrival words (R201) -/

/-- The fields of an arrival word: TGT, CNT, GEN and the byte of FLAG and ARM. -/
theorem arrival_fields (s : State) (p : Nat) :
    nbits (s.readNat p 16) 0 32 = memNat s p 4 ∧ nbits (s.readNat p 16) 32 32 = memNat s (p + 4) 4 ∧
    nbits (s.readNat p 16) 64 32 = memNat s (p + 8) 4 ∧ nbits (s.readNat p 16) 96 6 = (readByte (p + 12) s.mem).toNat % 64 ∧
    (nbits (s.readNat p 16) 103 1 = 1 ↔ 128 ≤ (readByte (p + 12) s.mem).toNat) := by
  have h0 := memNat_lt s p 4
  have h1 := memNat_lt s (p + 4) 4
  have h2 := memNat_lt s (p + 8) 4
  have h3 : (readByte (p + 12) s.mem).toNat < 256 := (readByte (p + 12) s.mem).isLt
  have hb : memNat s (p + 12) 1 = (readByte (p + 12) s.mem).toNat := by simp [memNat, leNat]
  have hw : s.readNat p 16 = memNat s p 4 + 256 ^ 4 * (memNat s (p + 4) 4 + 256 ^ 4 * (memNat s (p + 8) 4 + 256 ^ 4 *
      ((readByte (p + 12) s.mem).toNat + 256 * memNat s (p + 13) 3))) := by
    rw [State.readNat_eq, show 16 = 4 + (4 + (4 + (1 + 3))) from rfl, memNat_add, memNat_add, memNat_add, memNat_add, Nat.add_assoc p 4 4,
      Nat.add_assoc p, Nat.add_assoc p, hb]
    rfl
  rw [hw]
  generalize (readByte (p + 12) s.mem).toNat = x at *
  generalize memNat s p 4 = t at *
  generalize memNat s (p + 4) 4 = c at *
  generalize memNat s (p + 8) 4 = g at *
  generalize memNat s (p + 13) 3 = r at *
  unfold nbits
  omega

/-- What landed bytes make of the arrival word at `p` of core `n` (R201). -/
def State.arrived (s : State) (n p b : Nat) : State :=
  let tgt := memNat s p 4
  let cnt := (memNat s (p + 4) 4 + b) % 2 ^ 32
  let x := (readByte (p + 12) s.mem).toNat
  if tgt = 0 then s
  else if 128 ≤ x ∧ tgt ≤ cnt then
    (s.homePut (p + 4) (leBytes 8 (cnt - tgt + (memNat s (p + 8) 4 + 1) % 2 ^ 32 * 2 ^ 32))).updCore n fun c =>
      c.setFlags (BitVec.ofNat 64 (2 ^ (x % 64)))
  else s.homePut (p + 4) (leBytes 8 (cnt + memNat s (p + 8) 4 % 2 ^ 32 * 2 ^ 32))

theorem exec_arrivalUpdate (n a b : Nat) (s : State) : exec (.arrivalUpdate n a b) s = .next (s.arrived n (spAddr n a) b) := by
  have he : exec (.arrivalUpdate n a b) s = execArrivalUpdate n a b s := rfl
  obtain ⟨ht, hcn, hg, hf, harm⟩ := arrival_fields s (spAddr n a)
  rw [he]
  unfold execArrivalUpdate State.arrived
  simp only [ht, hcn, hg, hf, harm]

section

variable {s : State} {n p b : Nat} (hp : 0x1F0000000000 ≤ (p + 4) % 2 ^ 45)
include hp

theorem State.core_homePut_beyond (l : List Byte) (m : Nat) : (s.homePut (p + 4) l).core m = s.core m := by
  rw [State.homePut_beyond s hp]
  rfl

theorem State.arrived_core_ne {m : Nat} (hm : m ≠ n) : (s.arrived n p b).core m = s.core m := by
  unfold State.arrived
  dsimp only
  split
  · rfl
  · split
    · rw [core_updCore_ne _ hm, State.core_homePut_beyond hp]
    · rw [State.core_homePut_beyond hp]

variable (h : MemInv s)
include h

/-- CNT and GEN of an arrival word written. -/
theorem arrival_put {c : Nat} (hc : c < 2 ^ 32) (g : Nat) :
    Lands (p + 4) (leBytes 4 c ++ leBytes 4 (g % 2 ^ 32)) s (s.homePut (p + 4) (leBytes 8 (c + g % 2 ^ 32 * 2 ^ 32))) := by
  have hw : leBytes 8 (c + g % 2 ^ 32 * 2 ^ 32) = leBytes 4 c ++ leBytes 4 (g % 2 ^ 32) := by
    rw [Nat.mul_comm (g % 2 ^ 32)]
    exact leBytes_append 4 4 c hc
  rw [State.homePut_beyond s hp, hw]
  exact lands_store h (p + 4) _

variable (h0 : memNat s p 4 ≠ 0)
include h0

/-- An armed word whose count reaches TGT raises its flag. -/
theorem State.arrived_reaches (hx : 128 ≤ (readByte (p + 12) s.mem).toNat) (ht : memNat s p 4 ≤ (memNat s (p + 4) 4 + b) % 2 ^ 32) :
    Lands (p + 4) (leBytes 4 ((memNat s (p + 4) 4 + b) % 2 ^ 32 - memNat s p 4) ++ leBytes 4 ((memNat s (p + 8) 4 + 1) % 2 ^ 32)) s
      (s.arrived n p b) ∧
    (s.arrived n p b).core n = { s.core n with
      flgNew := (s.core n).flgNew ||| BitVec.ofNat 64 (2 ^ ((readByte (p + 12) s.mem).toNat % 64)) } := by
  have hc : (memNat s (p + 4) 4 + b) % 2 ^ 32 < 2 ^ 32 := Nat.mod_lt _ (by decide)
  unfold State.arrived
  dsimp only
  rw [if_neg h0, if_pos ⟨hx, ht⟩]
  refine ⟨arrival_put hp h (Nat.lt_of_le_of_lt (Nat.sub_le ..) hc) _, ?_⟩
  rw [core_updCore, State.core_homePut_beyond hp, Core.setFlags]

/-- Another word only counts. -/
theorem State.arrived_counts (hx : (readByte (p + 12) s.mem).toNat < 128 ∨ (memNat s (p + 4) 4 + b) % 2 ^ 32 < memNat s p 4) :
    Lands (p + 4) (leBytes 4 ((memNat s (p + 4) 4 + b) % 2 ^ 32)) s (s.arrived n p b) ∧ (s.arrived n p b).core n = s.core n := by
  have hg : memNat s (p + 8) 4 < 2 ^ 32 := memNat_lt s _ 4
  unfold State.arrived
  dsimp only
  rw [if_neg h0, if_neg (by omega)]
  refine ⟨lands_again (n := 4) ?_, State.core_homePut_beyond hp ..⟩
  have hl := arrival_put hp h (Nat.mod_lt (memNat s (p + 4) 4 + b) (by decide)) (memNat s (p + 8) 4)
  rw [leBytes_length]
  rwa [Nat.mod_eq_of_lt hg] at hl ⊢

end

/-! ### Commands started, commands failed, cells taken -/

theorem copyCommandStart_starts {s : State} {t0 : Nat} {cls : BitVec 3} {e : Nat} {c : Cmd}
    (h : s.cmds.find? (fun c => c.stack == t0 && c.cls == cls && c.eng == e && !c.finished) = some c) :
    exec (.copyCommandStart t0 cls e) s = .next (if c.started then s else
      s.updCmd c.id fun x => { x with started := true, since := s.now + Config.latCopy }) := by
  have he : exec (.copyCommandStart t0 cls e) s = execCopyCommandStart t0 cls e s := rfl
  rw [he]
  unfold execCopyCommandStart State.startable
  rw [h]
  dsimp only
  cases c.started <;> rfl

theorem exec_engineCommandFail (w : CtxRef) (v : Dword) (s : State) : exec (.engineCommandFail w v) s =
    .next (if s.alive (refCore w) w.ctx then s.raiseAsync (refCore w) w.ctx 64 v else s) := rfl

/-- An asynchronous trap that arrives waits, and leaves the registers alone (R321). -/
theorem State.raiseAsync_waits (s : State) (n k cause : Nat) (v : Dword) : OnlyCtx n k s (s.raiseAsync n k cause v) ∧
    ((s.raiseAsync n k cause v).ctx n k).asyncs = (s.ctx n k).asyncs ++ [(cause, v)] ∧
    ((s.raiseAsync n k cause v).ctx n k).arch = (s.ctx n k).arch := by
  refine ⟨updCtx_onlyCtx .., ?_, ?_⟩
  · unfold State.raiseAsync
    rw [ctx_updCtx]
  · unfold State.raiseAsync
    rw [ctx_updCtx]
    dsimp only
    split
    · rfl
    · exact Ctx.wake_arch _

/-- What a copy or gather cell does where it is served (R201, R282). -/
def copyServe (c : RingCell) (s : State) : State :=
  (((s.homeAccess (lineOf (cellAddr c)) true).homePut (cellAddr c) c.payload).arrivals (cellAddr c) c.payload.length).reply c 5 []

theorem exec_copyOrGatherData (c : RingCell) (room : Bool) (s : State) : exec (.copyOrGatherData ⟨c, room⟩) s =
    takeRequest c room true (max 1 c.payload.length) (copyServe c) s := rfl

theorem Kept.arrivals {s t : State} (h : Kept s t) (a n : Nat) : Kept s (t.arrivals a n) := by
  obtain ⟨d, e⟩ := t.arrivals_only a n
  rw [e]
  exact ⟨h.outbox, h.cores, h.gone⟩

/-- Bytes of a copy or gather cell land at their home, and their sender is told (R201, R282). -/
theorem copyOrGatherData_lands {c : RingCell} {s : State} (h : Served c true (max 1 c.payload.length) s)
    (ha : AtHome s (cellAddr c) c.payload.length) (hs : InSlice s (cellAddr c)) :
    ∃ t, exec (.copyOrGatherData ⟨c, true⟩) s = .next t ∧ Lands (cellAddr c) c.payload s t ∧ Answers c 5 [] s t := by
  obtain ⟨hl, hk⟩ := homePut_lands (request_same hs true) ha
  rw [exec_copyOrGatherData, takeRequest_served h]
  refine ⟨_, rfl, fun b => ?_, ?_⟩
  · unfold copyServe
    rw [State.reply_mem, State.arrivals_mem]
    exact hl b
  · exact reply_answers (hk.arrivals ..) ..

/-! ### The obligation -/

/-- Settles O45: each event by what it is about. A chunk's bytes and places are met before it moves, and what its engine touches of the
slices and copies beside leaves them. -/
theorem engineEvents : Obligations.EngineEvents := by
  unfold Obligations.EngineEvents
  intro s
  refine ⟨fun t0 cls e c hc => ⟨fun hs => ?_, fun hs => ?_⟩, fun w v hw => ?_, fun w v hw => ?_,
    fun c => ⟨⟨_, rfl, refuse_staysOnRing s c⟩, copyOrGatherData_lands⟩, fun c hc hf hst hj hs hn hr hb => ?_,
    fun n a b h => ?_⟩
  · refine ⟨_, copyCommandStart_starts hc, ?_⟩
    rw [hs]
    exact ⟨rfl, rfl⟩
  · rw [copyCommandStart_starts hc, hs]
    rfl
  · rw [exec_engineCommandFail, if_pos hw]
    exact ⟨_, rfl, State.raiseAsync_waits ..⟩
  · rw [exec_engineCommandFail, hw]
    rfl
  · have hrun := State.runEngines_one hc hf hst hj hs hn
    refine ⟨fun h1 hm ha => ?_, fun h1 h2 hm e he => ?_, fun hd => ?_⟩
    · rw [hrun, if_pos h1]
      exact State.copyStep_moves hc hr hb h1 hm ha
    · intro la len hw hx
      have hbytes : (List.range e.length).map (fun i => s.engByte c (la + BitVec.ofNat 64 i)) = e.map .byte :=
        map_range_bytes fun i hi => hx i (he ▸ hi)
      rw [he] at hbytes
      have hl : engBytes ((List.range 16).map fun i => s.engByte c (la + BitVec.ofNat 64 i)) = (e, none) := by rw [hbytes, engBytes_bytes]
      rw [hrun, if_neg h1]
      exact ⟨fun ho => State.gatherStep_next hc hm hw hl ho, fun ho => State.gatherStep_moves hc hr hb h1 h2 hm hw hl ho⟩
    · rw [hrun]
      obtain ⟨h1, hd⟩ | ⟨h1, hd⟩ := hd
      · rw [if_pos h1]
        exact State.copyStep_finishes hc hd
      · rw [if_neg h1]
        exact State.gatherStep_finishes hc hd
  · have hp := spAddr_beyond n a (j := 4) (by decide)
    exact ⟨_, exec_arrivalUpdate n a b s, fun _ hm => State.arrived_core_ne hp hm, fun h0 => if_pos h0, State.arrived_reaches hp h,
      State.arrived_counts hp h⟩

end Sys2Proof.Machine
end
